-- ==== Sys2Proof/Word.lean ====
section
/-! DEFINITION. The word types of the XQ-1 (R4, R5) and the shape of a sparse table. Nothing here computes. -/

namespace Sys2Proof

/-- 8 bits (R5). -/
abbrev Byte := BitVec 8
/-- 32 bits: R5's word, the width of a vector register in one lane (R20). -/
abbrev Word := BitVec 32
/-- 64 bits: R5's double, the width of a scalar register (R20). -/
abbrev Dbl := BitVec 64
/-- One bit per lane, lane l at bit l; lanes at or above the coach's width hold 0. -/
abbrev Lanes := BitVec 64

/-- A table by number. Canonical form: keys strictly rising and no entry equal to what an unlisted key
reads as. The operations are in Machine/Sparse.lean. -/
abbrev Sparse (α : Type) := List (Nat × α)

end Sys2Proof
end

