-- ==== Sys2Proof/Syntax.lean ====
section
/-! DEFINITION. The instructions and events of the XQ-1, one constructor of Instr per row of the opcode
table: syllables with their operands pulled out of the bits (R35 to R43), the two header flags that are
rows, and the events of the part. -/

namespace Sys2Proof

/-- The four slot classes of a bundle (R19). -/
inductive Slot where
  | v | m | x | c
  deriving DecidableEq, Repr

/-- A guard (R36). -/
inductive Guard where
  /-- 0b01111. -/
  | always
  /-- p(n), negated or not; n is 0 to 11. -/
  | pred (n : Nat) (neg : Bool)
  deriving DecidableEq, Repr

/-- A source of vector kind (R40, R41). -/
inductive VSrc where
  /-- v0 to v191 as written, before renaming. -/
  | reg (n : Nat)
  /-- vb1 to vb4. -/
  | vb (k : Nat)
  /-- mb1 to mb4. -/
  | mb (k : Nat)
  /-- cb1 to cb4. -/
  | cb (k : Nat)
  /-- The constants 0 to 15. -/
  | const (k : Nat)
  /-- 0xE0 + k: a scalar broadcast of the syllable's window (R42). -/
  | bcast (k : Nat)
  /-- 0xFE and its literal word. -/
  | lit (w : Word)
  deriving DecidableEq, Repr

/-- A destination of vector kind (R40). -/
inductive VDst where
  | reg (n : Nat)
  /-- 0xFD (R45). -/
  | latch
  deriving DecidableEq, Repr

/-- A source of scalar kind (R40, R41). -/
inductive SSrc where
  | reg (n : Nat)
  | cb (k : Nat)
  | const (k : Nat)
  /-- 0xFE: one literal word, sign-extended. -/
  | lit (w : Word)
  /-- 0xFF: two literal words, low word first. -/
  | lit64 (w : Dbl)
  deriving DecidableEq, Repr

/-- A destination of scalar kind (R40). -/
inductive SDst where
  | reg (n : Nat)
  | latch
  deriving DecidableEq, Repr

/-- The cache policies of M syllables (R39). -/
inductive Policy where
  | dflt | ro | nc | st
  deriving DecidableEq, Repr

/-- OP vd, va, vb (R164). `dup` is the header's DUPV, `win` is MOD[2:1], `m` is MOD[0]. -/
structure VBin where
  g : Guard
  dup : Bool
  win : BitVec 2
  d : VDst
  a : VSrc
  b : VSrc
  m : Bool
  deriving DecidableEq, Repr

/-- OP vd, va (R164). -/
structure VUn where
  g : Guard
  dup : Bool
  win : BitVec 2
  d : VDst
  a : VSrc
  m : Bool
  deriving DecidableEq, Repr

/-- OP vd, va, vb, vc (R164): c is carried by the extension word (R43). -/
structure VTri where
  g : Guard
  dup : Bool
  win : BitVec 2
  d : VDst
  a : VSrc
  b : VSrc
  c : VSrc
  m : Bool
  deriving DecidableEq, Repr

/-- SEL vd, va, vb, pc (R164). -/
structure VSel where
  g : Guard
  dup : Bool
  win : BitVec 2
  d : VDst
  a : VSrc
  b : VSrc
  pc : Nat
  m : Bool
  deriving DecidableEq, Repr

/-- LANEID vd. -/
structure VLane where
  g : Guard
  dup : Bool
  win : BitVec 2
  d : VDst
  deriving DecidableEq, Repr

/-- ICMP and FCMP: the packed D of R165. -/
structure VCmp where
  g : Guard
  dup : Bool
  win : BitVec 2
  pd : Nat
  cc : BitVec 3
  a : VSrc
  b : VSrc
  deriving DecidableEq, Repr

/-- CHK.V va, vb. -/
structure VChk where
  g : Guard
  win : BitVec 2
  a : VSrc
  b : VSrc
  deriving DecidableEq, Repr

/-- What VOTE reads: a vector source, or a predicate under .P. -/
inductive VoteSrc where
  | vec (a : VSrc)
  | prd (n : Nat)
  deriving DecidableEq, Repr

/-- VOTE pd, va or pa. -/
structure VVote where
  g : Guard
  win : BitVec 2
  pd : Nat
  a : VoteSrc
  deriving DecidableEq, Repr

/-- BALLOT[.HI] vd, pa. -/
structure VBallot where
  g : Guard
  win : BitVec 2
  d : VDst
  pa : Nat
  hi : Bool
  deriving DecidableEq, Repr

/-- XLATE hd, sa, sb (R194). -/
structure MXlate where
  g : Guard
  hd : Nat
  a : SSrc
  b : SSrc
  deriving DecidableEq, Repr

/-- HREL hd. -/
structure MHrel where
  g : Guard
  hd : Nat
  deriving DecidableEq, Repr

/-- PREQ[.W] ha, fb. -/
structure MPreq where
  g : Guard
  ha : Nat
  f : Nat
  w : Bool
  deriving DecidableEq, Repr

/-- LD.x and LDA.W (R214, R238). -/
structure MLoad where
  g : Guard
  d : VDst
  a : VSrc
  h : Nat
  f : Nat
  rp : Bool
  pol : Policy
  deriving DecidableEq, Repr

/-- ST.x and STL.W (R214, R238). -/
structure MStore where
  g : Guard
  a : VSrc
  b : VSrc
  h : Nat
  f : Nat
  pol : Policy
  deriving DecidableEq, Repr

/-- LDS.x vd, [sp+a], fN. -/
structure MSpLoad where
  g : Guard
  d : VDst
  a : VSrc
  f : Nat
  deriving DecidableEq, Repr

/-- STS.x [sp+a], vb, fN. -/
structure MSpStore where
  g : Guard
  a : VSrc
  b : VSrc
  f : Nat
  deriving DecidableEq, Repr

/-- LDC.W vd, [cvK+a], fN. -/
structure MCvLoad where
  g : Guard
  d : VDst
  a : VSrc
  k : Nat
  f : Nat
  deriving DecidableEq, Repr

/-- STC.W [cvK+a], vb, fN. -/
structure MCvStore where
  g : Guard
  a : VSrc
  b : VSrc
  k : Nat
  f : Nat
  deriving DecidableEq, Repr

/-- GATH.W vd, va, fN. -/
structure MGath where
  g : Guard
  d : VDst
  a : VSrc
  f : Nat
  rp : Bool
  pol : Policy
  deriving DecidableEq, Repr

/-- The atomics 0x30 to 0x36: vd is a vector register, operand and result. -/
structure MAtom where
  g : Guard
  d : Nat
  a : VSrc
  h : Nat
  f : Nat
  deriving DecidableEq, Repr

/-- ACAS: the comparand c is the third source. -/
structure MCas where
  g : Guard
  d : Nat
  a : VSrc
  c : VSrc
  h : Nat
  f : Nat
  deriving DecidableEq, Repr

/-- FENCE.kind fN (R238). -/
structure MFence where
  g : Guard
  f : Nat
  deriving DecidableEq, Repr

/-- BARINIT and BEXPECT bK, sa, fN (R249). -/
structure MBar where
  g : Guard
  a : SSrc
  k : Nat
  f : Nat
  deriving DecidableEq, Repr

/-- ARRIVE sd, bK, sa, fN. -/
structure MArrive where
  g : Guard
  d : SDst
  a : SSrc
  k : Nat
  f : Nat
  deriving DecidableEq, Repr

/-- ARRIVEW and BWAIT bK, sa. -/
structure MBarW where
  g : Guard
  a : SSrc
  k : Nat
  deriving DecidableEq, Repr

/-- SSTEP sa, fN (R256). -/
structure MSstep where
  g : Guard
  a : SSrc
  f : Nat
  deriving DecidableEq, Repr

/-- TDESC shK, [sp+a], hN (R263). -/
structure XTdesc where
  g : Guard
  k : Nat
  a : SSrc
  h : Nat
  deriving DecidableEq, Repr

/-- CPY, CPYM and CPYG (R269): `a` is the first coordinate register. -/
structure XCopy where
  g : Guard
  k : Nat
  f : Nat
  a : Nat
  b : SSrc
  deriving DecidableEq, Repr

/-- CPYP shK, sa, fN. -/
structure XPrefetch where
  g : Guard
  k : Nat
  f : Nat
  a : Nat
  deriving DecidableEq, Repr

/-- SEAL sd, fN (R273). -/
structure XSeal where
  g : Guard
  d : Nat
  f : Nat
  deriving DecidableEq, Repr

/-- CWAIT sa. -/
structure XCwait where
  g : Guard
  a : SSrc
  deriving DecidableEq, Repr

/-- MLODGE.fmt vs, fN (R279): `fmt` is the 4-bit format code. -/
structure XLodge where
  g : Guard
  fmt : BitVec 4
  f : Nat
  a : Nat
  deriving DecidableEq, Repr

/-- MSTREAM.fmt[.CL][.Z] aN, fM. -/
structure XStream where
  g : Guard
  acc : Nat
  f : Nat
  fmt : BitVec 4
  cl : Bool
  z : Bool
  deriving DecidableEq, Repr

/-- MSCALE va, sb, fN. -/
structure XScale where
  g : Guard
  f : Nat
  a : Nat
  b : SSrc
  deriving DecidableEq, Repr

/-- MZERO aN, fM. -/
structure XMzero where
  g : Guard
  acc : Nat
  f : Nat
  deriving DecidableEq, Repr

/-- MRD[.Z] vd, aN, sb, fM. -/
structure XMrd where
  g : Guard
  d : Nat
  acc : Nat
  f : Nat
  b : SSrc
  z : Bool
  deriving DecidableEq, Repr

/-- MWR aN, va, sb, fM. -/
structure XMwr where
  g : Guard
  acc : Nat
  f : Nat
  a : Nat
  b : SSrc
  deriving DecidableEq, Repr

/-- DTAB eK, sa, sb (R304). -/
structure XDtab where
  g : Guard
  k : Nat
  a : SSrc
  b : SSrc
  deriving DecidableEq, Repr

/-- DGO and DGO.RS fN. -/
structure XDgo where
  g : Guard
  f : Nat
  deriving DecidableEq, Repr

/-- DPOP vd, dqQ, fN. -/
structure XDpop where
  g : Guard
  d : Nat
  q : Nat
  f : Nat
  deriving DecidableEq, Repr

/-- DSTAT sd, fN. -/
structure XDstat where
  g : Guard
  d : Nat
  f : Nat
  deriving DecidableEq, Repr

/-- Scalar op sd, sa, sb (R109): `m` is MOD. -/
structure CBin where
  g : Guard
  dup : Bool
  d : SDst
  a : SSrc
  b : SSrc
  m : BitVec 3
  deriving DecidableEq, Repr

/-- MOV, POPC, CLZ sd, sa. -/
structure CUn where
  g : Guard
  dup : Bool
  d : SDst
  a : SSrc
  deriving DecidableEq, Repr

/-- SCMP.t.cc pd, sa, sb: `cc` is MOD. -/
structure CCmp where
  g : Guard
  dup : Bool
  pd : Nat
  a : SSrc
  b : SSrc
  cc : BitVec 3
  deriving DecidableEq, Repr

/-- PAND, POR, PXOR pd, [!]pa, [!]pb. -/
structure CPredBin where
  g : Guard
  pd : Nat
  pa : Nat
  pb : Nat
  na : Bool
  nb : Bool
  deriving DecidableEq, Repr

/-- PNOT pd, pa. -/
structure CPnot where
  g : Guard
  pd : Nat
  pa : Nat
  deriving DecidableEq, Repr

/-- P2S sd, pa. -/
structure CP2s where
  g : Guard
  d : SDst
  pa : Nat
  deriving DecidableEq, Repr

/-- S2P pd, sa. -/
structure CS2p where
  g : Guard
  pd : Nat
  a : SSrc
  deriving DecidableEq, Repr

/-- What CHK.S compares. -/
inductive ChkSrc where
  | scalars (a b : SSrc)
  | preds (pa pb : Nat)
  deriving DecidableEq, Repr

/-- CHK.S sa, sb and CHK.S.P pa, pb. -/
structure CChk where
  g : Guard
  s : ChkSrc
  deriving DecidableEq, Repr

/-- The target of BRA and CALL: a REL32 literal, or a scalar under .ABS (R118). -/
inductive Target where
  | rel (w : Word)
  | abs (a : SSrc)
  deriving DecidableEq, Repr

/-- BRA[.ABS][.ALL]. -/
structure CBra where
  g : Guard
  t : Target
  all : Bool
  deriving DecidableEq, Repr

/-- CALL[.ABS] sd, target. -/
structure CCall where
  g : Guard
  d : SDst
  t : Target
  deriving DecidableEq, Repr

/-- A guard and one scalar source: RET, KILL, YIELD, TRAP, BRK, BRK.STEP. -/
structure CSrc where
  g : Guard
  a : SSrc
  deriving DecidableEq, Repr

/-- A guard and two scalar sources: BRK.BSET, BRK.WSET. -/
structure CSrc2 where
  g : Guard
  a : SSrc
  b : SSrc
  deriving DecidableEq, Repr

/-- JTAB va and JTAB.CALL sd, va; the guard is always (R109). -/
structure CJtab where
  a : VSrc
  call : Option SDst
  deriving DecidableEq, Repr

/-- SPLIT [!]pc, else, join; the guard is always (R109). -/
structure CSplit where
  p : Nat
  neg : Bool
  els : Word
  join : Word
  deriving DecidableEq, Repr

/-- EXIT. -/
structure CGuard where
  g : Guard
  deriving DecidableEq, Repr

/-- LSETUP sa, sb; the guard is always (R109). -/
structure CLsetup where
  a : SSrc
  b : SSrc
  deriving DecidableEq, Repr

/-- WAIT fN, sb. -/
structure CWait where
  g : Guard
  f : Nat
  b : SSrc
  deriving DecidableEq, Repr

/-- MON [hN+e]. -/
structure CMon where
  g : Guard
  h : Nat
  b : SSrc
  deriving DecidableEq, Repr

/-- MWAIT sd, sa. -/
structure CMwait where
  g : Guard
  d : SDst
  a : SSrc
  deriving DecidableEq, Repr

/-- SYSRD sd, name: `n` is the literal of A (R150). -/
structure CSysrd where
  g : Guard
  d : SDst
  n : Word
  deriving DecidableEq, Repr

/-- SYSWR name, sb. -/
structure CSyswr where
  g : Guard
  n : Word
  b : SSrc
  deriving DecidableEq, Repr

/-- LAUNCH and ROLLIN sd, [hN+sb], fM (R324, R348). -/
structure CMem where
  g : Guard
  d : Nat
  h : Nat
  f : Nat
  b : SSrc
  deriving DecidableEq, Repr

/-- SNAP[.FULL] sd, [hN+sb], fM. -/
structure CSnap where
  g : Guard
  d : Nat
  h : Nat
  f : Nat
  b : SSrc
  full : Bool
  deriving DecidableEq, Repr

/-- NEXTTILE sd, pd (R327). -/
structure CNextTile where
  g : Guard
  d : Nat
  p : Nat
  deriving DecidableEq, Repr

/-- COMMIT sa, fN. -/
structure CCommit where
  g : Guard
  a : SSrc
  f : Nat
  deriving DecidableEq, Repr

/-- SNAPQ sd, fN. -/
structure CSnapq where
  g : Guard
  d : Nat
  f : Nat
  deriving DecidableEq, Repr

/-- TICK sd. -/
structure CTick where
  g : Guard
  d : Nat
  deriving DecidableEq, Repr

/-- STATQ[.POP] sd, k, fN. -/
structure CStatq where
  g : Guard
  d : Nat
  k : Nat
  f : Nat
  pop : Bool
  deriving DecidableEq, Repr

/-- What a host access does: a read of some bytes, a write, or a 32-bit AtomicOp (R376) as the opcode of the atomic that it
is (AADD.I32, AXCHG, ACAS) with its operand and comparand. -/
inductive HostOp where
  | read (len : Nat)
  | write (bytes : List Byte)
  | atomic (opc : Nat) (v c : Word)
  deriving DecidableEq, Repr

/-- An access of the host through a BAR (R377): function 0 to 8, BAR 0 or 2, byte offset. -/
structure HostAccess where
  fn : Nat
  bar : Nat
  offset : Nat
  op : HostOp
  deriving DecidableEq, Repr

/-- A storage word that can hold an uncorrectable error (R356). -/
inductive Site where
  /-- Vector register n, lane l of a coach. -/
  | vreg (coach n l : Nat)
  /-- Scalar register of a coach. -/
  | sreg (coach n : Nat)
  /-- A predicate of a coach. -/
  | preg (coach n : Nat)
  /-- A 32-bit word of a core's SRAM, by word number. -/
  | sram (core word : Nat)
  /-- An 8-byte word of L2 or HBM by physical address. -/
  | line (pa : Nat)
  /-- A held-store byte area of a party. -/
  | held (party : Nat)
  /-- An accumulator word of a wing. -/
  | acc (wing a w : Nat)
  /-- A lodge word of a wing. -/
  | lodge (wing w : Nat)
  /-- A scale entry of a wing. -/
  | scale (wing w : Nat)
  /-- A beat of a Drover queue of a wing: queue 0 SA, 1 dq0, 2 dq1. -/
  | beat (wing q i : Nat)
  /-- A node of a controller's counter tree (R211), by its key. -/
  | node (key : Nat)
  /-- Lane l of a bypass latch of a coach, by the latch's number; a scalar latch is its lane 0. -/
  | latch (coach id l : Nat)
  /-- A shadow record of a coach, by its number. -/
  | shadow (coach id : Nat)
  /-- Double i of a handle register of a coach. -/
  | hreg (coach n i : Nat)
  /-- A completion flag of a coach. -/
  | flag (coach f : Nat)
  /-- A system or loop register of a coach, by its number (R153). -/
  | sys (coach n : Nat)
  /-- A word of the Courier's staging, by command and place in its stream. -/
  | staging (cmd w : Nat)
  deriving DecidableEq, Repr

/-- What a link carries for a job (R332, R335, R387): requests of a peer package, answers to our own, job-to-job
messages, and the 32-byte packets of the vendor class. -/
inductive LinkBody where
  | read (req pa len : Nat)
  | write (req pa : Nat) (bytes : List (Nat × Byte))
  /-- The lanes of an atomic within one line, in their order: address, operand, comparand (R222). -/
  | atomic (req opc : Nat) (lanes : List (Nat × Word × Word))
  | readResp (req : Nat) (bytes : List Byte)
  | ack (req : Nat)
  | atomicResp (req : Nat) (olds : List Word)
  /-- The answer to a read or atomic of a word that holds an uncorrectable error (R357). -/
  | poisoned (req : Nat)
  | message (bytes : List Byte)
  | packet (d0 d1 d2 d3 : Dbl)
  deriving DecidableEq, Repr

/-- An item with its vendor header (R387): the sending die's epoch, and the job, by its identifier and its job table index. -/
structure LinkItem where
  asid : Nat
  epoch : Nat
  index : Nat := 0
  body : LinkBody
  deriving DecidableEq, Repr

/-- What the boot ROM meets (R379, R384): the power-up state of the SRAM region that identifies the device, whether the HBM4 stacks and
the die-to-die links train, and the tick of the pod's reference that firmware sets (R361). -/
structure BootInput where
  fingerprint : List Byte
  hbm : Bool
  links : Bool
  tick : Nat
  deriving DecidableEq, Repr

/-- The instructions and events, one constructor per row of the opcode table: in its order those with operands, then six
outside events, then those without operands. -/
inductive Instr where
  /-- R38: Empty syllable of any slot; does nothing and ignores its guard. -/
  | nop (slot : Slot) (grd : BitVec 5)
  /-- R166: Adds two 32-bit lane values, wrapping or saturating under .SAT. -/
  | iaddI32 (o : VBin)
  /-- R166: Subtracts two 32-bit lane values, wrapping or saturating. -/
  | isubI32 (o : VBin)
  /-- R166: Low 32 bits of the lane product. -/
  | imulI32 (o : VBin)
  /-- R166: High 32 bits of the signed lane product. -/
  | imulhI32 (o : VBin)
  /-- R166: High 32 bits of the unsigned lane product. -/
  | imulhN32 (o : VBin)
  /-- R166: Multiply-add of three lane values mod 2^32. -/
  | imadI32 (o : VTri)
  /-- R166: Signed minimum per lane. -/
  | iminI32 (o : VBin)
  /-- R166: Signed maximum per lane. -/
  | imaxI32 (o : VBin)
  /-- R166: Unsigned minimum per lane. -/
  | iminN32 (o : VBin)
  /-- R166: Unsigned maximum per lane. -/
  | imaxN32 (o : VBin)
  /-- R166: Bitwise AND per lane. -/
  | vAnd (o : VBin)
  /-- R166: Bitwise OR per lane. -/
  | vOr (o : VBin)
  /-- R166: Bitwise XOR per lane. -/
  | vXor (o : VBin)
  /-- R166: Left shift per lane, 0 for shifts of 32 or more. -/
  | vShl (o : VBin)
  /-- R166: Logical right shift per lane. -/
  | shrN32 (o : VBin)
  /-- R166: Arithmetic right shift per lane. -/
  | shrI32 (o : VBin)
  /-- R166: Population count per lane. -/
  | vPopc (o : VUn)
  /-- R166: Leading-zero count per lane. -/
  | vClz (o : VUn)
  /-- R167: Extracts a bit field per lane, optionally sign-extended. -/
  | vBfx (o : VBin)
  /-- R166: Selects A or B per lane by a predicate. -/
  | sel (o : VSel)
  /-- R166: Copies a value into each active lane. -/
  | vMov (o : VUn)
  /-- R166: Signed four-byte dot product plus accumulator. -/
  | idp4I8 (o : VTri)
  /-- R166: Unsigned four-byte dot product plus accumulator. -/
  | idp4N8 (o : VTri)
  /-- R166: Writes each lane's index. -/
  | laneid (o : VLane)
  /-- R168: Signed compare into a predicate. -/
  | icmpI32 (o : VCmp)
  /-- R168: Unsigned compare into a predicate. -/
  | icmpN32 (o : VCmp)
  /-- R184: Compares two vector values and raises CHKFAIL on any difference. -/
  | chkV (o : VChk)
  /-- R169: F32 addition per lane. -/
  | faddF32 (o : VBin)
  /-- R169: F32 subtraction per lane. -/
  | fsubF32 (o : VBin)
  /-- R169: F32 multiplication per lane. -/
  | fmulF32 (o : VBin)
  /-- R170: F32 fused multiply-add per lane. -/
  | ffmaF32 (o : VTri)
  /-- R172: F32 minimum per lane. -/
  | fminF32 (o : VBin)
  /-- R172: F32 maximum per lane. -/
  | fmaxF32 (o : VBin)
  /-- R173: F32 compare into a predicate. -/
  | fcmpF32 (o : VCmp)
  /-- R174: Rounds F32 to an integral value. -/
  | frndF32 (o : VUn)
  /-- R171: Packed F16 pair addition. -/
  | faddF16x2 (o : VBin)
  /-- R171: Packed F16 pair multiplication. -/
  | fmulF16x2 (o : VBin)
  /-- R171: Packed F16 pair fused multiply-add. -/
  | ffmaF16x2 (o : VTri)
  /-- R171: Packed B16 pair addition. -/
  | faddB16x2 (o : VBin)
  /-- R171: Packed B16 pair multiplication. -/
  | fmulB16x2 (o : VBin)
  /-- R171: Packed B16 pair fused multiply-add. -/
  | ffmaB16x2 (o : VTri)
  /-- R107: Converts I32 to F32. -/
  | cvtF32I32 (o : VUn)
  /-- R107: Converts N32 to F32. -/
  | cvtF32N32 (o : VUn)
  /-- R107: Converts F32 to I32, saturating and setting IV when out of range. -/
  | cvtI32F32 (o : VUn)
  /-- R107: Converts F32 to N32, saturating and setting IV when out of range. -/
  | cvtN32F32 (o : VUn)
  /-- R175: Converts two F32 values to a packed F16 pair. -/
  | cvtF16x2F32 (o : VBin)
  /-- R175: Converts two F32 values to a packed B16 pair. -/
  | cvtB16x2F32 (o : VBin)
  /-- R175: Converts F16 to F32 exactly. -/
  | cvtF32F16 (o : VUn)
  /-- R175: Converts B16 to F32 exactly. -/
  | cvtF32B16 (o : VUn)
  /-- R175: Converts two F32 values to a packed E4M3 pair. -/
  | cvtE4m3x2F32 (o : VBin)
  /-- R175: Converts two F32 values to a packed E5M2 pair. -/
  | cvtE5m2x2F32 (o : VBin)
  /-- R175: Converts E4M3 to F32 exactly. -/
  | cvtF32E4m3 (o : VUn)
  /-- R175: Converts E5M2 to F32 exactly. -/
  | cvtF32E5m2 (o : VUn)
  /-- R176: Correctly rounded reciprocal. -/
  | rcpF32 (o : VUn)
  /-- R176: Correctly rounded reciprocal square root. -/
  | rsqF32 (o : VUn)
  /-- R176: Correctly rounded square root. -/
  | sqrtF32 (o : VUn)
  /-- R176: Correctly rounded base-2 exponential. -/
  | exp2F32 (o : VUn)
  /-- R176: Correctly rounded base-2 logarithm. -/
  | log2F32 (o : VUn)
  /-- R176: Correctly rounded sine. -/
  | sinF32 (o : VUn)
  /-- R176: Correctly rounded cosine. -/
  | cosF32 (o : VUn)
  /-- R176: Hyperbolic tangent, exactly ±1 for |x| ≥ 9. -/
  | tanhF32 (o : VUn)
  /-- R180: Shuffles from an indexed lane. -/
  | shflIdx (o : VBin)
  /-- R180: Shuffles from a lower lane. -/
  | shflUp (o : VBin)
  /-- R180: Shuffles from a higher lane. -/
  | shflDn (o : VBin)
  /-- R180: Shuffles from the lane with the XORed index. -/
  | shflXor (o : VBin)
  /-- R181: Writes a predicate that is true if any active lane votes true. -/
  | voteAny (o : VVote)
  /-- R181: Writes a predicate that is true if all active lanes vote true. -/
  | voteAll (o : VVote)
  /-- R181: Writes the mask of active lanes whose predicate is true. -/
  | ballot (o : VBallot)
  /-- R182: Integer sum over the active lanes. -/
  | redIadd (o : VUn)
  /-- R182: F32 sum over the active lanes in a fixed tree. -/
  | redFaddF32 (o : VUn)
  /-- R182: Inclusive or exclusive integer prefix sum. -/
  | scanIadd (o : VUn)
  /-- R183: Encodes 32-lane blocks into D8. -/
  | blkqD8 (o : VUn)
  /-- R183: Encodes 32-lane blocks into D4; gated by feature bit 9. -/
  | blkqD4 (o : VUn)
  /-- R195: Translates a virtual address into a handle, from the cache or by starting a walk. -/
  | xlate (o : MXlate)
  /-- R196: Empties a handle and ends any monitor armed through it. -/
  | hrel (o : MHrel)
  /-- R197: Asks for a page to be made resident and completes on the response. -/
  | preq (o : MPreq)
  /-- R218: Loads a byte per lane, zero-extended. -/
  | ldN8 (o : MLoad)
  /-- R218: Loads a half per lane, zero-extended. -/
  | ldN16 (o : MLoad)
  /-- R218: Loads a word per lane through a handle. -/
  | ldW (o : MLoad)
  /-- R218: Loads a double per lane into two registers. -/
  | ldD (o : MLoad)
  /-- R218: Loads 16 bytes per lane into four registers. -/
  | ldQ (o : MLoad)
  /-- R219: Stores a byte per lane. -/
  | stB (o : MStore)
  /-- R219: Stores a half per lane. -/
  | stH (o : MStore)
  /-- R219: Stores a word per lane. -/
  | stW (o : MStore)
  /-- R219: Stores a double per lane. -/
  | stD (o : MStore)
  /-- R219: Stores 16 bytes per lane. -/
  | stQ (o : MStore)
  /-- R225: Loads a word per lane from the party's scratchpad. -/
  | ldsW (o : MSpLoad)
  /-- R225: Loads 16 bytes per lane from the party's scratchpad. -/
  | ldsQ (o : MSpLoad)
  /-- R225: Stores a word per lane to the party's scratchpad. -/
  | stsW (o : MSpStore)
  /-- R225: Stores 16 bytes per lane to the party's scratchpad. -/
  | stsQ (o : MSpStore)
  /-- R225: Loads a word per lane from a convoy member's scratchpad. -/
  | ldcW (o : MCvLoad)
  /-- R225: Stores a word per lane to a convoy member's scratchpad. -/
  | stcW (o : MCvStore)
  /-- R218: Gathers a word per lane through a handle that each lane names. -/
  | gathW (o : MGath)
  /-- R239: Acquire load performed at the home, then self-invalidation of the core's L1. -/
  | ldaW (o : MLoad)
  /-- R240: Release store performed after a commit and after every earlier access. -/
  | stlW (o : MStore)
  /-- R241: Holds later loads until earlier loads are performed and L1 self-invalidates. -/
  | fenceAcq (o : MFence)
  /-- R241: Commits, then holds later stores until earlier accesses are performed. -/
  | fenceRel (o : MFence)
  /-- R241: Acquire and release effects, and holds every later access. -/
  | fenceFull (o : MFence)
  /-- R222: Atomic integer add at the home, returning the old value. -/
  | aaddI32 (o : MAtom)
  /-- R222: Atomic F32 add at the home. -/
  | aaddF32 (o : MAtom)
  /-- R222: Atomic signed minimum. -/
  | aminI32 (o : MAtom)
  /-- R222: Atomic signed maximum. -/
  | amaxI32 (o : MAtom)
  /-- R222: Atomic AND. -/
  | aand (o : MAtom)
  /-- R222: Atomic OR. -/
  | aor (o : MAtom)
  /-- R222: Atomic exchange. -/
  | axchg (o : MAtom)
  /-- R222: Atomic compare-and-swap. -/
  | acas (o : MCas)
  /-- R250: Arms a barrier object, clearing STRAY, FAULT and PENDING. -/
  | barinit (o : MBar)
  /-- R251: Releases and counts arrivals at a barrier without stopping. -/
  | arrive (o : MArrive)
  /-- R251: Releases, counts arrivals and stops until the phase flips. -/
  | arrivew (o : MBarW)
  /-- R252: Stops until a barrier's phase differs from the given phase. -/
  | bwait (o : MBarW)
  /-- R253: Credits a barrier's byte balance with a signed count. -/
  | bexpect (o : MBar)
  /-- R256: Commits the party and arrives at a superstep of a D or C level. -/
  | sstep (o : MSstep)
  /-- R263: Validates a shape descriptor and writes it into a shape slot. -/
  | tdesc (o : XTdesc)
  /-- R269: Copies a box from memory to the party's scratchpad. -/
  | cpyLd (o : XCopy)
  /-- R269: Copies a box from scratchpad to memory. -/
  | cpySt (o : XCopy)
  /-- R269: Reads a box once and multicasts it to the scratchpads of convoy members. -/
  | cpym (o : XCopy)
  /-- R269: Copies a box from memory to memory through two slots. -/
  | cpyg (o : XCopy)
  /-- R270: Prefetches a box into the home L2 slices. -/
  | cpyp (o : XPrefetch)
  /-- R273: Closes the coach's open batch and returns its number. -/
  | seal (o : XSeal)
  /-- R274: Stops until a sealed batch is complete. -/
  | cwait (o : XCwait)
  /-- R283: Lodges B from registers at a rendezvous of the four wings. -/
  | mlodge (o : XLodge)
  /-- R286: Streams an A tile against the lodged B into an accumulator. -/
  | mstream (o : XStream)
  /-- R285: Writes exponent pairs into the A scale table or the B staging table. -/
  | mscale (o : XScale)
  /-- R296: Zeroes an accumulator. -/
  | mzero (o : XMzero)
  /-- R296: Reads accumulator rows into registers, optionally zeroing them. -/
  | mrd (o : XMrd)
  /-- R296: Writes register words into accumulator rows. -/
  | mwr (o : XMwr)
  /-- R305: Writes an entry of the Drover's shadow table. -/
  | dtab (o : XDtab)
  /-- R306: Copies the shadow table and starts a Drover walk. -/
  | dgo (o : XDgo)
  /-- R315: Resumes a suspended Drover walk from its position. -/
  | dgoRs (o : XDgo)
  /-- R313: Moves the oldest visible beat of a vector queue into a register. -/
  | dpop (o : XDpop)
  /-- R314: Reads the Drover's status. -/
  | dstat (o : XDstat)
  /-- R110: 64-bit scalar add, wrapping or saturating. -/
  | add (o : CBin)
  /-- R110: 64-bit scalar subtract, wrapping or saturating. -/
  | sub (o : CBin)
  /-- R110: 64-bit scalar multiply. -/
  | mul (o : CBin)
  /-- R110: High half of the signed 64-bit product. -/
  | mulhI64 (o : CBin)
  /-- R110: High half of the unsigned 64-bit product. -/
  | mulhN64 (o : CBin)
  /-- R110: Scalar bitwise AND. -/
  | cAnd (o : CBin)
  /-- R110: Scalar bitwise OR. -/
  | cOr (o : CBin)
  /-- R110: Scalar bitwise XOR. -/
  | cXor (o : CBin)
  /-- R110: Scalar left shift. -/
  | cShl (o : CBin)
  /-- R110: Scalar logical right shift. -/
  | shrN64 (o : CBin)
  /-- R110: Scalar arithmetic right shift. -/
  | shrI64 (o : CBin)
  /-- R110: Scalar signed minimum. -/
  | minI64 (o : CBin)
  /-- R110: Scalar signed maximum. -/
  | maxI64 (o : CBin)
  /-- R110: Scalar unsigned minimum. -/
  | minN64 (o : CBin)
  /-- R110: Scalar unsigned maximum. -/
  | maxN64 (o : CBin)
  /-- R110: Scalar move. -/
  | cMov (o : CUn)
  /-- R110: Scalar population count. -/
  | cPopc (o : CUn)
  /-- R110: Scalar leading-zero count. -/
  | cClz (o : CUn)
  /-- R111: Scalar bit-field extract. -/
  | cBfx (o : CBin)
  /-- R113: Signed scalar compare into a predicate. -/
  | scmpI64 (o : CCmp)
  /-- R113: Unsigned scalar compare into a predicate. -/
  | scmpN64 (o : CCmp)
  /-- R114: Predicate AND with optional negation. -/
  | pand (o : CPredBin)
  /-- R114: Predicate OR with optional negation. -/
  | por (o : CPredBin)
  /-- R114: Predicate XOR with optional negation. -/
  | pxor (o : CPredBin)
  /-- R114: Predicate NOT. -/
  | pnot (o : CPnot)
  /-- R115: Moves predicate lane bits into a scalar. -/
  | p2s (o : CP2s)
  /-- R115: Moves scalar bits into predicate lanes. -/
  | s2p (o : CS2p)
  /-- R116: Compares two scalar or predicate values and raises CHKFAIL on a difference. -/
  | chkS (o : CChk)
  /-- R117: Branch, relative or absolute, with one delay bundle. -/
  | bra (o : CBra)
  /-- R119: Branches and writes the return address. -/
  | call (o : CCall)
  /-- R128: Returns, or performs the join step on a matching dispatch-call entry. -/
  | ret (o : CSrc)
  /-- R127: Dispatches lanes through the dispatch table, pushing a path per distinct index. -/
  | jtab (o : CJtab)
  /-- R124: Divides the current path by a predicate and pushes stack entries. -/
  | split (o : CSplit)
  /-- R126: Ends the active lanes. -/
  | exit (o : CGuard)
  /-- R126: Ends the live lanes selected by a mask. -/
  | kill (o : CSrc)
  /-- R132: Starts a software-pipelined loop. -/
  | lsetup (o : CLsetup)
  /-- R135: Stops the coach until a flag counts at most n. -/
  | wait (o : CWait)
  /-- R136: Arms the coach's monitor on a line at its home slice. -/
  | mon (o : CMon)
  /-- R137: Stops the coach until a monitor wake event. -/
  | mwait (o : CMwait)
  /-- R138: Makes the coach not ready for c cycles and resets its wait counter. -/
  | yield (o : CSrc)
  /-- R151: Raises SOFT after its own bundle. -/
  | trap (o : CSrc)
  /-- R153: Reads a system register. -/
  | sysrd (o : CSysrd)
  /-- R153: Writes a system register. -/
  | syswr (o : CSyswr)
  /-- R368: Raises BRK at its own bundle. -/
  | brk (o : CSrc)
  /-- R370: Sets the coach's step count. -/
  | brkStep (o : CSrc)
  /-- R369: Sets a breakpoint comparator of the wing. -/
  | brkBset (o : CSrc2)
  /-- R371: Sets a watch comparator of the wing. -/
  | brkWset (o : CSrc2)
  /-- R324: Commits, reads a launch record and hands it to the coordinator. -/
  | launch (o : CMem)
  /-- R327: Commits the party and obtains the next tile, a retry or exhaustion. -/
  | nexttile (o : CNextTile)
  /-- R328: Commits the party and records its token. -/
  | commit (o : CCommit)
  /-- R349: Starts a snapshot generation and takes this die's cut. -/
  | snap (o : CSnap)
  /-- R350: Reads the job-wide snapshot state. -/
  | snapq (o : CSnapq)
  /-- R351: Privileged: starts the rollback of a job to a generation. -/
  | rollin (o : CMem)
  /-- R362: Reads the global tick. -/
  | tick (o : CTick)
  /-- R374: Reads, and optionally pops, the oldest statistics record of the ASID. -/
  | statq (o : CStatq)
  /-- R46: A fixed-latency result reaches its register and latch. -/
  | resultLanding (coach idx : Nat)
  /-- R135: A stopped coach's flag count falls to n and the coach is ready again. -/
  | waitEnd (coach : Nat)
  /-- R137: A write to the monitored line or loss of the monitor ends MWAIT. -/
  | mwaitWake (coach : Nat)
  /-- R137: t ticks pass and MWAIT ends with reason 1. -/
  | mwaitTimeout (coach : Nat)
  /-- R138: The yield count runs out and the coach is ready again. -/
  | yieldExpire (coach : Nat)
  /-- R370: The step count reaches zero and the coach freezes with BRK source 2. -/
  | stepTrap (coach : Nat)
  /-- R195: A page walk ends and the pending handle takes its state. -/
  | walkEnd (walk : Nat)
  /-- R54: A variable-latency access is performed and counted complete on its flag. -/
  | memoryAccessComplete (op part : Nat)
  /-- R236: A previous owner acknowledges loss of ownership, letting the write count. -/
  | lossNoticeAck (op : Nat)
  /-- R197: A PCI Express page response completes a host-half PREQ. -/
  | pageResponse (req : Nat) (granted : Bool)
  /-- R338: Every home has moved the committed bytes into its lines. -/
  | commitDrainComplete (commit part : Nat)
  /-- R154: The Ostler requests a party's coaches to halt at their boundaries. -/
  | preemptRequest (party : Nat)
  /-- R154: After the drain, contexts and scratchpad are saved and resources released. -/
  | preemptSave (party : Nat)
  /-- R156: A pre-empted party is restored whole on its die. -/
  | partyRestore (party : Nat)
  /-- R160: The duplicated coach-state tables differ; recent bundles are squashed and replayed. -/
  | tableMismatch (wing : Nat)
  /-- R320: The Ostler places a pending party when a core offers room. -/
  | partyPlace (party : Nat)
  /-- R322: A party pending 4 ms is promoted to effective priority 4. -/
  | priorityPromote (party : Nat)
  /-- R126: An ended coach's flags reach zero and its registers and entry are released. -/
  | coachRelease (coach : Nat)
  /-- R329: Every party has ended and the coordinator writes DONE. -/
  | launchDone (launch : Nat)
  /-- R327: The coordinator deals a chunk of 16 tiles to a die's pool. -/
  | tileChunkDeal (launch die : Nat)
  /-- R257: Every party of the group has arrived and its accesses are performed. -/
  | superstepComplete (launch group level : Nat)
  /-- R254: A chunk is written to scratchpad and counted at the destination barrier. -/
  | courierChunkDelivery (cmd chunk : Nat)
  /-- R272: All source bytes are read and the command's flag counts complete. -/
  | courierSourceRead (cmd part : Nat)
  /-- R272: Every write is performed and every chunk counted. -/
  | courierCommandComplete (cmd : Nat)
  /-- R273: A sealed batch and all earlier ones complete; CB advances and CWAIT stops end. -/
  | batchComplete (coach : Nat)
  /-- R281: A queued matrix operation reaches the head with its conditions met and starts. -/
  | matrixOpStart (wing : Nat)
  /-- R283: Every MLODGE of a lodge group stands at the head; B is broadcast and lodged. -/
  | mlodgeRendezvous (party : Nat)
  /-- R281: A matrix operation's result is in place and its flag counts. -/
  | matrixOpComplete (wing op : Nat)
  /-- R295: A stream waits 4,096 cycles for its tile and records MSTARVE. -/
  | mstarve (wing : Nat)
  /-- R308: The Drover reserves slots and issues the reads of one iteration. -/
  | droverIteration (wing : Nat)
  /-- R308: A beat's read returns into its reserved queue slot. -/
  | droverBeatArrival (wing beat : Nat)
  /-- R308: Every reserved beat has arrived; the Drover goes idle and counts its flag. -/
  | droverWalkEnd (wing : Nat)
  /-- R202: Invalidates a range at each core's invalidation point. -/
  | inval (core : Nat)
  /-- R202: Sets write-block on a range's handles. -/
  | wbset (core : Nat)
  /-- R202: Ends a job's context and empties all its handles. -/
  | release (core : Nat)
  /-- R201: A host ATS invalidation request is executed as an INVAL. -/
  | atsInvalidation (pasid va len : Nat)
  /-- R377: A host access through BAR0 or BAR2 reaches the device. -/
  | hostBarAccess (o : HostAccess)
  /-- R228: A pseudo-channel issues an owed all-bank refresh. -/
  | refresh (channel : Nat)
  /-- R228: A stack raises its refresh-management alert. -/
  | refreshAlert (channel : Nat)
  /-- R356: The scrubber reads SRAM and L2 words and poisons and logs uncorrectable ones. -/
  | scrub (o : Site)
  /-- R336: A waymark arrives on a link, triggering or completing the die's cut. -/
  | waymarkArrival (link : Nat) (o : LinkItem)
  /-- R336: A stamped item arrives and is applied, logged, held or triggers a cut. -/
  | linkItemArrival (link : Nat) (o : LinkItem)
  /-- R334: A cut delayed 2 ms aborts the generation with cause 1. -/
  | cutDelayTimeout (asid die : Nat)
  /-- R343: A package drains its pending granules, then manifest, records and log. -/
  | granuleDrain (asid : Nat)
  /-- R335: A package report message reaches the coordinator package. -/
  | packageReport (o : LinkItem)
  /-- R335: The coordinator's verdict message completes or aborts a generation. -/
  | verdict (o : LinkItem)
  /-- R352: A rollback notice arrives on a link. -/
  | rollbackNotice (link : Nat) (o : LinkItem)
  /-- R365: The tick reaches T and every clock domain of the named dies is gated. -/
  | dieStop (die : Nat)
  /-- R375: The chosen cycle of an interval tags a bundle for sampling. -/
  | lanternSample (wing : Nat)
  /-- R375: The tagged bundle has landed and a LANTERN record is appended. -/
  | lanternRecord (wing : Nat)
  /-- R360: COUNT reaches N and flits are corrupted, dropped or delayed. -/
  | injectorFire (inj : Nat)
  /-- R360: A link goes down, losing in-flight items and stopping its jobs. -/
  | linkDown (link : Nat)
  /-- R379: After reset the ROM verifies, trains and starts the package. -/
  | boot (o : BootInput)
  /-- R380: In recovery, a mailbox command writes a new signed image to flash. -/
  | recoveryImageWrite (image : List Byte) (signature : List Byte)
  /-- R379: A UALink port named by the job table trains, comes up and aligns the global tick with the other packages. -/
  | ualinkTraining (port : Nat)
  /-- R161: Firmware returns a wing that escalated three mismatches to service, so the Ostler may place parties on it again. -/
  | wingReturnToService (wing : Nat)
  /-- R357: Firmware restarts a steward coach that ended after consuming an uncorrectable error. -/
  | stewardRestart (coach : Nat)
  /-- R354: A package that stays silent for 4 heartbeats of 0.5 s is detected as unreachable, aborting a draining generation with cause 4. -/
  | heartbeatTimeout (asid package : Nat)
  /-- R378: A write to a configuration field without behaviour of its own, discarded if not permitted. -/
  | configWrite (offset value : Nat)
  /-- R389: Die current above its limit stretches that die's clock. -/
  | currentLimit (die current : Nat)
  /-- R389: Package power above the limit lowers the arithmetic clock. -/
  | thermalLimit (power : Nat)
  /-- R389: A junction sensor above 105 °C throttles; at 115 °C the package stops and resets. -/
  | junctionLimit (celsius : Nat)
  /-- R189: The host programs a function's BAR2 base, or enables AtomicOp completion, in PCI Express configuration space, which changes which host-half addresses fall in the device memory window. -/
  | barProgramming (fn base : Nat) (ranges : List (Nat × Nat)) (atomicOp : Bool)
  /-- R131: Header flag: renames with the old bases, then advances each rotation base with a nonzero size after the bundle issues. -/
  | rot
  /-- R133: Header STAGE 0x1: at the end of a loop body, steps LCNT or ECNT, shifts the stage predicates and returns to LBODY or leaves the loop. -/
  | lend
  /-- R125: Invokes the join step. -/
  | join
  /-- R152: Returns from a handler and re-delivers the trap set. -/
  | rett
  /-- R200: The coordinator takes the next translation command after PROD is written. -/
  | tcqTake
  /-- R201: Creates or replaces a job's translation context. -/
  | context
  /-- R201: Answers a device-half page request, completing the PREQ. -/
  | presp
  /-- R203: Every core has passed the point and prior accesses are performed; DONE advances. -/
  | tcqCommandComplete
  /-- R378: Writing LIVEGEN makes the controllers apply the liveness bitmap. -/
  | livegenWrite
  /-- R364: Mailbox command: verifies and holds a debug grant. -/
  | auth
  /-- R365: Mailbox command: arms a stop of named dies at a tick. -/
  | stopat
  /-- R366: Mailbox command: reads one double of a stopped die's state. -/
  | scan
  /-- R365: Mailbox command: ungates the named dies. -/
  | resume
  /-- R363: Mailbox command: enables or disables comparators for an ASID. -/
  | dbgen
  /-- R375: Mailbox command: starts or stops lantern sampling. -/
  | lantern
  /-- R359: Mailbox command: reads an injector register. -/
  | injrd
  /-- R359: Mailbox command: writes an injector register. -/
  | injwr
  /-- R364: The debug grant lapses, disarming injectors, lantern and DBGEN. -/
  | grantExpiry
  /-- R382: Writing STATE = 3 sets NEGMASK once per boot. -/
  | negotiate
  /-- R386: The key manager takes the next command of its queue. -/
  | kmqTake
  /-- R386: Generates a key into the job's slot and binds it. -/
  | kgen
  /-- R386: Returns a quote and the slot key wrapped under an owner's key. -/
  | kseal
  /-- R386: Decrypts a sealed host buffer into encrypted device pages. -/
  | kimport
  /-- R386: Zeroes a key slot. -/
  | kclear
  deriving DecidableEq, Repr

end Sys2Proof
end

