-- ==== Sys2Proof/Config.lean ====
section
/-! DEFINITION. What the manual leaves open or takes from another standard: constants with no body, so that a
statement about them holds for every value. -/

namespace Sys2Proof.Config

/-- A free choice (log 1). First argument: State.freeCtr, which advances at each use; second: the
place of use. Read as a choice among n by taking it modulo n. -/
opaque choice : Nat → Nat → Nat

/-- Where an uncorrectable error arises in a period, if one does (R356, log 1). -/
opaque upset : Nat → Option Site

/-- A free 32-bit value for one lane or word (log 1): counter, place, lane or word. -/
opaque freeWord : Nat → Nat → Nat → BitVec 32

/-- A free 64-bit value (log 1): counter, place. -/
opaque freeDbl : Nat → Nat → BitVec 64

/-- SHAKE256 with 256-bit output, named by R72, R344, R384: the standard's function, uninterpreted (log 5). Its bytes are taken lowest
first. -/
opaque shake256 : List (BitVec 8) → BitVec 256

/-- AES-256-GCM sealing of R343 and R386: key, nonce, plaintext; answers ciphertext and 16-byte tag (log 5). -/
opaque gcmSeal : List (BitVec 8) → List (BitVec 8) → List (BitVec 8) → List (BitVec 8) × List (BitVec 8)

/-- AES-256-GCM opening (R386): key, nonce, ciphertext, tag; none on a tag failure (log 5). -/
opaque gcmOpen : List (BitVec 8) → List (BitVec 8) → List (BitVec 8) → List (BitVec 8) → Option (List (BitVec 8))

/-- XMSS verification (R383): public key, message, signature (log 5). -/
opaque xmssVerify : List (BitVec 8) → List (BitVec 8) → List (BitVec 8) → Bool

/-- XMSS signature with a leaf of the key that a seed generates (R384): seed, leaf index, message (log 5). -/
opaque xmssSign : BitVec 256 → Nat → List (BitVec 8) → List (BitVec 8)

/-- The public key of the XMSS key that a seed generates (R384) (log 5). -/
opaque xmssPublic : BitVec 256 → List (BitVec 8)

/-- The power-up state of the 64 KiB SRAM region that identifies the device (R384), at a boot (logs 1 and 5). -/
opaque fingerprint : Nat → List (BitVec 8)

/-- The fuzzy extractor of R384: power-up state and helper data; none if it yields no seed (log 5). -/
opaque fuzzySeed : List (BitVec 8) → List (BitVec 8) → Option (BitVec 256)

/-- The digest of the vendor root key that the boot ROM holds (R379). -/
opaque rootDigest : BitVec 256

/-- What a configuration record holds, whose layout the manual does not give (log 88): the helper data of R384, the debug public key
of R364, whether its repair data is consistent (R379, R380), and the limits of R389: amperes per compute die, watts, degrees. -/
opaque recordHelper : List (BitVec 8) → List (BitVec 8)
opaque recordDebugKey : List (BitVec 8) → List (BitVec 8)
opaque recordRepair : List (BitVec 8) → Bool
opaque recordCurrent : List (BitVec 8) → Nat
opaque recordPower : List (BitVec 8) → Nat
opaque recordJunction : List (BitVec 8) → Nat

/-- The number of the mailbox command of R380, which R363's table does not list (log 88); see `imageCode`. -/
opaque imageCommand : Nat

/-- ML-KEM-1024 wrapping of a slot key under an owner's encapsulation key (R386): randomness, encapsulation
key, slot key (log 5). -/
opaque kemWrap : Nat → List (BitVec 8) → List (BitVec 8) → List (BitVec 8)

/-- A fresh 256-bit key generated on chip (R386): counter (log 5). -/
opaque freshKey : Nat → List (BitVec 8)

/-- The die, 0 to 7, whose stacks hold a physical address: R227 names it by its stacks and gives no bit
positions (log 6). Read modulo 8. -/
opaque homeDieRaw : Nat → Nat

/-- Which of the two stacks of a die holds an address (R227, R229; log 6). Read modulo 2. -/
opaque stackRaw : Nat → Nat

/-- Whether the package's whole capacity is protected, so that a sixteenth of each stack holds integrity metadata (R21, log 80). -/
opaque protectAll : Bool

/-- AES-256 of a 16-byte block under a key, named by R210: the standard's function, uninterpreted (log 5). -/
opaque aes256 : List (BitVec 8) → BitVec 128 → BitVec 128

/-- KMAC256 under a key over a line's ciphertext, its address and its counter, truncated to 56 bits (R210): the standard's function,
uninterpreted (log 5). -/
opaque kmac256 : List (BitVec 8) → List (BitVec 8) → Nat → Nat → BitVec 56

/-- The virtual address, in granules, under which a package of a job maps a granule of its own (R345), which the other packages are not
told: job tag, package, granule (log 89). -/
opaque peerVa : Nat → Nat → Nat → Nat

/-- How long the package's agents put off what R330 promises, in ticks (log 1). -/
opaque patience : Nat

/-- The cycle of a lantern interval that a wing's generator picks (R375 gives no polynomial): wing, interval
number, exponent (log 1). -/
opaque lanternPick : Nat → Nat → Nat → Nat

/-- The ASID of the job that a function of the host port serves (R326; log 84): how system software assigns it the manual does not say.
Read modulo 2^16. -/
opaque functionJob : Nat → Nat

/-- The translator of R86 and R87: the object that it makes of a code object for a mask and a timing model, or none if it cannot
(log 75). The manual says what it may do and not what it makes. -/
opaque uzodan : List (BitVec 8) → BitVec 512 → BitVec 64 → Option (List (BitVec 8))

end Sys2Proof.Config
end

