-- ==== Sys2Proof/Machine/Sparse.lean ====
section
/-! DEFINITION. Operations on tables by number and on byte memories, and on fields of words. A table lists, by
rising number, only what differs from its default. -/

namespace Sys2Proof.Machine

/-- The entry at k; `d` is what an unlisted number reads as. -/
def sget {α : Type} (d : α) : Sparse α → Nat → α
  | [], _ => d
  | (j, v) :: l, k => if j = k then v else if k < j then d else sget d l k

/-- Writes v at k, keeping the numbers rising and the default unlisted. -/
def sset {α : Type} [DecidableEq α] (d : α) : Sparse α → Nat → α → Sparse α
  | [], k, v => if v = d then [] else [(k, v)]
  | (j, w) :: l, k, v =>
    if k < j then (if v = d then (j, w) :: l else (k, v) :: (j, w) :: l)
    else if k = j then (if v = d then l else (k, v) :: l)
    else (j, w) :: sset d l k v

/-- Writes v at every number of a list. -/
def ssetAll {α : Type} [DecidableEq α] (d : α) (t : Sparse α) (kvs : List (Nat × α)) : Sparse α :=
  kvs.foldl (fun t kv => sset d t kv.1 kv.2) t

/-- Whether the numbers of a table rise strictly from a bound. -/
def srising {α : Type} : Nat → Sparse α → Bool
  | _, [] => true
  | b, (j, _) :: l => b ≤ j && srising (j + 1) l

/-- The canonical form of a table. -/
def swf {α : Type} [DecidableEq α] (d : α) (t : Sparse α) : Bool :=
  srising 0 t && t.all fun e => e.2 != d

/-! Bytes of memory: an unlisted address reads 0 (log 3). -/

/-- The byte at an address. -/
def mget (m : List Host.Cell) (a : Nat) : Byte := sget 0 m a

/-- Writes one byte. -/
def mset (m : List Host.Cell) (a : Nat) (b : Byte) : List Host.Cell := sset 0 m a b

/-- n bytes from an address upward. -/
def mgets (m : List Host.Cell) (a : Nat) : Nat → List Byte
  | 0 => []
  | n + 1 => mget m a :: mgets m (a + 1) n

/-- Writes bytes from an address upward. -/
def msets (m : List Host.Cell) (a : Nat) : List Byte → List Host.Cell
  | [] => m
  | b :: bs => msets (mset m a b) (a + 1) bs

/-- The canonical form of a memory. -/
abbrev Memory.wf (m : List Host.Cell) : Bool := swf 0 m

/-! Little-endian values (R4). -/

/-- The value of bytes, lowest first. -/
def leNat : List Byte → Nat
  | [] => 0
  | b :: bs => b.toNat + 256 * leNat bs

/-- n bytes of a value, lowest first. -/
def leBytes (v : Nat) : Nat → List Byte
  | 0 => []
  | n + 1 => BitVec.ofNat 8 v :: leBytes (v / 256) n

/-- The 32 bytes of SHAKE256 with 256-bit output (log 5). -/
def digest (bs : List Byte) : List Byte := leBytes (Config.shake256 bs).toNat 32

/-- Cuts a list into pieces of n; the fuel is its length. -/
def chunksAux {α : Type} (n : Nat) : Nat → List α → List (List α)
  | 0, _ => []
  | _, [] => []
  | f + 1, l => l.take n :: chunksAux n f (l.drop n)

def chunks {α : Type} (n : Nat) (l : List α) : List (List α) := chunksAux n l.length l

/-- Bytes as words, and as doubles. -/
def wordsOfBytes (bs : List Byte) : List Word := (chunks 4 bs).map fun c => BitVec.ofNat 32 (leNat c)
def dblsOfBytes (bs : List Byte) : List Dbl := (chunks 8 bs).map fun c => BitVec.ofNat 64 (leNat c)
def bytesOfWords (ws : List Word) : List Byte := ws.flatMap fun w => leBytes w.toNat 4
def bytesOfDbls (ds : List Dbl) : List Byte := ds.flatMap fun w => leBytes w.toNat 8

/-! Fields of a number: bits [hi:lo]. -/

/-- Bits [hi:lo] of n. -/
def bits (n hi lo : Nat) : Nat := n / 2 ^ lo % 2 ^ (hi + 1 - lo)

/-- Bit i of n. -/
def tbit (n i : Nat) : Bool := n.testBit i

/-- Bits [hi:lo] of a double. -/
def dbits (x : Dbl) (hi lo : Nat) : Nat := bits x.toNat hi lo

/-- A field at lo. -/
def fld64 (v lo : Nat) : Dbl := BitVec.ofNat 64 (v * 2 ^ lo)

def dnat (v : Nat) : Dbl := BitVec.ofNat 64 v

def bnat (b : Bool) : Nat := if b then 1 else 0

/-- Rounded up to a multiple of m. -/
def roundUp (n m : Nat) : Nat := (n + m - 1) / m * m

/-- Numbers 0 to n - 1. -/
def upto (n : Nat) : List Nat := List.range n

/-- The entry of a list at i, with a default. -/
def nth {α : Type} (l : List α) (i : Nat) (d : α) : α := l.getD i d

/-- The least number of a list. -/
def least? (l : List Nat) : Option Nat :=
  l.foldl (fun o n => match o with | none => some n | some m => some (min m n)) none

/-- A list with each element once, first occurrences kept. -/
def dedup (l : List Nat) : List Nat := l.foldl (fun acc n => if acc.contains n then acc else acc ++ [n]) []

/-- Inserts by rising key, after equal keys. -/
def insertBy {α : Type} (key : α → Nat) (x : α) : List α → List α
  | [] => [x]
  | y :: l => if key x < key y then x :: y :: l else y :: insertBy key x l

/-- Sorts by rising key; equal keys keep their order. -/
def sortBy {α : Type} (key : α → Nat) (l : List α) : List α :=
  l.foldl (fun acc x => insertBy key x acc) []

/-- A power of two from 16 to 65,536: the ring sizes of R200, R208, R318 and R326. -/
def ringCapOk (n : Nat) : Bool :=
  n == 16 || n == 32 || n == 64 || n == 128 || n == 256 || n == 512 || n == 1024 || n == 2048 || n == 4096 ||
    n == 8192 || n == 16384 || n == 32768 || n == 65536

end Sys2Proof.Machine
end

