-- ==== Sys2Proof/Machine/Numbers.lean ====
section
/-! DEFINITION. The number formats (R93 to R101, R106): the value of an image, the image of an exact value under a
rounding mode, exact sums and products, P14 sums and the block encodings. A finite value is a sign, a natural number
and a power of two. -/

namespace Sys2Proof.Machine

/-- Rounding modes (R102). -/
inductive RMode where
  | near | zero | down | up
  deriving DecidableEq, Repr

/-- What a rounded magnitude beyond the largest finite value gives (R106): as IEEE 754, saturated, or .NS. -/
inductive Over where
  | ieee | sat | ns
  deriving DecidableEq, Repr

/-- A format of R93: fraction and exponent bits, bias, the largest finite image, the canonical NaN, and infinity. -/
structure Fmt where
  fb : Nat
  eb : Nat
  bias : Nat
  maxImg : Nat
  nan : Nat
  inf : Option Nat
  deriving DecidableEq, Repr

def f32 : Fmt := { fb := 23, eb := 8, bias := 127, maxImg := 0x7F7FFFFF, nan := 0x7FC00000, inf := some 0x7F800000 }
def f16 : Fmt := { fb := 10, eb := 5, bias := 15, maxImg := 0x7BFF, nan := 0x7E00, inf := some 0x7C00 }
def b16 : Fmt := { fb := 7, eb := 8, bias := 127, maxImg := 0x7F7F, nan := 0x7FC0, inf := some 0x7F80 }
def e4m3 : Fmt := { fb := 3, eb := 4, bias := 7, maxImg := 0x7E, nan := 0x7F, inf := none }
def e5m2 : Fmt := { fb := 2, eb := 5, bias := 15, maxImg := 0x7B, nan := 0x7E, inf := some 0x7C }
def p14 : Fmt := { fb := 7, eb := 6, bias := 31, maxImg := 0x1F7F, nan := 0x1FC0, inf := some 0x1F80 }

/-- A value (R94): NaN, signalling or not; infinity; or (-1)^neg * m * 2^e. -/
inductive Num where
  | nan (sig : Bool)
  | inf (neg : Bool)
  | fin (neg : Bool) (m : Nat) (e : Int)
  deriving DecidableEq, Repr

/-- The sticky flags of FPMODE[12:8] (R102), NX at bit 0. -/
abbrev Flags := BitVec 5

def flagNX : Flags := 1
def flagUF : Flags := 2
def flagOF : Flags := 4
def flagDZ : Flags := 8
def flagIV : Flags := 16

/-- The exponent of the least subnormal. -/
def Fmt.qmin (f : Fmt) : Int := 1 - (f.bias : Int) - (f.fb : Int)

/-- The value of an image (R94, R95). -/
def Fmt.decode (f : Fmt) (x : Nat) : Num :=
  let frac := x % 2 ^ f.fb
  let ex := x / 2 ^ f.fb % 2 ^ f.eb
  let neg := x.testBit (f.fb + f.eb)
  if ex = 0 then .fin neg frac f.qmin
  else if ex = 2 ^ f.eb - 1 ∧ f.inf.isSome then (if frac = 0 then .inf neg else .nan (!frac.testBit (f.fb - 1)))
  else if ex = 2 ^ f.eb - 1 ∧ frac = 2 ^ f.fb - 1 then .nan false
  else .fin neg (2 ^ f.fb + frac) ((ex : Int) - f.bias - f.fb)

/-- A source with DAZ (R102, R104): subnormals read as zero of their sign. -/
def Fmt.read (f : Fmt) (daz : Bool) (x : Nat) : Num :=
  match f.decode x with
  | .fin neg m e => if daz && m < 2 ^ f.fb then .fin neg 0 e else .fin neg m e
  | n => n

/-- The sign bit of an image. -/
def Fmt.sign (f : Fmt) (neg : Bool) : Nat := if neg then 2 ^ (f.fb + f.eb) else 0

/-- m * 2^e, a little more if `sticky`, in units of 2^q, and whether that is inexact. -/
def roundAt (mode : RMode) (neg : Bool) (m : Nat) (e q : Int) (sticky : Bool) : Nat × Bool :=
  if q ≤ e then (m * 2 ^ (e - q).toNat, sticky)
  else
    let sh := (q - e).toNat
    let n := m / 2 ^ sh
    let r := m % 2 ^ sh
    let half := 2 ^ (sh - 1)
    let inexact := r != 0 || sticky
    let up := match mode with
      | .near => half < r || (r == half && (sticky || n % 2 == 1))
      | .zero => false
      | .down => neg && inexact
      | .up => !neg && inexact
    (if up then n + 1 else n, inexact)

/-- The image that an overflow delivers (R106). -/
def Fmt.overflow (f : Fmt) (mode : RMode) (ovf : Over) (neg : Bool) : Nat :=
  let big := f.inf.getD f.nan
  match ovf with
  | .sat => f.sign neg + f.maxImg
  | .ns => match f.inf with
    | some i => f.sign neg + i
    | none => f.nan
  | .ieee =>
    match mode with
    | .near => f.sign neg + big
    | .zero => f.sign neg + f.maxImg
    | .down => f.sign neg + (if neg then big else f.maxImg)
    | .up => f.sign neg + (if neg then f.maxImg else big)

/-- The image of a finite value and its flags (R104 to R106). Tininess is detected after rounding. -/
def Fmt.round (f : Fmt) (mode : RMode) (ovf : Over) (ftz : Bool) (neg : Bool) (m : Nat) (e : Int) (sticky : Bool) :
    Nat × Flags :=
  if m = 0 then (f.sign neg, 0)
  else
    let q0 : Int := (Nat.log2 m : Int) + e - f.fb
    let q := max q0 f.qmin
    let (n, inexact) := roundAt mode neg m e q sticky
    let (n0, _) := roundAt mode neg m e q0 sticky
    let tiny := q0 < f.qmin && !(q0 + 1 == f.qmin && n0 == 2 ^ (f.fb + 1))
    let img := (q - f.qmin).toNat * 2 ^ f.fb + n
    if ftz && tiny then (f.sign neg, flagUF ||| flagNX)
    else if f.maxImg < img then (f.overflow mode ovf neg, flagOF ||| flagNX)
    else (f.sign neg + img, if inexact then (if tiny then flagUF ||| flagNX else flagNX) else 0)

/-- The image of a value, with the flags of rounding it. -/
def Fmt.encode (f : Fmt) (mode : RMode) (ovf : Over) (ftz : Bool) : Num → Nat × Flags
  | .nan _ => (f.nan, 0)
  | .inf neg => (match ovf, f.inf with
      | .sat, _ => f.sign neg + f.maxImg
      | _, some i => f.sign neg + i
      | _, none => f.nan, 0)
  | .fin neg m e => f.round mode ovf ftz neg m e false

/-- The image of a small integer constant (R41). -/
def Fmt.const (f : Fmt) (k : Nat) : Nat := (f.round .near .ieee false false k 0 false).1

/-! Exact arithmetic. -/

def Num.isNan : Num → Bool
  | .nan _ => true
  | _ => false

/-- IV for a signalling NaN (R95). -/
def Num.sigFlag : Num → Flags
  | .nan true => flagIV
  | _ => 0

def Num.neg : Num → Num
  | .nan b => .nan b
  | .inf b => .inf (!b)
  | .fin b m e => .fin (!b) m e

/-- m * 2^e in units of 2^q, for q ≤ e. -/
def scaleTo (q : Int) (neg : Bool) (m : Nat) (e : Int) : Int :=
  let v : Int := (m * 2 ^ (e - q).toNat : Nat)
  if neg then -v else v

/-- The exact sum, and IV for the sum of infinities of opposite sign; the sign of an exact zero by R169. -/
def Num.add (mode : RMode) : Num → Num → Num × Flags
  | .nan _, _ => (.nan false, 0)
  | _, .nan _ => (.nan false, 0)
  | .inf a, .inf b => if a = b then (.inf a, 0) else (.nan false, flagIV)
  | .inf a, _ => (.inf a, 0)
  | _, .inf b => (.inf b, 0)
  | .fin a m e, .fin b n g =>
    let q := min e g
    let v := scaleTo q a m e + scaleTo q b n g
    if v = 0 then (.fin (if m = 0 ∧ n = 0 ∧ a = b then a else mode == .down) 0 q, 0)
    else (.fin (v < 0) v.natAbs q, 0)

/-- The exact product, and IV for 0 times infinity. -/
def Num.mul : Num → Num → Num × Flags
  | .nan _, _ => (.nan false, 0)
  | _, .nan _ => (.nan false, 0)
  | .inf a, .inf b => (.inf (a != b), 0)
  | .inf a, .fin b m _ => if m = 0 then (.nan false, flagIV) else (.inf (a != b), 0)
  | .fin a m _, .inf b => if m = 0 then (.nan false, flagIV) else (.inf (a != b), 0)
  | .fin a m e, .fin b n g => (.fin (a != b) (m * n) (e + g), 0)

/-- a + b rounded (R169). -/
def Fmt.addOp (f : Fmt) (mode : RMode) (ftz : Bool) (x y : Num) : Nat × Flags :=
  let (z, fl) := Num.add mode x y
  let (w, g) := f.encode mode .ieee ftz z
  (w, fl ||| g ||| x.sigFlag ||| y.sigFlag)

/-- a * b rounded (R169). -/
def Fmt.mulOp (f : Fmt) (mode : RMode) (ftz : Bool) (x y : Num) : Nat × Flags :=
  let (z, fl) := Num.mul x y
  let (w, g) := f.encode mode .ieee ftz z
  (w, fl ||| g ||| x.sigFlag ||| y.sigFlag)

/-- a * b + c rounded once (R170). -/
def Fmt.fmaOp (f : Fmt) (mode : RMode) (ftz : Bool) (x y c : Num) : Nat × Flags :=
  let (p, fp) := Num.mul x y
  let (z, fl) := Num.add mode p c
  let (w, g) := f.encode mode .ieee ftz z
  (w, fp ||| fl ||| g ||| x.sigFlag ||| y.sigFlag ||| c.sigFlag)

/-- Order of two values that are no NaN: a < b, with -0 before +0 if `zeros`. -/
def Num.lt (zeros : Bool) : Num → Num → Bool
  | .inf a, .inf b => a && !b
  | .inf a, .fin _ _ _ => a
  | .fin _ _ _, .inf b => !b
  | .fin a m e, .fin b n g =>
    if m = 0 ∧ n = 0 then zeros && a && !b
    else scaleTo (min e g) a m e < scaleTo (min e g) b n g
  | _, _ => false

/-- A value rounded to an integer by a mode, and whether that changed it. -/
def toIntegral (mode : RMode) (neg : Bool) (m : Nat) (e : Int) : Int × Bool :=
  let (n, inexact) := roundAt mode neg m e 0 false
  (if neg then -(n : Int) else (n : Int), inexact)

/-! P14 (R96). -/

/-- A sum rounded into P14, as a value. -/
def p14Sum (x y : Num) : Num := p14.decode ((p14.addOp .near false x y).1)

/-! Dual-exponent blocks (R97 to R99). -/

/-- The value of an element: g is 5 for D8 and 1 for D4, `mb` its magnitude bits. -/
def blockValue (g mb e0 e1 code : Nat) : Num :=
  let ex := if code.testBit (mb + 1) then e1 else e0
  let m := code % 2 ^ mb
  if ex = 0xFF then .nan false
  else if m = 0 then .fin false 0 0
  else .fin (code.testBit mb) m ((ex : Int) - 127 - g)

/-- |x| in units of 2^-149, an infinity larger than any range. -/
def magnitude149 : Num → Nat
  | .nan _ => 0
  | .inf _ => 2 ^ 500
  | .fin _ m e => m * 2 ^ (e + 149).toNat

/-- n / 2^sh to nearest-even. -/
def shiftNear (n sh : Nat) : Nat := (roundAt .near false n 0 sh false).1

/-- What an encoding records (R187): nothing, saturated elements, or the NaN block with its cause. -/
inductive BlockNote where
  | none
  | sat (count : Nat)
  | nan (overflow : Bool)
  deriving DecidableEq, Repr

/-- The block encoding of 32 F32 values: E0, E1, the codes and the note. -/
def blockEncode (d4 ns : Bool) (xs : List Num) : Nat × Nat × List Nat × BlockNote :=
  let mmax := if d4 then 3 else 63
  let g := if d4 then 1 else 5
  let d := if d4 then 2 else 4
  let mb := if d4 then 2 else 6
  let unit (e : Nat) : Nat := e + 22 - g
  let isInf (x : Num) : Bool := match x with | .inf _ => true | _ => false
  if xs.any Num.isNan || (ns && xs.any isInf) then (0xFF, 0xFF, xs.map fun _ => 0, .nan false)
  else
    let cap := mmax * 2 ^ unit 254
    let big := xs.foldl (fun a x => max a (if isInf x then cap else magnitude149 x)) 0
    let e1 := if big = 0 then 0 else ((upto 255).find? fun e => big ≤ mmax * 2 ^ unit e).getD 254
    if ns && mmax * 2 ^ unit e1 < big then (0xFF, 0xFF, xs.map fun _ => 0, .nan true)
    else
      let e0 := e1 - d
      let one (x : Num) : Nat × Bool :=
        let a := magnitude149 x
        let m0 := shiftNear a (unit e0)
        let m1 := shiftNear a (unit e1)
        let neg := match x with | .inf b => b | .fin b _ _ => b | .nan _ => false
        let (q, m, sat) := if m0 ≤ mmax then (0, m0, false) else (1, min m1 mmax, mmax < m1)
        (if m = 0 then 0 else q * 2 ^ (mb + 1) + bnat neg * 2 ^ mb + m, sat)
      let codes := xs.map one
      let n := (codes.filter fun c => c.2).length
      (e0, e1, codes.map (·.1), if n = 0 then .none else .sat n)

end Sys2Proof.Machine
end

