-- ==== Sys2Proof/Machine/State.lean ====
section
/-! DEFINITION. The state of one XQ-1 package as plain data, the reasons a run can stop, and the state after
reset. Names follow the manual; a field the manual does not name says so. -/

namespace Sys2Proof.Machine

/-- Why a step stops the machine. -/
inductive Fault where
  /-- Raised by an access performed at a physical address beyond the memory that R21 gives the package, 768 GiB
  or 720 GiB when the whole capacity is protected (R211). Safe: the machine stops where the manual gives nothing. -/
  | noMemory (pa : Nat)
  deriving DecidableEq, Repr

/-- Why the model gives an instruction no meaning. -/
inductive Refusal where
  /-- Raised by an arm of exec whose instruction has no meaning yet. Safe: the run stops. -/
  | notModelled (mnemonic : String)
  deriving DecidableEq, Repr

/-- The four roles of a coach (R17). -/
inductive Role where
  | general | copy | matrix | epilogue
  deriving DecidableEq, Repr

/-- The states of a handle (R192). -/
inductive HState where
  | empty | valid | absent | pending | poisoned
  deriving DecidableEq, Repr

/-- A handle register (R193). `peer`, `walk` and `mask` are the model's own: whether the leaf was a PEER entry; which
walk a pending handle awaits, and of another handle the address given to its XLATE; the rights mask of that XLATE. -/
structure Handle where
  st : HState
  size : BitVec 2
  wb : Bool
  enc : Bool
  vbase : BitVec 57
  pbase : Dbl
  hi : Word
  lo : Word
  asid : BitVec 16
  key : BitVec 8
  rights : BitVec 4
  peer : Bool
  walk : Nat
  mask : BitVec 4
  deriving DecidableEq, Repr

/-- The empty handle (R192). -/
def Handle.blank : Handle :=
  { st := .empty, size := 0, wb := false, enc := false, vbase := 0, pbase := 0, hi := 0, lo := 0, asid := 0,
    key := 0, rights := 0, peer := false, walk := 0, mask := 0 }

/-- One write that a result makes when it lands (R46, R148). Registers are physical, after renaming. -/
inductive Write where
  | vec (r : Nat) (lanes : Lanes) (vals : List Word)
  | scl (r : Nat) (v : Dbl)
  | prd (p : Nat) (lanes : Lanes) (bits : Lanes)
  | hnd (h : Nat) (v : Handle)
  /-- FPMODE[12:8], ORed in (R105). -/
  | flags (bits : BitVec 5)
  /-- A SYSWR of register n, seen one cycle after issue (R153). -/
  | sys (n : Nat) (v : Dbl)
  /-- A vector or memory latch alone (0xFD, R45). -/
  | latV (lanes : Lanes) (vals : List Word)
  /-- A scalar latch alone. -/
  | latC (v : Dbl)
  deriving DecidableEq, Repr

/-- A bypass-latch entry (R44). `seq` is the bundle that entered it. -/
structure Latch where
  id : Nat
  seq : Nat
  landed : Bool
  vals : List Word
  val : Dbl
  deriving DecidableEq, Repr

/-- The three latch sequences, youngest first. -/
structure Latches where
  v : List Latch
  m : List Latch
  c : List Latch
  deriving DecidableEq, Repr

/-- No syllable has entered. -/
def Latches.blank : Latches := { v := [], m := [], c := [] }

/-- A fixed-latency result in flight (R46), or a shadow latch record (R148), whose `due` is then the remaining
count. `early` is the first cycle at which it may land: `due`, but for a result that lands within a bound
(R374). `fe` is the flag entry that counts it, if it has one (R313, R314, R374). -/
structure Landing where
  id : Nat
  due : Nat
  early : Nat
  seq : Nat
  w : Write
  lat : Option (Slot × Nat)
  fe : Option Nat
  deriving DecidableEq, Repr

/-- An operation outstanding on a completion flag (R54, R55), in issue order: what it will write when it is
counted, and before it is complete what the parts of it that have been performed will write. -/
structure FlagEntry where
  id : Nat
  f : Nat
  seq : Nat
  fin : Bool
  ws : List Write
  made : List Write
  lat : Option Nat
  deriving DecidableEq, Repr

/-- A reconvergence stack entry (R121). -/
structure StackEntry where
  mask : Lanes
  pending : Bool
  dcall : Bool
  pc : BitVec 57
  rpc : BitVec 57
  dret : BitVec 57
  deriving DecidableEq, Repr

/-- What follows a delay bundle (R119, R127, R128). -/
inductive Pending where
  | target (a : Dbl)
  /-- RET on a matching dispatch path: the join step. -/
  | join
  /-- JTAB with several paths: the rejoin address, if it was fetched with a call's delay bundle (else that of the bundle
  which follows the delay bundle), then the entries to push, top first. -/
  | push (rpc : Option Dbl) (es : List StackEntry) (a : Dbl)
  deriving DecidableEq, Repr

/-- Why a coach is stopped (R135 to R138, R251, R252, R274). -/
inductive Stop where
  | none
  | wait (f n : Nat)
  /-- Until the deadline tick, if any; the destination, renamed as MWAIT issued, and its latch entry. -/
  | mwait (deadline : Option Nat) (d : SDst) (lat : Option Nat) (issued : Nat)
  /-- Not ready before this cycle. -/
  | yield (upTo : Nat)
  | barrier (k : Nat) (phase : Bool)
  | cwait (n : Word)
  deriving DecidableEq, Repr

/-- A coach's monitor (R136, R137). -/
inductive Monitor where
  | none
  /-- Armed on a line; whether a counted write has been performed since. The handle register it was armed
  through. -/
  | armed (line : Nat) (h : Nat) (written : Bool)
  | lost
  deriving DecidableEq, Repr

/-- A write of the nominal schedule that is not yet past (R51, R53): landing cycle, or none for a
variable-latency result with whether a WAIT has covered it. Kinds 0 to 3 are registers as in an operand, 4 a latch,
7 FPMODE, 9 a flag, 10 a register that an uncounted matrix operation reads (R282). -/
structure NomWrite where
  kind : Nat
  reg : Nat
  due : Option Nat
  covered : Bool
  fe : Nat
  seq : Nat
  deriving DecidableEq, Repr

/-- A coach (R17, R20). -/
structure Coach where
  present : Bool
  role : Role
  width : Nat
  budget : Nat
  num : Nat
  party : Nat
  priv : Bool
  asid : BitVec 16
  schk : Bool
  spill : Nat
  ended : Bool
  halted : Bool
  /-- Vector registers, keyed 64 n + lane. -/
  v : Sparse Word
  s : Sparse Dbl
  p : Sparse Lanes
  h : Sparse Handle
  flags : List FlagEntry
  inflight : List Landing
  /-- What has landed in the die's present cycle, each with the sequence number of its bundle (R50). -/
  landed : List (Nat × Write)
  lat : Latches
  /-- Sequence number of the next bundle, and of the next latch or landing (the model's own). -/
  seq : Nat
  fresh : Nat
  pc : Dbl
  /-- The coach's next bundle issues no earlier than this cycle (R31). -/
  next : Nat
  pend : Option Pending
  /-- The image of the delay bundle whose header CALL or JTAB.CALL fetched (R119). -/
  delayImg : Option (List Byte)
  stop : Stop
  /-- Further stops of the same bundle, which the coach has still to wait out (R139). -/
  more : List Stop
  waitCtr : Nat
  launched : Lanes
  live : Lanes
  /-- Top first. -/
  stack : List StackEntry
  lcnt : Dbl
  ecnt : Dbl
  lbody : Dbl
  rotb : Dbl
  fpmode : Dbl
  /-- FPMODE[3:0] as recent SYSWRs wrote it, each with the first bundle that sees it, youngest first (R186). -/
  fpctl : List (Nat × BitVec 4)
  tvec : Dbl
  tcause : Dbl
  tinfo : Dbl
  trappc : Dbl
  intrap : Bool
  emu : Bool
  tnext : Dbl
  /-- What TNEXT stands for beyond its address (R127, R128), while it is unchanged. -/
  tpend : Option Pending
  tshsel : Dbl
  trapset : List Landing
  tlat : Latches
  tgap : Nat
  exemptBp : Bool
  exemptWatch : Bool
  /-- TRAP's operand, until the freeze after its bundle (R151). -/
  soft : Option Dbl
  /-- A held SPGUARD record: its TINFO (R226). -/
  spguard : Option Dbl
  dtbase : Dbl
  dtlen : Dbl
  mon : Monitor
  /-- The page that the monitor was armed on: virtual base, bytes (R202). -/
  monPage : Nat × Nat
  nb : Word
  cb : Word
  steps : Nat
  stepDue : Bool
  /-- Nominal schedule (R53): cycle of the next bundle, and open writes; and, in a handler, the program's own cycle and
  its writes of fixed latency as they stood at the freeze (R149). -/
  nom : Nat
  nomWrites : List NomWrite
  tnom : Nat
  tnomWrites : List NomWrite
  /-- Per slice order: the bundle holds at this cycle (R198), so another coach is tried. -/
  heldAt : Option Nat
  deriving DecidableEq, Repr

/-- No coach. -/
def Coach.blank : Coach :=
  { present := false, role := .general, width := 16, budget := 0, num := 0, party := 0, priv := false, asid := 0,
    schk := false, spill := 0, ended := false, halted := false, v := [], s := [], p := [], h := [], flags := [],
    inflight := [], landed := [], lat := Latches.blank, seq := 0, fresh := 0, pc := 0, next := 0, pend := none, delayImg := none,
    stop := .none, more := [], waitCtr := 0, launched := 0, live := 0, stack := [], lcnt := 0, ecnt := 0, lbody := 0, rotb := 0,
    fpmode := 0, fpctl := [], tvec := 0, tcause := 0, tinfo := 0, trappc := 0, intrap := false, emu := false,
    tnext := 0, tpend := none, tshsel := 0, trapset := [], tlat := Latches.blank, tgap := 0, exemptBp := false,
    exemptWatch := false, soft := none, spguard := none, dtbase := 0, dtlen := 0, mon := .none, monPage := (0, 0), nb := 1, cb := 0,
    steps := 0, stepDue := false, nom := 0, nomWrites := [], tnom := 0, tnomWrites := [], heldAt := none }

/-- Where a byte or word lives (R235): a home slice, the host bridge, a peer package, a core's SRAM, or nowhere
(an absent page or a suppressed lane). `enc`: it is reached through an encrypted page (R210). -/
inductive Place where
  | home (pa : Nat) (enc : Bool)
  | host (ha : Nat)
  | peer (pkg pa : Nat)
  | sram (core off : Nat)
  | nowhere
  deriving DecidableEq, Repr

/-- One lane of an atomic. -/
structure AtomLane where
  lane : Nat
  place : Place
  va : Nat
  v : Word
  c : Word
  old : Word
  deriving DecidableEq, Repr

/-- How far a part of an access has come: not yet performed, sent to a peer, performed but awaiting an
acknowledgement of loss (R236), performed with its answer held at a die whose cut is delayed (R334), performed. -/
inductive PartState where
  | todo | sent | noticed | answered | fin
  deriving DecidableEq, Repr

/-- A single-copy-atomic unit of an access (R216), or the lanes of an atomic within one line (R222). `page` is the size of the page
that it goes through, `asked` whether the host bridge has sent a request for it (R207). -/
structure Part where
  lane : Nat
  pos : Nat
  place : Place
  va : Nat
  len : Nat
  data : List Byte
  ats : List AtomLane
  st : PartState
  got : List Byte
  page : Nat
  asked : Bool
  deriving DecidableEq, Repr

/-- What an outstanding operation is. Registers are physical. -/
inductive OpKind where
  /-- Destination registers word by word (empty for 0xFD), size in bytes, the residency predicate, acquire. -/
  | load (regs : List Nat) (size : Nat) (rp : Option Nat) (absent : Lanes) (acq : Bool)
  /-- STL.W when `rel`. -/
  | store (size : Nat) (rel : Bool)
  | atomic (opc : Nat) (r : Nat)
  /-- 1 acquire, 2 release, 3 both (R241). -/
  | fence (kind : Nat)
  | barinit (k : Nat) (n : Nat)
  | arrive (k : Nat) (c : Dbl) (d : SDst)
  | bexpect (k : Nat) (e : Int)
  /-- An answer awaited from the host or the queue: request tag (R197). -/
  | preq (req : Nat) (host wr : Bool)
  | commit
  | launch (d : Nat)
  | snap (d : Nat) (full : Bool) (handle : Handle) (off : Nat)
  | rollin (d : Nat)
  | snapq (d : Nat)
  | sstep (level : Nat)
  | dstat (d : Nat)
  deriving DecidableEq, Repr

/-- An outstanding operation of a coach, in issue order. `stamp` is the epoch of the issuing die at issue,
`left` that with which its items to other dies leave (R332), `pol` the cache policy, `held` whether its bytes go to the held-store area (R221),
`moved` whether a commit made a held store direct, so that it records no owner (R236). -/
structure Op where
  id : Nat
  coach : Nat
  party : Nat
  asid : BitVec 16
  seq : Nat
  addr : Dbl
  cycle : Nat
  kind : OpKind
  pol : Policy
  lanes : Lanes
  parts : List Part
  fe : Option Nat
  held : Bool
  moved : Bool
  stamp : Nat
  left : Nat
  die : Nat
  deriving DecidableEq, Repr

/-- A page walk in progress (R195). -/
structure Walk where
  id : Nat
  coach : Nat
  h : Nat
  va : BitVec 57
  mask : BitVec 4
  asid : BitVec 16
  deriving DecidableEq, Repr

/-- One byte of a party's held-store area (R221, R338), in the order in which the stores and Courier commands, which `op` numbers, were
issued. `unit` numbers the single-copy atomic unit it belongs to (R216); `page`: the size of its page;
`st`: its store had policy .ST (R220); `enc`: its page is encrypted (R210). -/
structure HeldByte where
  pa : Nat
  enc : Bool
  va : Nat
  page : Nat
  b : Byte
  unit : Nat
  st : Bool
  op : Nat
  deriving DecidableEq, Repr

/-- A commit whose bytes are being moved into their lines (R338), with the epoch it carries (R332). `after` are the
stores and Courier commands issued before it whose writes had not yet reached their homes. -/
structure Commit where
  id : Nat
  party : Nat
  asid : BitVec 16
  stamp : Nat
  die : Nat
  bytes : List HeldByte
  after : List Nat
  deriving DecidableEq, Repr

/-- A shape slot (R261): the descriptor's doubles, the handle number and the byte bounds. -/
structure Shape where
  valid : Bool
  desc : List Dbl
  h : Nat
  lo : Nat
  hi : Nat
  deriving DecidableEq, Repr

/-- An invalid slot. -/
def Shape.blank : Shape := { valid := false, desc := [], h := 0, lo := 0, hi := 0 }

/-- The kinds of loop levels (R17, R76). -/
inductive LevelKind where
  | d | c | v | t
  deriving DecidableEq, Repr

/-- A role entry of a kernel descriptor (R76). -/
structure RoleEntry where
  role : Role
  count : Nat
  budget : Nat
  entry : Dbl
  deriving DecidableEq, Repr

/-- A placed kernel descriptor (R76). -/
structure Kernel where
  width : Nat
  levels : List LevelKind
  sstep : Bool
  mlodge : Bool
  slev : Nat
  scratch : Nat
  l1 : Nat
  roles : List RoleEntry
  dtab : Dbl
  dtlen : Dbl
  deriving DecidableEq, Repr

/-- An accepted launch (R318, R324). `order` is the list of parties not yet placed or created. -/
structure Launch where
  doubles : List Dbl
  kernel : Kernel
  asid : BitVec 16
  key : BitVec 8
  parties : List Nat
  ended : Nat
  faults : Nat
  nextTile : Nat
  pools : Sparse (List Nat)
  slots : List Nat
  accepted : Nat
  fin : Bool
  deriving DecidableEq, Repr

/-- A word of the read-only L1 (R236), with the number of the fill that brought it: words of one fill were read together (R234). -/
structure L1Word where
  val : Word
  owned : Bool
  fill : Nat
  /-- The page that it was read through: job, virtual base, bytes (R202). -/
  asid : BitVec 16
  base : Nat
  page : Nat
  deriving DecidableEq, Repr

/-- A line of the instruction L1 (R90): job, virtual line number, bytes of its page (R91), physical line number, 128 bytes. -/
structure ILine where
  asid : BitVec 16
  vline : Nat
  page : Nat
  pline : Nat
  bytes : List Byte
  /-- The 8-byte words that memory gave with an uncorrectable error (R356). -/
  bad : BitVec 16 := 0
  deriving DecidableEq, Repr

/-- A line of a die's instruction cache (R91): physical line number, 128 bytes. Which cores hold it is read from their L1s. -/
structure DLine where
  pline : Nat
  bytes : List Byte
  bad : BitVec 16 := 0
  deriving DecidableEq, Repr

/-- One statistics record (R373). -/
structure Rec where
  d0 : Dbl
  d1 : Dbl
  d2 : Dbl
  d3 : Dbl
  deriving DecidableEq, Repr

/-- One side of a Courier command: a box of a shape through a handle at coordinates, or scratchpad. -/
inductive Side where
  | box (shape : Shape) (coord : List Nat) (h : Handle)
  | sp (core addr : Nat)
  | nothing
  deriving DecidableEq, Repr

/-- Whether a side lies in memory. -/
def Side.isBox : Side → Bool
  | .box _ _ _ => true
  | _ => false

/-- A destination scratchpad: member party, core, byte address of the range, the named barrier that counts its chunks
if one does. -/
structure SpDest where
  party : Nat
  core : Nat
  addr : Nat
  bar : Option Nat
  deriving DecidableEq, Repr

/-- What a Courier command does (R269, R273). -/
inductive CmdKind where
  | ld | st | m | g | p | seal
  deriving DecidableEq, Repr

/-- A command of a Courier queue (R258). `got` holds the stream bytes read, by position; `sent` the chunks or
bytes delivered; `flying` the requests that a peer has not answered, reads by position and writes by `len` + position.
`held` is as for an operation. -/
structure Cmd where
  id : Nat
  coach : Nat
  party : Nat
  asid : BitVec 16
  addr : Dbl
  cycle : Nat
  kind : CmdKind
  batch : Word
  src : Side
  dst : Side
  sps : List SpDest
  len : Nat
  got : List (Nat × Byte)
  sent : List Nat
  flying : List Nat
  fe : Option Nat
  held : Bool
  stamp : Nat
  left : Nat
  die : Nat
  deriving DecidableEq, Repr

/-- A core (R15). -/
structure Core where
  sram : List Host.Cell
  l1share : Nat
  l1 : Sparse L1Word
  icache : List ILine
  /-- The translation cache (R195): job and a valid image. -/
  tcache : List Handle
  courier : List Cmd
  statq : List Rec
  lost : Sparse Nat
  deriving DecidableEq, Repr

/-- A core holding nothing. The L1 share before any placement is log 4's. -/
def Core.blank : Core :=
  { sram := [], l1share := 64, l1 := [], icache := [], tcache := [], courier := [], statq := [], lost := [] }

/-- A queued matrix operation (R280). Registers are physical. -/
inductive MKind where
  | lodge (fmt : BitVec 4) (regs : List Nat)
  | stream (acc : Nat) (fmt : BitVec 4) (cl z : Bool)
  | scale (r : Nat) (ctl : Dbl)
  | zero (acc : Nat)
  | rd (acc : Nat) (regs : List Nat) (row nr : Nat) (z : Bool)
  | wr (acc : Nat) (regs : List Nat) (row nr : Nat)
  deriving DecidableEq, Repr

/-- A matrix operation: issuing coach, bundle address, active lanes at issue, flag entry, the syllable with
rotating codes renamed (R298), the cycle from which it may start, and its source words: as they were at issue, but for those that an early
overwrite has replaced since (R282). -/
structure MOp where
  id : Nat
  coach : Nat
  addr : Dbl
  lanes : Lanes
  kind : MKind
  fe : Nat
  syl : Dbl
  cycle : Nat
  was : List Word
  deriving DecidableEq, Repr

/-- A matrix operation that has started (R281): until when it occupies the array, when it completes, and what it
latched at its start: a tile's bytes, the words that it writes back, the A scale pairs, the lodge; and of an MWR the rows of its
accumulator that no later operation has written. -/
structure MRun where
  op : MOp
  start : Nat
  occ : Nat
  due : Nat
  bytes : List Byte
  words : List Word
  pairs : Sparse (BitVec 16)
  lodge : Sparse Word
  bscale : Sparse (BitVec 16)
  lfmt : BitVec 4
  rows : List Nat
  deriving DecidableEq, Repr

/-- A beat of a Drover queue (R308): identifier, length, whether it has arrived, the bytes read so far, where its first
byte lies, its address, whether a peer has been asked for it; stamps are as for an operation. -/
structure Beat where
  id : Nat
  len : Nat
  here : Bool
  bytes : List Byte
  place : Place
  va : Nat
  asked : Bool
  cached : Bool
  stamp : Nat
  left : Nat
  /-- Bytes of the page that it is read through (R203). -/
  page : Nat
  /-- The coach and the place in its order of the DGO whose walk read it; the 128-byte line that was last requested for it. -/
  coach : Nat
  go : Nat
  line : Option Nat
  /-- Whether its stream is one of policy .ST, whose reads allocate no L2 line (R39, R220, R303). -/
  noalloc : Bool := false
  deriving DecidableEq, Repr

/-- The state of a Drover's walk (R301). -/
inductive DroverState where
  | idle | running | suspended
  deriving DecidableEq, Repr

/-- A Drover (R301). Table entries are pairs of doubles, low first, keyed 0 to 8. -/
structure Drover where
  party : Option Nat
  shadow : Sparse (Dbl × Dbl)
  active : Sparse (Dbl × Dbl)
  sa : List Beat
  q0 : List Beat
  q1 : List Beat
  /-- Number of the next iteration; its indices are its digits in the extents. -/
  pos : Nat
  st : DroverState
  /-- The coach that issued the last DGO, or the last DTAB before any DGO, whether either has issued, and whether a DGO has. -/
  coach : Nat
  issued : Bool
  went : Bool
  fe : Option Nat
  /-- Suspended walks that a later DGO abandoned or went on with before their beats had arrived: coach, flag entry, place of the DGO
  (R315). -/
  old : List (Nat × Nat × Nat)
  /-- The sectors it keeps (R310), latest first. -/
  sectors : List Nat
  f : Nat
  /-- The last DGO's place in its coach's order, and its bundle's address and cycle. -/
  id : Nat
  addr : Dbl
  cycle : Nat
  shnd : Nat
  /-- The handles of the walk's streams, as captured, by stream 6 to 8. -/
  hs : Sparse Handle
  /-- The cycle before which no iteration issues (R310). -/
  next : Nat
  deriving DecidableEq, Repr

/-- The reset Drover (R300). -/
def Drover.reset : Drover :=
  { party := none, shadow := [], active := [], sa := [], q0 := [], q1 := [], pos := 0, st := .idle, coach := 0,
    issued := false, went := false, fe := none, old := [], sectors := [], f := 0, id := 0, addr := 0, cycle := 0, shnd := 0, hs := [], next := 0 }

/-- A breakpoint comparator (R369). -/
structure Bp where
  on : Bool
  addr : Dbl
  asid : BitVec 16
  deriving DecidableEq, Repr

/-- A watch comparator (R371). -/
structure Watch where
  kind : BitVec 2
  space : Bool
  start : Dbl
  len : Word
  asid : BitVec 16
  deriving DecidableEq, Repr

/-- A tagged bundle of a lantern (R375): where it was issued, in what cycle, the memory levels that may have served it, and the cycle in
which its last syllable landed or was counted. -/
structure Tagged where
  coach : Nat
  asid : BitVec 16
  seq : Nat
  addr : Dbl
  cycle : Nat
  levels : List Nat
  fin : Option Nat
  deriving DecidableEq, Repr

/-- A wing (R16). -/
structure Wing where
  out : Bool
  /-- No bundle issues before this cycle (R139, R160). -/
  next : Nat
  /-- The first of the two cycles whose bundles a table mismatch squashes (R160), until it is detected; the cycle at which the last
  replay began; the squashed bundles that have still to issue again, in order: coach and address. -/
  squash : Option Nat
  replay : Nat
  again : List (Nat × Dbl)
  mismatches : List Nat
  owner : Option Nat
  lodged : Bool
  lfmt : BitVec 4
  /-- Format of the last MLODGE that the owner issued (R286). -/
  issuedFmt : Option (BitVec 4)
  /-- Lodged B, word q of R284 of quarter w keyed 1536 w + q. -/
  lodge : Sparse Word
  bscale : Sparse (BitVec 16)
  bstage : Sparse (BitVec 16)
  atab : Sparse (BitVec 16)
  /-- a0 to a3, keyed 1024 a + 64 r + n. -/
  acc : Sparse Word
  mq : List MOp
  mrun : List MRun
  /-- The array is occupied before this cycle. -/
  arrayFree : Nat
  /-- Since when the head of the queue has waited for its tile, and whether it has been recorded (R295). -/
  starve : Option (Nat × Bool)
  lodges : Nat
  drover : Drover
  bps : Sparse Bp
  watches : Sparse Watch
  /-- Lantern: the interval whose cycle has come last, whether its bundle has still to be tagged, and the tagged bundles. -/
  lanInt : Option Nat
  lanWant : Bool
  tagged : List Tagged
  deriving DecidableEq, Repr

/-- A wing without an owner. -/
def Wing.blank : Wing :=
  { out := false, next := 0, squash := none, replay := 0, again := [], mismatches := [], owner := none, lodged := false, lfmt := 0, issuedFmt := none,
    lodge := [], bscale := [], bstage := [], atab := [], acc := [], mq := [], mrun := [], arrayFree := 0,
    starve := none, lodges := 0, drover := Drover.reset, bps := [], watches := [], lanInt := none, lanWant := false,
    tagged := [] }

/-- A coach as it was when its party was saved (R154), kept for what the context area's layout has no place for: what its
pending transfers stand for (R127, R128), the operations that its flags count, the Courier counters, the debug state. `ops`
are its supersteps, `key` its number at the save, `mq` the frozen operations of its array, `drover` its frozen Drover. -/
structure Saved where
  key : Nat
  coach : Coach
  ops : List Op
  mq : List MOp
  drover : Option Drover
  deriving DecidableEq, Repr

/-- The life of a party (R154, R156, R322). -/
inductive PartyState where
  | pending | running | halting | draining | saved | ended
  deriving DecidableEq, Repr

/-- A superstep the party has begun to arrive at (R256): level, coaches that issued it, arrived. -/
structure SstepState where
  level : Nat
  coaches : List Nat
  arrived : Bool
  deriving DecidableEq, Repr

/-- A party (R17, R319, R320). -/
structure Party where
  st : PartyState
  launch : Nat
  d : Nat
  c : Nat
  /-- Convoy member number and the parties of the convoy in member order (R321). -/
  k : Nat
  convoy : List Nat
  die : Nat
  core : Nat
  base : Nat
  size : Nat
  foot : Nat
  coaches : List Nat
  token : Dbl
  tile : Option Nat
  replay : List Nat
  /-- A retry reserved the first tile of the next chunk (R327). -/
  reserve : Option Nat
  /-- Supersteps arrived at; those of them that SSTEP has still to pass after a relaunch, and those of earlier lives
  (R256, R329). -/
  ssteps : Nat
  skip : Nat
  past : Nat
  sstep : Option SstepState
  relaunches : Nat
  relaunchable : Bool
  held : List HeldByte
  shapes : Sparse Shape
  /-- Ticks of placement and of the start of pending time (R322). -/
  since : Nat
  pendSince : Nat
  promoted : Bool
  slot : Option Nat
  faulted : Bool
  /-- The core that consumed an error, avoided by the next placement (R329). -/
  avoid : Option Nat
  /-- What the save slot's layout has no place for, by coach, in coach order. -/
  beyond : List Saved
  /-- The wings whose engines served it, by number on the core, for engines whose coach had ended. -/
  arrays : List (Nat × Wing)
  deriving DecidableEq, Repr

/-- A non-leaf entry that a die's walkers hold (R195): the job, how many levels of R190 lie above the table that it gives, the
address bits that selected it, that table, and whether it or an entry above it has WB (R206). -/
structure WalkEntry where
  asid : Nat
  depth : Nat
  tag : Nat
  table : Nat
  wb : Bool
  deriving DecidableEq, Repr

/-- A die's clock (R365, R389): its cycle count, the frequency in MHz that its current limiter allows, the phase, gated or
not (R365). -/
structure Die where
  cycle : Nat
  mhz : Nat
  phase : Nat
  gated : Bool
  /-- The tick at which it was gated. -/
  gatedAt : Nat
  /-- The lines of its instruction cache (R91). -/
  icache : List DLine
  /-- The non-leaf entries that its walkers hold (R195). -/
  tables : List WalkEntry
  deriving DecidableEq, Repr

/-- A die after reset: the arithmetic clock of R24, running. -/
def Die.reset : Die := { cycle := 0, mhz := 1700, phase := 0, gated := false, gatedAt := 0, icache := [], tables := [] }

/-- A host page's access entry (R207), keyed by job and virtual page. -/
structure HostPage where
  count : Nat
  wb : Bool
  reads : Bool
  writes : Bool
  deriving DecidableEq, Repr

/-- A key slot (R210, R386). -/
structure KeySlot where
  key : List Byte
  asid : BitVec 16
  meas : List Byte
  deriving DecidableEq, Repr

/-- A slot that holds no key. -/
def KeySlot.blank : KeySlot := { key := [], asid := 0, meas := [] }

/-- A 128-byte line of L2 (R227): its valid and its dirty sectors, the key slot of the encrypted page through which it was last
written, if it was one, and the sectors that were filled as ciphertext, through a page that is not encrypted (R210). -/
structure L2Line where
  valid : BitVec 4
  dirty : BitVec 4
  slot : Option Nat
  raw : BitVec 4
  deriving DecidableEq, Repr

/-- A line that L2 does not hold. -/
def L2Line.blank : L2Line := { valid := 0, dirty := 0, slot := none, raw := 0 }

/-- How HBM holds a 64-byte line (R210): zeroed afresh, with a good MAC under any slot (R229); plain; encrypted under a key: the
ciphertext and the MAC that was computed when it was written back. -/
inductive Seal where
  | fresh
  | plain
  | sealed (key cipher : List Byte) (mac : BitVec 56)
  deriving DecidableEq, Repr

/-- The copy state of a granule (R339); held names its reserve frame. -/
inductive CopyState where
  | armed
  | held (frame : Nat)
  | released
  deriving DecidableEq, Repr

/-- A granule record of a job (R339), keyed by 2^16 times the physical address / 64 KiB plus the job. `cut` counts its die's cuts when it was last
touched: a granule not touched since a later cut is armed, and its P is the D it had. -/
structure Granule where
  asid : BitVec 16
  d : Bool
  p : Bool
  c : CopyState
  cut : Nat
  deriving DecidableEq, Repr

/-- A die's part in a generation (R333, R334, R336). -/
structure DieCut where
  cut : Bool
  delayed : Option Nat
  tick : Nat
  /-- Links whose waymark for g has arrived. -/
  seen : List Nat
  log : List Byte
  recs : List Dbl
  /-- Links whose rollback notice has arrived (R352). -/
  notices : List Nat
  deriving DecidableEq, Repr

/-- A die before the cut. -/
def DieCut.blank : DieCut :=
  { cut := false, delayed := none, tick := 0, seen := [], log := [], recs := [], notices := [] }

/-- The stages of a package's drain (R343) and of a rollback (R352). -/
inductive DrainStage where
  | off | granules | manifest | fin
  deriving DecidableEq, Repr

/-- The snapshot state of a job on this package (R333 to R350). -/
structure Snap where
  /-- SNAPQ's fields (R350). -/
  state : Nat
  cause : Nat
  cross : Bool
  /-- Whether this package met a crossing of which the coordinator's last broadcast does not yet tell (R350); whether it has asked the
  coordinator to abort (R347). -/
  crossed : Bool
  asked : Bool
  gen : Nat
  full : Bool
  /-- Package that coordinates the generation, and the control block's virtual address. -/
  coord : Nat
  scb : Nat
  ctl : List Dbl
  entry : List Dbl
  cuts : Sparse DieCut
  stage : DrainStage
  slot : Nat
  manifest : List Byte
  reports : List (Nat × Nat)
  /-- A complete generation exists with FULL manifests (R349 row 4). -/
  done : Bool
  rollback : Bool
  rollGen : Nat
  /-- Where the rollback block lies, and whether this package was given it (R351). -/
  rollBlock : Place
  rollHere : Bool
  /-- The outcome of this package's part of a rollback, until every package has done its own (R352). -/
  ending : Option Nat
  /-- The job is stopped until a rollback ends well (R352, R360): none of its parties is placed. -/
  stopped : Bool
  /-- Where the records of items that were logged on their way to a peer belong (R336, R345): by granule of the receiving package's
  address, the package and its granule. -/
  away : Sparse (Nat × Nat)
  deriving DecidableEq, Repr

/-- No generation started. -/
def Snap.blank : Snap :=
  { state := 0, cause := 0, cross := false, crossed := false, asked := false, gen := 0, full := false, coord := 0, scb := 0, ctl := [], entry := [],
    cuts := [], stage := .off, slot := 0, manifest := [], reports := [], done := false,
    rollback := false, rollGen := 0, rollBlock := .nowhere, rollHere := false, ending := none,
    stopped := false, away := [] }

/-- A job: its translation context (R201), its job table entry (R381), and what is kept per job. -/
structure Job where
  present : Bool
  root : Nat
  key : BitVec 8
  pasid : Nat
  notifq : Nat
  pageq : Nat
  tag : Nat
  pkg : Nat
  pkgs : Nat
  ports : BitVec 16
  index : Nat
  dbgen : Bool
  meas : List Byte
  /-- Cut epoch and number of cuts of each die 0 to 9 (R332). -/
  epoch : Sparse Nat
  cuts : Sparse Nat
  snap : Snap
  deriving DecidableEq, Repr

/-- No context. -/
def Job.blank : Job :=
  { present := false, root := 0, key := 0, pasid := 0, notifq := 0, pageq := 0, tag := 0, pkg := 0, pkgs := 0,
    ports := 0, index := 0, dbgen := false, meas := [], epoch := [], cuts := [], snap := Snap.blank }

/-- A page request outstanding (R197): request tag, the global tick at which it was made, whether the record has been written. -/
structure PageReq where
  tag : Nat
  tick : Nat
  op : Nat
  va : Nat
  wr : Bool
  host : Bool
  asid : BitVec 16
  posted : Bool
  deriving DecidableEq, Repr

/-- A translation or key-manager command in execution (R200, R202, R386): its eight doubles, the cores that have
passed its invalidation point, what it waits for. -/
structure TcqCmd where
  ds : List Dbl
  passed : List Nat
  awaitOps : List Nat
  refused : Bool
  done : Bool
  host : Bool
  deriving DecidableEq, Repr

/-- A link injector (R359). -/
structure Injector where
  ctl : Dbl
  trig : Dbl
  cnt : Dbl
  data : Dbl
  deriving DecidableEq, Repr

/-- An injector after reset. -/
def Injector.reset : Injector := { ctl := 0, trig := 0, cnt := 0, data := 0 }

/-- A held debug grant (R364). -/
structure Grant where
  scope : Dbl
  expiry : Nat
  deriving DecidableEq, Repr

/-- The debug mailbox (R363 to R365). -/
structure Mailbox where
  cmd : Dbl
  args : List Dbl
  stat : Dbl
  data : Dbl
  busy : Bool
  grant : Option Grant
  nonces : List (List Byte)
  /-- Stops still to come (R365): tick and dies. -/
  stops : List (Nat × BitVec 10)
  deriving DecidableEq, Repr

/-- The configuration block (R378). -/
structure Cfg where
  iddig : BitVec 256
  devmask : BitVec 512
  negmask : BitVec 512
  disable : BitVec 512
  timing : Dbl
  st : Nat
  cause : Nat
  tcq : Nat
  errlog : Nat
  kmq : Nat
  jobtab : Nat
  livemap : Nat
  livegen : Dbl
  fwdig : BitVec 256
  rings : Sparse Nat
  deriving DecidableEq, Repr

/-- Package flash (R379, R380, R383): the vendor root key, the firmware image and the configuration record, each with its signature. -/
structure Flash where
  root : List Byte
  image : List Byte
  imageSig : List Byte
  record : List Byte
  recordSig : List Byte
  deriving DecidableEq, Repr

/-- Flash that holds nothing (log 88). -/
def Flash.blank : Flash := { root := [], image := [], imageSig := [], record := [], recordSig := [] }

/-- The limits in force (R389): amperes per compute die, watts of the package, degrees at the junction. -/
structure Limits where
  current : Nat
  power : Nat
  junction : Nat
  deriving DecidableEq, Repr

/-- R389's own limits, which a configuration record may lower. -/
def Limits.reset : Limits := { current := 2000, power := 8000, junction := 105 }

/-- A function's BAR2 (R189, R377): base if programmed, ranges assigned to a virtual function, AtomicOps. -/
structure BarFn where
  base : Option Nat
  ranges : List (Nat × Nat)
  atomicOp : Bool
  deriving DecidableEq, Repr

/-- An unprogrammed function. -/
def BarFn.blank : BarFn := { base := none, ranges := [], atomicOp := false }

/-- How the syllable that was executed last ended: in effect, its bundle held (R198), or trapped with the step
of R65 that reports it. -/
inductive Status where
  | done
  | held
  | trapped (step : Nat)
  deriving DecidableEq, Repr

/-- The model's own record of the bundle in execution: the coach, its address, cycle, gap and literal count, how
the last syllable ended, and what the control slot decided. -/
structure Cur where
  coach : Option Nat
  pc : Dbl
  cycle : Nat
  seq : Nat
  gap : Nat
  litc : Nat
  status : Status
  /-- Whether the transfer, if any, was redirected, and the next address. -/
  npc : Option Dbl
  pend : Option Pending
  joined : Bool
  delay : Bool
  deriving DecidableEq, Repr

/-- No bundle in execution. -/
def Cur.blank : Cur :=
  { coach := none, pc := 0, cycle := 0, seq := 0, gap := 0, litc := 0, status := .done, npc := none, pend := none,
    joined := false, delay := false }

/-- The package. -/
structure State where
  tick : Nat
  dies : Sparse Die
  coaches : Sparse Coach
  wings : Sparse Wing
  cores : Sparse Core
  parties : Sparse Party
  launches : Sparse Launch
  jobs : Sparse Job
  /-- HBM behind the homes, by physical address; host memory as last seen; unlisted bytes read 0 (log 3). -/
  mem : List Host.Cell
  host : List Host.Cell
  /-- Owner records at the homes (R236): word number to core + 1. -/
  owner : Sparse Nat
  ops : List Op
  walks : List Walk
  commits : List Commit
  /-- Monitors held by the slices, oldest first (R136): slice key and coach. -/
  monitors : List (Nat × Nat)
  tcq : Option TcqCmd
  tcqBad : Option (Nat × Nat)
  /-- The malformed BASE and CAP of each request ring that was last reported (R326). -/
  ringBad : Sparse (Nat × Nat)
  kmq : Option TcqCmd
  kmqBad : Option (Nat × Nat)
  tcqDone : Dbl
  pageReqs : List PageReq
  nextTag : Nat
  hostPages : Sparse HostPage
  keys : Sparse KeySlot
  /-- How HBM holds each 64-byte line, by line number (R210). `mem` gives its bytes decrypted, as the job that wrote them reads them. -/
  seals : Sparse Seal
  /-- The counter tree (R211): minor counters by 64-byte line, major counters by leaf node, and the counters that interior nodes
  and roots hold of their children, by level and child. -/
  lineCtr : Sparse Nat
  majors : Sparse Nat
  nodes : Sparse Nat
  /-- The verified nodes of the tree that each controller caches (R211), by controller. -/
  nodeCache : Sparse (List Nat)
  /-- What L2 holds (R227), by line number. -/
  l2 : Sparse L2Line
  /-- Regions of 2 MiB marked not live, and the elided-access counters by memory controller (R229). -/
  dead : Sparse Nat
  elided : Sparse Nat
  refreshOwed : Sparse Nat
  refreshAlert : Sparse Nat
  poison : List Site
  /-- Those that nothing has found yet (R356). -/
  latent : List Site
  granules : Sparse Granule
  /-- Writes of the package's own agents that wait for a reserve frame (R340), in order: job, place, bytes. -/
  stalled : List (Nat × Place × List Byte)
  /-- Corrected errors still to be recorded (R358): storage and location, the tick of the first, how many. -/
  merging : List ((Nat × Nat) × (Nat × Nat))
  linksDown : Sparse Nat
  linkOut : List (Nat × LinkItem)
  injectors : Sparse Injector
  mbox : Mailbox
  /-- Lantern ring header and exponent (R375). -/
  lantern : Option (Nat × Nat)
  cfg : Cfg
  bars : Sparse BarFn
  leaf : Nat
  flash : Flash
  /-- The seed that the fuzzy extractor gave at boot (R384). -/
  seed : BitVec 256
  limits : Limits
  /-- The arithmetic clock in MHz that the package power limiter and the junction limiter allow (R389). -/
  thermal : Nat
  cooling : Nat
  /-- The current of each compute die as last measured, in amperes (R389). -/
  amps : Sparse Nat
  nextLaunch : Nat
  nextId : Nat
  /-- Answers sent to the host: read data and completions (R377, R201). -/
  hostOut : List (List Byte)
  /-- The model's own: outside events still to come (log 2), the free-choice counter (log 1), the bundle in
  execution. -/
  env : List Instr
  freeCtr : Nat
  cur : Cur
  deriving DecidableEq, Repr

/-- The device feature mask of R81: bits 0 to 3, 8, 9, 16, 24 and 25. -/
def xq1Mask : BitVec 512 := 0x301030F#512

/-- The machine right after reset: nothing runs, memory lists nothing, STATE is 1 (booting), the UALink ports
are down (R379). Values that the manual does not give are log 4's. -/
def State.reset : State :=
  { tick := 0, dies := [], coaches := [], wings := [], cores := [], parties := [], launches := [], jobs := [],
    mem := [], host := [], owner := [], ops := [], walks := [], commits := [], monitors := [], tcq := none,
    tcqBad := none, ringBad := [], kmq := none, kmqBad := none, tcqDone := 0, pageReqs := [], nextTag := 0, hostPages := [],
    keys := [], seals := [], lineCtr := [], majors := [], nodes := [], nodeCache := [], l2 := [], dead := [],
    elided := [], refreshOwed := [], refreshAlert := [],
    poison := [], latent := [], granules := [], stalled := [], merging := [],
    linksDown := [(0, 1), (1, 1), (2, 1), (3, 1), (4, 1), (5, 1), (6, 1), (7, 1), (8, 1), (9, 1), (10, 1), (11, 1),
      (12, 1), (13, 1), (14, 1), (15, 1)],
    linkOut := [], injectors := [],
    mbox :=
      { cmd := 0, args := [0, 0, 0], stat := 0, data := 0, busy := false, grant := none, nonces := [],
        stops := [] },
    lantern := none,
    cfg :=
      { iddig := 0, devmask := xq1Mask, negmask := 0, disable := 0, timing := 0x5846000100000001, st := 1, cause := 0,
         tcq := 0, errlog := 0, kmq := 0, jobtab := 0, livemap := 0, livegen := 0, fwdig := 0, rings := [] },
    bars := [], leaf := 0, flash := Flash.blank, seed := 0, limits := Limits.reset, thermal := 1700, cooling := 1700,
    amps := [], nextLaunch := 1, nextId := 1, hostOut := [],
    env := [], freeCtr := 0, cur := Cur.blank }

end Sys2Proof.Machine
end

