-- ==== Sys2Proof/Machine/Base.lean ====
section
/-! DEFINITION. Access to the parts of the state: one accessor and one update for each table, where a coach, wing
or core lies (R13 to R17), the clock, free values and the core's statistics queue (R373). -/

namespace Sys2Proof.Machine

/-- What a meaning answers. -/
abbrev Out := Host.Outcome State Fault Refusal

/-! Where things lie. A core's number counts 64 cores per die; core 512 + d is the steward core of die d. -/

def coreOf (k : Nat) : Nat := k / 64
def wingOf (k : Nat) : Nat := k / 16
def coreOfWing (w : Nat) : Nat := w / 4
def dieOfCore (c : Nat) : Nat := if c < 512 then c / 64 else c - 512
def dieOf (k : Nat) : Nat := dieOfCore (coreOf k)

def State.coach (s : State) (k : Nat) : Coach := sget Coach.blank s.coaches k
def State.wing (s : State) (w : Nat) : Wing := sget Wing.blank s.wings w
def State.core (s : State) (c : Nat) : Core := sget Core.blank s.cores c
def State.die (s : State) (d : Nat) : Die := sget Die.reset s.dies d
def State.job (s : State) (a : Nat) : Job := sget Job.blank s.jobs a

/-- A party that never was. -/
def Party.blank : Party :=
  { st := .ended, launch := 0, d := 0, c := 0, k := 0, convoy := [], die := 0, core := 0, base := 0, size := 0,
    foot := 0, coaches := [], token := 0, tile := none, replay := [], reserve := none, ssteps := 0, skip := 0, past := 0,
    sstep := none, relaunches := 0, relaunchable := false, held := [], shapes := [], since := 0, pendSince := 0,
    promoted := false, slot := none, faulted := false, avoid := none, beyond := [], arrays := [] }

/-- A descriptor that never was. -/
def Kernel.blank : Kernel :=
  { width := 16, levels := [], sstep := false, mlodge := false, slev := 0, scratch := 0, l1 := 64, roles := [],
    dtab := 0, dtlen := 0 }

/-- A launch that never was. -/
def Launch.blank : Launch :=
  { doubles := [], kernel := Kernel.blank, asid := 0, key := 0, parties := [], ended := 0, faults := 0,
    nextTile := 0, pools := [], slots := [], accepted := 0, fin := true }

def State.party (s : State) (p : Nat) : Party := sget Party.blank s.parties p
def State.launch (s : State) (l : Nat) : Launch := sget Launch.blank s.launches l

def State.putCoach (s : State) (k : Nat) (c : Coach) : State :=
  { s with coaches := sset Coach.blank s.coaches k c }
def State.putWing (s : State) (w : Nat) (x : Wing) : State := { s with wings := sset Wing.blank s.wings w x }
def State.putCore (s : State) (c : Nat) (x : Core) : State := { s with cores := sset Core.blank s.cores c x }
def State.putDie (s : State) (d : Nat) (x : Die) : State := { s with dies := sset Die.reset s.dies d x }
def State.putJob (s : State) (a : Nat) (x : Job) : State := { s with jobs := sset Job.blank s.jobs a x }
def State.putParty (s : State) (p : Nat) (x : Party) : State :=
  { s with parties := sset Party.blank s.parties p x }
def State.putLaunch (s : State) (l : Nat) (x : Launch) : State :=
  { s with launches := sset Launch.blank s.launches l x }

def State.modCoach (s : State) (k : Nat) (f : Coach → Coach) : State := s.putCoach k (f (s.coach k))
def State.modWing (s : State) (w : Nat) (f : Wing → Wing) : State := s.putWing w (f (s.wing w))
def State.modCore (s : State) (c : Nat) (f : Core → Core) : State := s.putCore c (f (s.core c))
def State.modDie (s : State) (d : Nat) (f : Die → Die) : State := s.putDie d (f (s.die d))
def State.modJob (s : State) (a : Nat) (f : Job → Job) : State := s.putJob a (f (s.job a))
def State.modParty (s : State) (p : Nat) (f : Party → Party) : State := s.putParty p (f (s.party p))
def State.modLaunch (s : State) (l : Nat) (f : Launch → Launch) : State := s.putLaunch l (f (s.launch l))

def State.setCur (s : State) (f : Cur → Cur) : State := { s with cur := f s.cur }
def State.setCfg (s : State) (f : Cfg → Cfg) : State := { s with cfg := f s.cfg }
def State.setMbox (s : State) (f : Mailbox → Mailbox) : State := { s with mbox := f s.mbox }

/-- The coaches of a wing that are present, by rising index. -/
def State.coachesOfWing (s : State) (w : Nat) : List Nat :=
  (upto 16).map (fun i => 16 * w + i) |>.filter fun k => (s.coach k).present

/-- The keys of a table. -/
def tkeys {α : Type} (t : Sparse α) : List Nat := t.map (·.1)

/-- The cycle count of the die of a coach. -/
def State.now (s : State) (k : Nat) : Nat := (s.die (dieOf k)).cycle

/-- The next free value is a new one (log 1). -/
def State.tickFree (s : State) : State := { s with freeCtr := s.freeCtr + 1 }

/-- The tick some periods later (R361): a 64-bit count that never decreases (log 53). -/
def State.later (s : State) (n : Nat) : Nat := min (s.tick + n) (2 ^ 64 - 1)

/-- A free choice among n (log 1). -/
def State.pick (s : State) (place n : Nat) : Nat := Config.choice s.freeCtr place % n

/-- One of a list of values; the first when it is alone. -/
def choose {α : Type} (s : State) (place : Nat) (a : α) (l : List α) : α :=
  match l with
  | [] => a
  | _ => nth (a :: l) (s.pick place (l.length + 1)) a

/-- Whether the negotiated mask has a bit: DEVMASK until negotiation, NEGMASK from then on (R382). -/
def State.feature (s : State) (b : Nat) : Bool :=
  if s.cfg.st = 3 then s.cfg.negmask.getLsbD b else s.cfg.devmask.getLsbD b

/-- The job's key (R209). Stewards, of ASID 0, hold key 0. -/
def State.jobKey (s : State) (asid : Nat) : BitVec 8 := (s.job asid).key

/-- The launch of a coach's party. -/
def State.launchOf (s : State) (k : Nat) : Launch := s.launch (s.party (s.coach k).party).launch

/-- COACHID (R153). -/
def State.coachId (s : State) (k : Nat) : Dbl :=
  let c := coreOf k
  dnat (k % 16 + 16 * (k / 16 % 4) + 64 * (if c < 512 then c % 64 else 0) + 4096 * dieOfCore c +
    32768 * (s.job (s.coach k).asid.toNat).pkg)

/-- The records of an ASID that a queue lost so far, then the record: appended if there is room (R373). -/
def Core.record (c : Core) (asid : Nat) (tick : Nat) (r : Rec) : Core :=
  let lost := sget 0 c.lost asid
  let c :=
    if lost ≠ 0 ∧ c.statq.length < 256 then
      { c with
        statq := c.statq ++ [{ d0 := fld64 asid 16 ||| 2, d1 := 0, d2 := dnat tick, d3 := dnat (lost % 2 ^ 32) }],
        lost := sset 0 c.lost asid 0 }
    else c
  if c.statq.length < 256 then { c with statq := c.statq ++ [r] }
  else { c with lost := sset 0 c.lost asid (sget 0 c.lost asid + 1) }

/-- Appends a record of an event of coach k in a slot (0 to 3) to its core's statistics queue (R373). -/
def State.record (s : State) (k slot code : Nat) (addr payload : Dbl) : State :=
  let asid := (s.coach k).asid.toNat
  let r : Rec :=
    { d0 := dnat (code + 256 * (k % 16) + 4096 * (k / 16 % 4) + 16384 * slot + 65536 * asid), d1 := addr,
      d2 := dnat s.tick, d3 := payload }
  s.modCore (coreOf k) fun c => c.record asid s.tick r

/-- Replaces the operation with this number. -/
def State.putOp (s : State) (o : Op) : State :=
  { s with ops := s.ops.map fun p => if p.id = o.id then o else p }

/-- Changes the operation with this number. -/
def State.modOp (s : State) (id : Nat) (f : Op → Op) : State :=
  { s with ops := s.ops.map fun p => if p.id = id then f p else p }

/-- Forgets an operation. -/
def State.dropOp (s : State) (id : Nat) : State := { s with ops := s.ops.filter fun p => p.id ≠ id }

def State.op? (s : State) (id : Nat) : Option Op := s.ops.find? fun p => p.id = id

/-- A new number of the model's own. -/
def State.freshId (s : State) : Nat × State := (s.nextId, { s with nextId := s.nextId + 1 })

end Sys2Proof.Machine
end

