-- ==== Sys2Proof/Machine/Memory.lean ====
section
/-! DEFINITION. Physical memory, host memory and page tables: walks (R189 to R191), where an address lies (R235),
writes performed at a home (R91, R136, R229, R236, R339), and the rings that the device writes (R208, R358). -/

namespace Sys2Proof.Machine

/-- The physical memory ends at 768 GiB (R21). -/
def memEnd : Nat := 768 * 2 ^ 30

/-- The die whose stacks hold an address (R227, log 6). One 64 KiB granule has one home controller (R339). -/
def homeDie (pa : Nat) : Nat := Config.homeDieRaw (pa / 65536) % 8

/-- The home slice (R227), numbered with its die. -/
def sliceOf (pa : Nat) : Nat :=
  homeDie pa * 32 + ((bits pa 11 7 ^^^ bits pa 16 12) ^^^ bits pa 21 17)

/-- Whether the 2 MiB region of an address is marked not live (R229). -/
def State.isDead (s : State) (pa : Nat) : Bool := sget 0 s.dead (pa / 2 ^ 21) != 0

/-- The memory controller of an address: two for each die, one for each stack (R14). -/
def controllerOf (pa : Nat) : Nat := 2 * homeDie pa + Config.stackRaw (pa / 65536) % 2

/-- Counts an access to a region that is not live, in its controller (R229). -/
def State.countElided (s : State) (pa : Nat) : State :=
  let d := controllerOf pa
  { s with elided := sset 0 s.elided d (sget 0 s.elided d + 1) }

/-- Counts an access if it is one to a region that is not live. -/
def State.countDead (s : State) (pa : Nat) : State := if s.isDead pa then s.countElided pa else s

/-- n bytes of device memory; a region that is not live reads zero (R229). -/
def State.physBytes (s : State) (pa n : Nat) : List Byte :=
  if s.isDead pa then List.replicate n 0 else mgets s.mem pa n

def State.physDbl (s : State) (pa : Nat) : Dbl := BitVec.ofNat 64 (leNat (s.physBytes pa 8))

/-- Whether an 8-byte word that overlaps [pa, pa + n) holds an uncorrectable error (R356); a region that is not live signals none
(R229). -/
def State.poisoned (s : State) (pa n : Nat) : Bool :=
  !s.isDead pa && s.poison.any fun p => match p with
    | .line x => x < pa + n && pa < x + 8
    | _ => false

/-- The end of what can be addressed: in a package whose whole capacity is protected, the sixteenth that holds the metadata lies above
it (R21, R211, log 80). -/
def usableEnd : Nat := if Config.protectAll then 720 * 2 ^ 30 else memEnd

/-- Whether n bytes lie in the package's memory, outside its integrity metadata. -/
def addressable (pa n : Nat) : Bool := pa + n ≤ usableEnd

/-- The L2 line of a sector. -/
def State.l2Line (s : State) (line : Nat) : L2Line := sget L2Line.blank s.l2 line

/-- Whether a line that a walker reads fails its integrity check: HBM holds it encrypted, which no table is, and L2 does not hold
it (R213, log 80). -/
def State.badTable (s : State) (pa : Nat) : Bool :=
  !s.isDead pa && !(s.l2Line (pa / 128)).valid.getLsbD (pa / 32 % 4) &&
    (match sget Seal.fresh s.seals (pa / 64) with
      | .sealed _ _ _ => true
      | _ => false)

/-! Page tables. -/

/-- Outcome of a walk (R191). `err` is 0, or the error-record kind 4, 5 or 6 with the entry's address. -/
structure WalkOut where
  st : HState
  size : BitVec 2
  wb : Bool
  enc : Bool
  pbase : Nat
  hi : Nat
  lo : Nat
  key : BitVec 8
  rights : BitVec 4
  peer : Bool
  err : Nat
  epa : Nat
  deriving DecidableEq, Repr

/-- An absent or poisoned outcome. -/
def WalkOut.none (st : HState) (err epa : Nat) : WalkOut :=
  { st := st, size := 0, wb := false, enc := false, pbase := 0, hi := 0, lo := 0, key := 0, rights := 0,
    peer := false, err := err, epa := epa }

/-- A level of R190: low and high index bit, the leaf size it may hold with its code, the alignment of the tables
below it. -/
structure Level where
  hi : Nat
  lo : Nat
  leaf : Option (Nat × BitVec 2)
  below : Nat
  deriving DecidableEq, Repr

/-- The five levels of R190. -/
def levels : List Level :=
  [⟨55, 48, none, 8192⟩, ⟨47, 39, none, 8192⟩, ⟨38, 30, some (2 ^ 30, 3), 8192⟩, ⟨29, 21, some (2 ^ 21, 2), 512⟩,
    ⟨20, 16, some (2 ^ 16, 1), 0⟩]

/-- With memory encryption off an entry of any level has ENC = 0 (R212). -/
def encMalformed (s : State) (d0 : Nat) : Bool := tbit d0 61 && !s.feature 2

/-- Whether a leaf entry breaks a rule of R191 for a page of `sz` bytes. -/
def leafMalformed (s : State) (pkg pkgs sz d0 d1 : Nat) : Bool :=
  let addr := bits d0 51 8 * 256
  let peer := tbit d0 55
  bits d0 54 52 != 0 || addr % sz != 0 || bits d1 63 32 % 64 != 0 || bits d1 31 0 % 64 != 0 ||
    bits d1 63 32 ≤ bits d1 31 0 || bits d1 63 32 > sz || (!peer && bits d0 51 40 != 0) ||
    (peer && (bits d0 51 50 != 0 || bits d0 49 40 == pkg || bits d0 49 40 ≥ pkgs)) ||
    encMalformed s d0

/-- Whether a non-leaf entry breaks a rule of R191. -/
def tableMalformed (s : State) (below d0 d1 : Nat) : Bool :=
  encMalformed s d0 || bits d0 54 52 != 0 || bits d0 59 56 != 0 || tbit d0 55 || bits d0 7 0 != 0 || d1 != 0 ||
    below == 0 || bits d0 51 8 * 256 % below != 0

/-- A device-half walk from a table downward (R190, R191, R213); WB of any entry it reads counts (R206). -/
def walkDev (s : State) (pkg pkgs va : Nat) : List Level → Nat → WalkOut
  | [], e => WalkOut.none .absent 4 e
  | lv :: lvs, table =>
    let e := table + 16 * bits va lv.hi lv.lo
    let d0 := (s.physDbl e).toNat
    let d1 := (s.physDbl (e + 8)).toNat
    if s.poisoned (e / 128 * 128) 128 || s.badTable e then WalkOut.none .poisoned 6 e
    else if !tbit d0 63 then WalkOut.none .absent 0 e
    else if tbit d0 60 then
      match lv.leaf with
      | none => WalkOut.none .absent 4 e
      | some (sz, code) =>
        if leafMalformed s pkg pkgs sz d0 d1 then WalkOut.none .absent 4 e
        else
          { st := .valid, size := code, wb := tbit d0 62, enc := tbit d0 61, pbase := bits d0 51 8 * 256,
            hi := bits d1 63 32, lo := bits d1 31 0, key := BitVec.ofNat 8 d0, rights := BitVec.ofNat 4 (bits d0 59 56),
            peer := tbit d0 55, err := 0, epa := e }
    else if tableMalformed s lv.below d0 d1 then WalkOut.none .absent 4 e
    else
      let w := walkDev s pkg pkgs va lvs (bits d0 51 8 * 256)
      { w with wb := w.wb || tbit d0 62 }

/-- Bytes of a page by its SIZE code (R193). -/
def pageBytes (size : BitVec 2) : Nat :=
  match size.toNat with
  | 0 => 2 ^ 12
  | 1 => 2 ^ 16
  | 2 => 2 ^ 21
  | _ => 2 ^ 30

/-- A page never accessed. -/
def HostPage.blank : HostPage := { count := 0, wb := false, reads := false, writes := false }

/-- The number of a job's host page, by virtual page. -/
def hostPageKey (asid page : Nat) : Nat := asid * 2 ^ 44 + page

def State.hostPage (s : State) (asid page : Nat) : HostPage := sget HostPage.blank s.hostPages (hostPageKey asid page)

/-- Writes an entry; for want of room among the 262,144, one without WB is evicted (R207). -/
def State.putHostPage (s : State) (asid page : Nat) (h : HostPage) : State :=
  let key := hostPageKey asid page
  let t := s.hostPages
  let out := t.filter fun e => !e.2.wb
  let t := if t.length < 262144 || t.any (fun e => e.1 == key) || out.isEmpty then t
    else t.filter fun e => e.1 != (nth out (s.pick 9000 out.length) (0, HostPage.blank)).1
  { s with hostPages := sset HostPage.blank t key h }

/-- Whether a host page of a range has its WB set (R206, R207). -/
def State.hostPageBlocked (s : State) (asid lo len : Nat) : Bool :=
  s.hostPages.any fun e => e.2.wb && hostPageKey asid (lo / 4096) ≤ e.1 && Nat.blt e.1 (hostPageKey asid ((lo + len) / 4096))

/-- A host-half walk: the host's ATS completion is the host's choice (R189, R191, log 2). Bits of a free double say
whether it succeeded, its rights, its size and the address. -/
def walkHost (s : State) (asid : Nat) (key : BitVec 8) (va : Nat) : WalkOut :=
  let d := (Config.freeDbl s.freeCtr 1).toNat
  let size : BitVec 2 := if bits d 5 4 = 0 then 0 else if bits d 5 4 = 1 then 2 else 3
  let addr := bits (Config.freeDbl s.freeCtr 2).toNat 63 12 * 4096 / pageBytes size * pageBytes size
  if !tbit d 0 then WalkOut.none .poisoned 5 va
  else if !tbit d 1 && !tbit d 2 then WalkOut.none .absent 0 va
  else
    { st := .valid, size := size, wb := s.hostPageBlocked asid (va / pageBytes size * pageBytes size) (pageBytes size),
       enc := false, pbase := addr, hi := pageBytes size, lo := 0, key := key,
      rights := BitVec.ofNat 4 (bnat (tbit d 1) + 2 * bnat (tbit d 2) + 4 * bnat (tbit d 3) + 8 * bnat (tbit d 2)),
      peer := false, err := 0, epa := va }

/-- The walk of an address for a job (R189). A job without a context has no tables: absent. -/
def State.walk (s : State) (asid : Nat) (va : Nat) : WalkOut :=
  let j := s.job asid
  if !tbit va 56 then (if s.feature 3 then walkHost s asid j.key va else WalkOut.none .absent 0 va)
  else if !j.present then WalkOut.none .absent 0 va
  else walkDev s j.pkg j.pkgs va levels j.root

/-- The non-leaf entries that a walk from a table reads: `depth` levels lie above it, and `wb` is theirs. -/
def tablesRead (s : State) (pkg pkgs asid va : Nat) : List Level → Nat → Nat → Bool → List WalkEntry
  | [], _, _, _ => []
  | lv :: lvs, table, depth, wb =>
    let e := table + 16 * bits va lv.hi lv.lo
    let d0 := (s.physDbl e).toNat
    if s.poisoned (e / 128 * 128) 128 || s.badTable e || !tbit d0 63 || tbit d0 60 ||
        tableMalformed s lv.below d0 (s.physDbl (e + 8)).toNat then []
    else
      let x : WalkEntry := { asid := asid, depth := depth + 1, tag := va / 2 ^ lv.lo, table := bits d0 51 8 * 256, wb := wb || tbit d0 62 }
      x :: tablesRead s pkg pkgs asid va lvs x.table x.depth x.wb

/-- The lowest address bit that the levels above a table index. -/
def levelLo (depth : Nat) : Nat := ((levels[depth - 1]?).map (·.lo)).getD 57

/-- The range of addresses that a walker's entry covers. -/
def WalkEntry.range (e : WalkEntry) : Nat × Nat := (e.tag * 2 ^ levelLo e.depth, (e.tag + 1) * 2 ^ levelLo e.depth)

/-- A walk by a die's walkers (R195), which may start below a non-leaf entry that they hold, and hold those that they read. Which
they still hold is free (log 1). -/
def State.walkVia (s : State) (die asid va : Nat) : WalkOut × State :=
  let j := s.job asid
  if !tbit va 56 || !j.present then (s.walk asid va, s)
  else
    let top : WalkEntry := { asid := asid, depth := 0, tag := 0, table := j.root, wb := false }
    let from_ := choose s 9500 top ((s.die die).tables.filter fun e => e.asid == asid && e.tag == va / 2 ^ levelLo e.depth)
    let w := walkDev s j.pkg j.pkgs va (levels.drop from_.depth) from_.table
    let new := tablesRead s j.pkg j.pkgs asid va (levels.drop from_.depth) from_.table from_.depth from_.wb
    ({ w with wb := w.wb || from_.wb },
      if new.isEmpty then s
      else s.modDie die fun d => { d with tables := new ++ d.tables.filter (fun e =>
        !new.any fun x => x.asid == e.asid && x.depth == e.depth && x.tag == e.tag) })

/-- The handle image of a walk's outcome, with the XLATE mask (R193, R195). -/
def WalkOut.handle (w : WalkOut) (asid : BitVec 16) (va : Nat) (mask : BitVec 4) : Handle :=
  if w.st = .valid then
    { st := .valid, size := w.size, wb := w.wb, enc := w.enc,
      vbase := BitVec.ofNat 57 (va / pageBytes w.size * pageBytes w.size), pbase := dnat w.pbase,
      hi := BitVec.ofNat 32 w.hi, lo := BitVec.ofNat 32 w.lo, asid := asid, key := w.key, rights := w.rights &&& mask,
      peer := w.peer, walk := 0, mask := 0 }
  else
    let size : BitVec 2 := if tbit va 56 then 1 else 0
    { st := w.st, size := size, wb := false, enc := false,
      vbase := BitVec.ofNat 57 (va / pageBytes size * pageBytes size), pbase := 0, hi := BitVec.ofNat 32 (pageBytes size),
      lo := 0, asid := asid, key := 0, rights := 0, peer := false, walk := 0, mask := 0 }

/-! Where an address lies. -/

/-- The device address of a host address that lies in a BAR2 range which its function reaches (R189). -/
def State.barPa? (s : State) (ha : Nat) : Option Nat :=
  s.bars.findSome? fun e => match e.2.base with
    | none => none
    | some b =>
      if b ≤ ha && ha < b + 2 ^ 40 && (e.1 == 0 || e.2.ranges.any fun r => b + r.1 ≤ ha && ha < b + r.1 + r.2)
      then some (ha - b) else none

/-- The place of a byte at an offset of a page through a valid translation (R22, R189, R235). -/
def State.placeOf (s : State) (hostHalf peer enc : Bool) (pbase off : Nat) : Place :=
  if hostHalf then
    match s.barPa? (pbase + off) with
    | some pa => .home pa false
    | none => .host (pbase + off)
  else if peer then .peer (bits pbase 49 40) (pbase % 2 ^ 40 + off)
  else .home (pbase + off) enc

/-- The place of a byte through a handle at an offset from its page base. -/
def State.handlePlace (s : State) (h : Handle) (off : Nat) : Place :=
  if h.st = .valid then s.placeOf (!tbit h.vbase.toNat 56) h.peer h.enc h.pbase.toNat off else .nowhere

/-- The place of a byte of a job's address space, for the agents of the package (Ostler, coordinator, firmware). -/
def State.jobPlace (s : State) (asid va : Nat) : Place :=
  let w := s.walk asid va
  if w.st = .valid then s.placeOf (!tbit va 56) w.peer w.enc w.pbase (va % pageBytes w.size) else .nowhere

/-- The place of an address of the configuration block's queues: in the address space of identifier 0 when it has
a context, else the physical address in its low bits (log 7). -/
def State.sysPlace (s : State) (va : Nat) : Place :=
  if (s.job 0).present then s.jobPlace 0 va else .home (va % 2 ^ 40) false

/-- A number for the byte at a place, for tables of words. -/
def Place.key : Place → Nat
  | .home pa _ => pa
  | .host ha => 2 ^ 64 + ha
  | .peer p a => 2 ^ 65 + p * 2 ^ 40 + a
  | .sram c o => 2 ^ 66 + c * 2 ^ 20 + o
  | .nowhere => 2 ^ 67

/-- The die that a place's home lies on, if it is in this package; the host is reached through I/O die 0. -/
def Place.die : Place → List Nat
  | .home pa _ => [homeDie pa]
  | .host _ => [8]
  | _ => []

/-- A place some bytes on. -/
def Place.plus (p : Place) (n : Nat) : Place :=
  match p with
  | .home a e => .home (a + n) e
  | .host a => .host (a + n)
  | .peer k a => .peer k (a + n)
  | .sram c o => .sram c (o + n)
  | .nowhere => .nowhere

/-! L2 as writes change it. -/

/-- The sectors that n bytes touch. -/
def sectorsOf (pa n : Nat) : List Nat := (upto ((pa + n - 1) / 32 - pa / 32 + 1)).map (· + pa / 32)

/-- The bit of a sector in its line. -/
def secBit (sec : Nat) : BitVec 4 := 1#4 <<< (sec % 4)

/-- A sector is written in L2, through a page of a key slot if it is encrypted (R210, R227). -/
def L2Line.write (l : L2Line) (sec : Nat) (slot : Option Nat) : L2Line :=
  { valid := l.valid ||| secBit sec, dirty := l.dirty ||| secBit sec, slot := slot, raw := l.raw &&& ~~~secBit sec }

/-- The key slot of the job's encrypted pages (R210). -/
def State.slotOf (s : State) (asid : Nat) (enc : Bool) : Option Nat := if enc then some (s.jobKey asid).toNat else none

/-- The sectors of n bytes become valid and dirty in their L2 lines (R227). -/
def State.markDirty (s : State) (slot : Option Nat) (pa n : Nat) : State :=
  { s with l2 := (sectorsOf pa n).foldl (fun t sec => sset L2Line.blank t (sec / 4) ((sget L2Line.blank t (sec / 4)).write sec slot)) s.l2 }

/-! Granules (R337, R339, R340). -/

/-- The entries marked present of a table of n bytes: index and two doubles. -/
def State.tableEntries (s : State) (table n : Nat) : List (Nat × Nat × Nat) :=
  s.mem.filterMap fun e =>
    if table ≤ e.1 ∧ e.1 < table + n ∧ (e.1 - table) % 16 = 7 ∧ e.2.toNat ≥ 128 then
      let i := (e.1 - table) / 16
      some (i, (s.physDbl (table + 16 * i)).toNat, (s.physDbl (table + 16 * i + 8)).toNat)
    else none

/-- The valid local leaves below a table: virtual base, physical base, size, encrypted, key. -/
def State.leaves (s : State) (pkg pkgs : Nat) : List Level → Nat → Nat → List (Nat × Nat × Nat × Bool × Nat)
  | [], _, _ => []
  | lv :: lvs, table, va =>
    (s.tableEntries table (2 ^ (lv.hi + 1 - lv.lo) * 16)).flatMap fun (i, d0, d1) =>
      let v := va + i * 2 ^ lv.lo
      if tbit d0 60 then
        match lv.leaf with
        | none => []
        | some (sz, _) =>
          if leafMalformed s pkg pkgs sz d0 d1 || tbit d0 55 then []
          else [(v, bits d0 51 8 * 256, sz, tbit d0 61, bits d0 7 0)]
      else if tableMalformed s lv.below d0 d1 then []
      else s.leaves pkg pkgs lvs (bits d0 51 8 * 256) v

/-- The pages that a job's context maps locally, by ascending virtual address. -/
def State.jobPages (s : State) (asid : Nat) : List (Nat × Nat × Nat × Bool × Nat) :=
  let j := s.job asid
  if j.present then s.leaves j.pkg j.pkgs levels j.root (2 ^ 56) else []

/-- The granules of a job (R337): virtual base, granule number, encrypted, key. The copy reserve is excluded. -/
def State.jobGranules (s : State) (asid : Nat) : List (Nat × Nat × Bool × Nat) :=
  let e := (s.job asid).snap.entry
  let resv := (nth e 4 0).toNat
  let cnt := (nth e 5 0).toNat
  (s.jobPages asid).flatMap fun (v, p, sz, enc, key) =>
    (upto (sz / 65536)).filterMap fun i =>
      let va := v + 65536 * i
      if resv ≤ va && va < resv + 65536 * cnt then none else some (va, p / 65536 + i, enc, key)

/-- The jobs of which an address is in a granule. -/
def State.granuleJobs (s : State) (pa : Nat) : List Nat :=
  (tkeys s.jobs).filter fun a => a != 0 && (s.jobGranules a).any fun e => e.2.1 == pa / 65536

/-- The key of a job's record of a granule. -/
def granuleKey (asid g : Nat) : Nat := g * 65536 + asid

/-- A granule as after reset (log 4). -/
def Granule.blank : Granule := { asid := 0, d := false, p := false, c := .released, cut := 0 }

/-- The record of a granule as its die's cuts have left it (R339). -/
def State.granule (s : State) (asid g : Nat) : Granule :=
  let r := sget Granule.blank s.granules (granuleKey asid g)
  let cuts := sget 0 (s.job asid).cuts (homeDie (g * 65536))
  if cuts ≤ r.cut then { r with asid := BitVec.ofNat 16 asid }
  else
    { asid := BitVec.ofNat 16 asid, d := false, p := r.d && cuts == r.cut + 1, c := .armed, cut := cuts }

def State.putGranule (s : State) (g : Nat) (r : Granule) : State :=
  { s with granules := sset Granule.blank s.granules (granuleKey r.asid.toNat g) r }

/-- Reserve frames in use by a job, with the granule that holds each. -/
def State.framesHeld (s : State) (asid : Nat) : List (Nat × Nat) :=
  s.granules.filterMap fun e =>
    if e.2.asid.toNat = asid then
      match (s.granule asid (e.1 / 65536)).c with
      | .held f => some (f, e.1 / 65536)
      | _ => none
    else none

/-- The virtual base of a granule of a job. -/
def State.granuleVa (s : State) (asid g : Nat) : Nat :=
  match (s.jobGranules asid).find? fun e => e.2.1 = g with
  | some e => e.1
  | none => 0

/-- The granules of a job that its generation in progress has still to drain, in ascending virtual address: those with P = 1, or all of
them under FULL (R343, R349). -/
def State.drainList (s : State) (asid : Nat) : List (Nat × Nat × Bool × Nat) :=
  let all := sortBy (fun e => e.1) (s.jobGranules asid)
  if (s.job asid).snap.full then all.drop (s.job asid).snap.slot
  else all.filter fun e => (s.granule asid e.2.1).p

/-- Whether the copy of a granule is still to be drained: its P is 1, or its die has cut for a FULL generation that has not drained it
(R349, R353). -/
def State.undrained (s : State) (asid g : Nat) : Bool :=
  let n := (s.job asid).snap
  (s.granule asid g).p ||
    ((n.state == 1 || n.state == 2) && n.full && (sget DieCut.blank n.cuts (homeDie (g * 65536))).cut &&
      (s.drainList asid).any fun e => e.2.1 == g)

/-- A reserve frame for a copy: a free one, else one reclaimed from the granule of lowest virtual address that is
held and drained; none if the write must wait (R340). -/
def State.takeFrame (s : State) (asid cnt : Nat) : Option (Nat × State) :=
  let held := s.framesHeld asid
  match (upto cnt).find? fun f => !held.any fun h => h.1 = f with
  | some f => some (f, s)
  | none =>
    match sortBy (fun h => s.granuleVa asid h.2) (held.filter fun h => !s.undrained asid h.2) with
    | [] => none
    | h :: _ => some (h.1, s.putGranule h.2 { s.granule asid h.2 with c := .released })

/-- The transition of one job's granule before a write at a home (R339): the copy, if one is due, and D := 1. None while the
write waits for a frame (R340). Identifier 0 stands for memory of no job, which has no granules. -/
def State.cowJob (s : State) (asid pa : Nat) : Option State :=
  if asid = 0 then some s else
  let n := pa / 65536
  let g := s.granule asid n
  let e := (s.job asid).snap.entry
  let cnt := (nth e 5 0).toNat
  match g.c with
  | .armed =>
    if cnt = 0 then some (s.putGranule n { g with d := true, c := .released })
    else
      match s.takeFrame asid cnt with
      | none => none
      | some (f, s1) =>
        let body := mgets s1.mem (n * 65536) 65536
        let s2 :=
          match s1.jobPlace asid ((nth e 4 0).toNat + 65536 * f) with
          | .home q enc => { s1 with mem := msets s1.mem q body }.markDirty (s1.slotOf asid enc) q 65536
          | _ => s1
        some (s2.putGranule n { g with d := true, c := .held f })
  | _ => some (s.putGranule n { g with d := true })

/-- The granule transitions before a write at a home on behalf of a job: its own, and those of every other job of which the address is in
a granule (R339). -/
def State.cowWrite (s : State) (asid pa : Nat) : Option State :=
  ((s.granuleJobs pa).filter (· ≠ asid)).foldlM (fun s a => s.cowJob a pa) s >>= fun s => s.cowJob asid pa

/-- Whether a write to this address can be performed now (R340). -/
def State.cowReady (s : State) (asid pa : Nat) : Bool := (s.cowWrite asid pa).isSome

/-! Writes performed at a home. -/

/-- Marks the monitors armed on the lines of [key, key + n) as written (R137). -/
def State.wakeMonitors (s : State) (key n : Nat) : State :=
  s.monitors.foldl (fun s m =>
    match (s.coach m.2).mon with
    | .armed line h _ =>
      if key / 128 ≤ line && line ≤ (key + n - 1) / 128 then
        s.modCoach m.2 fun c => { c with mon := .armed line h true }
      else s
    | _ => s) s

/-- The cores that a die has: its 64 and the steward's. -/
def coresOfDie (d : Nat) : List Nat := (512 + d) :: (upto 64).map (· + 64 * d)

/-- The cores of a die whose instruction L1s hold a physical line: the die cache's vector for it (R91). -/
def State.holders (s : State) (d pline : Nat) : List Nat :=
  (coresOfDie d).filter fun c => (s.core c).icache.any fun l => l.pline == pline

/-- A line leaves a die's instruction cache, and with it the L1s of the cores in its vector (R91). -/
def State.dropDLine (s : State) (d pline : Nat) : State :=
  let s := s.modDie d fun x => { x with icache := x.icache.filter fun l => l.pline != pline }
  (s.holders d pline).foldl (fun s c => s.modCore c fun x => { x with icache := x.icache.filter fun l => l.pline != pline }) s

/-- A write that reaches the home of lines invalidates them in every die cache that holds them (R91). -/
def State.dropILines (s : State) (pa n : Nat) : State :=
  (upto 8).foldl (fun s d =>
    ((s.die d).icache.filter fun l => pa / 128 ≤ l.pline && l.pline ≤ (pa + n - 1) / 128).foldl (fun s l => s.dropDLine d l.pline) s) s

/-- Removes poison from words that are wholly overwritten (R357). -/
def State.unpoison (s : State) (pa n : Nat) : State :=
  if s.poison.isEmpty then s
  else
    { s with poison := s.poison.filter fun p => match p with
        | .line x => !(pa ≤ x && x + 8 ≤ pa + n)
        | _ => true }

/-- Bytes written at the home of device memory on behalf of a job: discarded in a region that is not live, else the
granule transition, the bytes, the monitors and the instruction caches. A write that R340 makes wait is not
performed here: its performer asks cowReady first. -/
def State.homeWrite (s : State) (asid pa : Nat) (enc : Bool) (bs : List Byte) : State :=
  if s.isDead pa then s.countElided pa
  else
    let s := (s.cowWrite asid pa).getD s
    let s := { s with mem := msets s.mem pa bs }.markDirty (s.slotOf asid enc) pa bs.length
    ((s.unpoison pa bs.length).wakeMonitors pa bs.length).dropILines pa bs.length

/-- Bytes written to host memory, as the host holds them (R245). -/
def State.hostWrite (s : State) (ha : Nat) (bs : List Byte) : State :=
  { s with host := msets s.host ha bs }.wakeMonitors (2 ^ 64 + ha) bs.length

/-- The owner record of a word ends, and its owner's copy is no longer owned: a write that is no coach's own, whose
loss notice is taken at once (R236, log 12). -/
def State.endOwner (s : State) (word : Nat) : State :=
  let o := sget 0 s.owner word
  if o = 0 then s
  else
    let s := { s with owner := sset 0 s.owner word 0 }
    s.modCore (o - 1) fun c =>
      { c with l1 := c.l1.map fun e => if e.1 = word then (e.1, { e.2 with owned := false }) else e }

/-- Words touched by n bytes from a key. -/
def wordsTouched (key n : Nat) : List Nat := (upto ((key + n - 1) / 4 - key / 4 + 1)).map (· + key / 4)

/-- An item of a job with its vendor header (R387). -/
def State.item (s : State) (asid epoch : Nat) (b : LinkBody) : LinkItem :=
  { asid := asid, epoch := epoch, index := (s.job asid).index, body := b }

/-- A write to a peer that no syllable awaits leaves on the lowest port that is up of the job (R244, log 39), with the epoch of its I/O
die. Its request number names nothing. -/
def State.peerWrite (s : State) (asid pa : Nat) (bs : List Byte) : State :=
  match (upto 16).find? fun p => (s.job asid).ports.getLsbD p && sget 0 s.linksDown p == 0 with
  | none => s
  | some p =>
    { s with linkOut := s.linkOut ++ [(p, s.item asid (sget 0 (s.job asid).epoch (if p < 8 then 8 else 9))
        (.write (2 ^ 80) pa ((upto bs.length).map fun i => (i, nth bs i 0))))] }

/-- A write by an agent that records no owner: a commit, a Courier, the host, the coordinator. -/
def State.plainWrite (s : State) (asid : Nat) (p : Place) (bs : List Byte) : State :=
  match p with
  | .home pa enc => (wordsTouched pa bs.length).foldl State.endOwner (s.homeWrite asid pa enc bs)
  | .host ha => s.hostWrite ha bs
  | .sram c o =>
    let s := s.modCore c fun x => { x with sram := msets x.sram o bs }
    { s with poison := s.poison.filter fun p => match p with
        | .sram d w => !(d == c && o ≤ 4 * w && 4 * w + 4 ≤ o + bs.length)
        | _ => true }
  | .peer _ pa => s.peerWrite asid pa bs
  | .nowhere => s

/-- The bytes at a place, as its home holds them; what a peer package holds is free (log 80). -/
def State.plainRead (s : State) (p : Place) (n : Nat) : List Byte :=
  match p with
  | .home pa _ => s.physBytes pa n
  | .host ha => mgets s.host ha n
  | .sram c o => mgets (s.core c).sram o n
  | .peer q pa => (upto n).map fun i => (Config.freeWord (s.freeCtr + q) 5800 (pa + i)).setWidth 8
  | .nowhere => List.replicate n 0

/-- Whether a write may be performed at a place now (R340). -/
def State.placeReady (s : State) (asid : Nat) : Place → Bool
  | .home pa _ => s.cowReady asid pa
  | _ => true

/-- A write by an agent of the package: one that must wait for a reserve frame is performed later, and with it the job's that follow
(R340). -/
def State.agentStore (s : State) (asid : Nat) (p : Place) (bs : List Byte) : State :=
  if s.placeReady asid p && !s.stalled.any (fun e => e.1 == asid) then s.plainWrite asid p bs
  else { s with stalled := s.stalled ++ [(asid, p, bs)] }

/-- What an agent reads at a place: the bytes there, and what agents have still to write. -/
def State.agentRead (s : State) (p : Place) (n : Nat) : List Byte :=
  s.stalled.foldl (fun (bs : List Byte) e => match p, e.2.1 with
    | .home a _, .home b _ => (upto n).map fun i => if b ≤ a + i && a + i < b + e.2.2.length then nth e.2.2 (a + i - b) 0 else nth bs i 0
    | _, _ => bs) (s.plainRead p n)

/-- The agents' writes for which there are frames now are performed, each job's in order (R340). -/
def State.unstall (s : State) : State :=
  s.stalled.foldl (fun s e => s.agentStore e.1 e.2.1 e.2.2) { s with stalled := [] }

/-- A write of doubles by an agent of the package to a job's address. -/
def State.agentPut (s : State) (asid va : Nat) (ds : List Dbl) : State :=
  s.agentStore asid (s.jobPlace asid va) (bytesOfDbls ds)

/-- A double read by an agent of the package from a job's address. -/
def State.agentDbl (s : State) (asid va : Nat) : Dbl :=
  BitVec.ofNat 64 (leNat (s.agentRead (s.jobPlace asid va) 8))

/-- A double of a queue of the configuration block. -/
def State.sysDbl (s : State) (va : Nat) : Dbl := BitVec.ofNat 64 (leNat (s.agentRead (s.sysPlace va) 8))
def State.sysWrite (s : State) (va : Nat) (ds : List Dbl) : State := s.agentStore 0 (s.sysPlace va) (bytesOfDbls ds)

/-- What the device's own access to a queue leaves: a request to the host for its page is counted, but brings no record itself (R207,
log 82), and a read of a region that is not live is counted in its controller (R229). -/
def State.noteQueue (s : State) (asid : Nat) (p : Place) (va : Nat) (write : Bool) : State :=
  match p with
  | .host _ =>
    let h := s.hostPage asid (va / 4096)
    s.putHostPage asid (va / 4096) { h with count := (h.count + 1) % 65536, reads := h.reads || !write, writes := h.writes || write }
  | .home pa _ => if write then s else s.countDead pa
  | _ => s

/-- Appends a record to a ring with the header of R208 reached by `rd` and `wr`: written if there is room, else
counted in DROPPED when `drop`. Answers whether it was written. `note` says what each access leaves: to the header, a read, and
the writes of the record and of the header. A ring whose CAP is none of R208's is full; its BASE is taken as given (log 28). -/
def ringAppend (rd : State → Nat → Dbl) (wr : State → Nat → List Dbl → State) (note : State → Nat → Bool → State) (drop : Bool)
    (s : State) (hdr size : Nat) (r : List Dbl) : State × Bool :=
  let s := if hdr = 0 then s else note s hdr false
  let base := (rd s hdr).toNat
  let cap := (rd s (hdr + 8)).toNat
  let prod := (rd s (hdr + 16)).toNat
  let cons := (rd s (hdr + 24)).toNat
  if hdr = 0 || !ringCapOk cap || (prod + 2 ^ 32 - cons) % 2 ^ 32 ≥ cap then
    (if drop && hdr ≠ 0 then wr (note s hdr true) (hdr + 40) [rd s (hdr + 40) + 1] else s, false)
  else
    let s := wr (note s (base + size * (prod % cap)) true) (base + size * (prod % cap)) r
    (wr (note s hdr true) (hdr + 16) [dnat ((prod + 1) % 2 ^ 32)], true)

/-! Host pages (R207, R208). -/

/-- One request to the host for a page: the count, the flags, and the record when the threshold is reached. The requests that write
the record are counted, and bring none themselves (log 82). -/
def State.hostRequest (s : State) (asid va : Nat) (write : Bool) : State :=
  let page := va / 4096
  let h := s.hostPage asid page
  let q := (s.job asid).notifq
  let thresh := (s.agentDbl asid (q + 0x20)).toNat % 65536
  let off := q == 0 || thresh == 0
  let h := { h with
    count := if off then h.count else (h.count + 1) % 65536, reads := h.reads || !write, writes := h.writes || write }
  if !off && decide (thresh ≤ h.count) then
    let (t, _) := ringAppend (fun s a => s.agentDbl asid a) (fun s a ds => s.agentPut asid a ds)
      (fun s a w => s.noteQueue asid (s.jobPlace asid a) a w) true s q 32
      [dnat (page * 4096), fld64 asid 48 ||| dnat h.count, dnat s.tick, dnat (bnat h.writes + 2 * bnat h.reads)]
    let n := (t.hostPage asid page).count
    t.putHostPage asid page { h with count := if q / 4096 = page then n else 0, reads := false, writes := false }
  else s.putHostPage asid page h

/-- Appends a record to the package error log (R358): kind, storage, location, consumer, bundle, syndrome and abort
cause, identifier, virtual address. -/
def State.errLog (s : State) (kind storage loc : Nat) (who addr : Dbl) (synd asid va : Nat) : State :=
  (ringAppend State.sysDbl State.sysWrite (fun s a w => s.noteQueue 0 (s.sysPlace a) a w) true s s.cfg.errlog 64
    [dnat (kind + 256 * storage), dnat loc, who, addr, dnat s.tick, dnat synd, dnat asid, dnat va]).1

/-- Logs what a walk found (R191, R213), or counts the entry that it read in a region that is not live, where an entry reads as absent
(R229). -/
def State.logWalk (s : State) (w : WalkOut) (asid va : Nat) : State :=
  if w.err = 0 then (if tbit va 56 && w.st == .absent then s.countDead w.epa else s) else s.errLog w.err 9 w.epa 0 0 0 asid va

/-- What an agent's access to n bytes of a job leaves beside its data: the record of a walk that ends poisoned or finds a malformed
entry (R191, R213), page by page, and a request to the host for each line that lies there (R207). -/
def State.noteAgent (s : State) (asid va n : Nat) (write : Bool) : State :=
  (upto (if n = 0 then 0 else (va + n - 1) / 128 - va / 128 + 1)).foldl (fun s i =>
    let a := max va (128 * (va / 128 + i))
    let w := s.walk asid a
    let s := if i = 0 || a % (if tbit a 56 then 65536 else 4096) = 0 then s.logWalk w asid a else s
    match s.jobPlace asid a with
    | .host _ => s.hostRequest asid a write
    | .home pa _ => if write then s else s.countDead pa
    | _ => s) s

/-- What an access to a queue of the configuration block leaves beside its data. -/
def State.noteSys (s : State) (va n : Nat) : State :=
  if (s.job 0).present then s.noteAgent 0 va n false else s.countDead (va % 2 ^ 40)

/-- A write of doubles by an agent of the package. -/
def State.agentWrite (s : State) (asid va : Nat) (ds : List Dbl) : State :=
  (s.noteAgent asid va (8 * ds.length) true).agentPut asid va ds

end Sys2Proof.Machine
end

