-- ==== Sys2Proof/Machine/Shape.lean ====
section
/-! DEFINITION. Shapes (R261 to R267): the fields of a descriptor, its rules, where the elements of a box lie, and the
order of a box's byte stream under a LAYOUT. -/

namespace Sys2Proof.Machine

/-- A descriptor's fields (R262). -/
structure Geo where
  box : List Nat
  wr : Bool
  ovl : Bool
  layout : Nat
  ndim : Nat
  esize : Nat
  base : Nat
  ext : List Nat
  stride : List Int
  /-- Whether a reserved field holds a 1. -/
  rsvd : Bool
  deriving DecidableEq, Repr

/-- A double of a descriptor. -/
def geoDbl (d : List Dbl) (i : Nat) : Nat := (nth d i 0).toNat

/-- A 32-bit field as a signed number. -/
def signed32 (n : Nat) : Int := (BitVec.ofNat 32 n).toInt

/-- The fields as stored. -/
def Geo.read (d : List Dbl) : Geo :=
  let h := geoDbl d 0
  let lo (i : Nat) : Nat := bits (geoDbl d i) 31 0
  let hi (i : Nat) : Nat := bits (geoDbl d i) 63 32
  let b (i : Nat) : Nat := bits (geoDbl d 7) (16 * i + 15) (16 * i)
  { box := [b 0, b 1, b 2, b 3, bits h 63 48], wr := tbit h 43, ovl := tbit h 42, layout := bits h 41 40,
    ndim := bits h 39 36, esize := bits h 35 32, base := bits h 31 0, ext := [lo 1, hi 1, lo 2, hi 2, lo 3],
    stride := [signed32 (lo 4), signed32 (hi 4), signed32 (lo 5), signed32 (hi 5), signed32 (lo 6)],
    rsvd := bits h 47 44 != 0 || hi 3 != 0 || hi 6 != 0 }

/-- Element size in bytes. -/
def Geo.e (g : Geo) : Nat := 2 ^ g.esize

/-- Box, extent and stride of dimension i, unused dimensions as 1, 1 and 0 (R262). -/
def Geo.b (g : Geo) (i : Nat) : Nat := if i < g.ndim then nth g.box i 1 else 1
def Geo.x (g : Geo) (i : Nat) : Nat := if i < g.ndim then nth g.ext i 1 else 1
def Geo.s (g : Geo) (i : Nat) : Int := if i < g.ndim then nth g.stride i 0 else 0

/-- Elements of a box, and its bytes. -/
def Geo.count (g : Geo) : Nat := (upto 5).foldl (fun n i => n * g.b i) 1
def Geo.bytes (g : Geo) : Nat := g.e * g.count

/-- Whether a dimension at or above NDIM is not 0 (R262). -/
def Geo.unusedSet (g : Geo) : Bool :=
  (upto 5).any fun i => g.ndim ≤ i && (nth g.box i 0 != 0 || nth g.ext i 0 != 0 || nth g.stride i 0 != 0)

/-- R264's test, over the dimensions already taken in the order of |Si|: their reach so far. -/
def injectiveFrom (e : Nat) : Nat → List (Nat × Nat) → Bool
  | _, [] => true
  | reach, (s, x) :: ds => e + reach ≤ s && injectiveFrom e (reach + s * (x - 1)) ds

/-- Whether a shape is injective (R264). -/
def Geo.injective (g : Geo) : Bool :=
  injectiveFrom g.e 0 (sortBy (fun d => d.1) (((upto 5).filter fun i => 1 < g.x i).map fun i => ((g.s i).natAbs, g.x i)))

/-- The shape conditions of a LAYOUT (R266). -/
def Geo.layoutOk (g : Geo) : Bool :=
  !g.wr && (if g.layout = 2 then g.esize == 1 else g.esize == 0) && 2 ≤ g.ndim && g.s 0 == (g.e : Int) &&
    g.b 0 * g.e == 32 && g.s 1 == 32 && g.b 1 % 32 == 0

/-- The code of R263's first failing check of a descriptor, 2 to 6, or 0. -/
def Geo.check (g : Geo) : Nat :=
  if g.rsvd || g.ndim == 0 || 5 < g.ndim || 3 < g.esize || g.unusedSet then 2
  else if (upto 5).any (fun i => g.x i == 0 || g.b i == 0 || g.x i < g.b i) || 262144 < g.bytes then 3
  else if g.base % g.e != 0 || (upto 5).any fun i => g.s i % (g.e : Int) != 0 then 4
  else if g.layout != 0 && !g.layoutOk then 5
  else if g.wr && (g.layout != 0 || (upto 5).any (fun i => g.s i == 0 && 1 < g.x i) || (!g.ovl && !g.injective)) then 6
  else 0

/-- The byte bounds lo and hi (R263). -/
def Geo.bounds (g : Geo) : Int × Int :=
  let far (i : Nat) : Int := g.s i * ((g.x i : Int) - 1)
  let sum (f : Int → Int) : Int := (upto 5).foldl (fun a i => a + f (far i)) g.base
  (sum (min 0), sum (max 0) + g.e)

/-- The box indices of the element of linear index j (R265). -/
def Geo.indices (g : Geo) (j : Nat) : List Nat :=
  ((upto 5).foldl (fun (r : List Nat × Nat) i => (r.1 ++ [r.2 % g.b i], r.2 / g.b i)) ([], j)).1

/-- The page offset of a box element at coordinates c (R267). -/
def Geo.at (g : Geo) (c : List Nat) (is : List Nat) : Int :=
  (upto 5).foldl (fun a i => a + g.s i * (((nth c i 0 + nth is i 0 : Nat) : Int))) g.base

/-- The linear index of the first element that leaves the extents, if one does (R267). -/
def Geo.firstOutside (g : Geo) (c : List Nat) : Option Nat :=
  least? ((upto 5).filterMap fun i =>
    if g.x i < nth c i 0 + g.b i then
      some ((g.x i - nth c i 0) * (upto i).foldl (fun n k => n * g.b k) 1)
    else none)

/-- Where delivered byte y of a tile lies in the tile as stored (R266). -/
def tileByte (layout y : Nat) : Nat :=
  match layout with
  | 1 => 32 * (y % 32) + y / 32
  | 2 =>
    let el := y / 2
    2 * (16 * (el % 32) + el / 32) + y % 2
  | 3 =>
    let row := y / 32
    64 * (4 * (row / 8) + y % 32 / 8) + 8 * (row % 8) + y % 8
  | _ => y

/-- The indices (t, i2, i3, i4) of tile q as box indices of its first element (R266). -/
def Geo.tile (g : Geo) (q : Nat) : List Nat :=
  let n := g.b 1 / 32
  [0, 32 * (q % n), q / n % g.b 2, q / n / g.b 2 % g.b 3, q / n / g.b 2 / g.b 3]

/-- The page offset of byte j of a box's byte stream at coordinates c (R266, R268). -/
def Geo.byte (g : Geo) (c : List Nat) (j : Nat) : Nat :=
  if g.layout = 0 then ((g.at c (g.indices (j / g.e))) + (j % g.e : Nat)).toNat
  else ((g.at c (g.tile (j / 1024))) + tileByte g.layout (j % 1024)).toNat

/-- Whether every tile of a box starts at a multiple of 1,024 (R266). -/
def Geo.tilesAligned (g : Geo) (c : List Nat) : Bool :=
  (upto (g.bytes / 1024)).all fun q => g.at c (g.tile q) % 1024 == 0

/-- The place of byte j of a command's side. -/
def State.sidePlace (s : State) (x : Side) (j : Nat) : Place :=
  match x with
  | .box sh c h => s.handlePlace h ((Geo.read sh.desc).byte c j)
  | .sp core addr => .sram core (addr + j)
  | .nothing => .nowhere

/-- Bytes of the page that a side goes through. -/
def Side.page : Side → Nat
  | .box _ _ h => pageBytes h.size
  | _ => 1

/-- The address of byte j of a side in its page's address space. -/
def Side.va (x : Side) (j : Nat) : Nat :=
  match x with
  | .box sh c h => h.vbase.toNat + (Geo.read sh.desc).byte c j
  | _ => 0

end Sys2Proof.Machine
end

