-- ==== Sys2Proof/Machine/Hbm.lean ====
section
/-! DEFINITION. HBM behind L2: filling and writing back sectors (R227), encryption, MACs and the counter tree (R210, R211), and what
leaves L2 of its own accord. `State.mem` holds every line decrypted, as L2 would give it to the job that wrote it; only a sector that
L2 holds as ciphertext differs, and is turned back when it leaves. -/

namespace Sys2Proof.Machine

/-- The bytes of one 64-byte line's keystream (R210): AES-256 of the counter blocks j = 0 to 3. -/
def keystream (key : List Byte) (ctr line : Nat) : List Byte :=
  (upto 4).flatMap fun j => leBytes (Config.aes256 key (BitVec.ofNat 128 (ctr * 2 ^ 72 + line % 2 ^ 46 * 2 ^ 26 + j))).toNat 16

/-- A line's counter (R211): its leaf node's major counter, and its minor counter. -/
def State.counter (s : State) (line : Nat) : Nat := sget 0 s.majors (line / 32) * 2 ^ 12 + sget 0 s.lineCtr line

/-- The key in a slot (R210). -/
def State.slotKey (s : State) (slot : Nat) : List Byte := (sget KeySlot.blank s.keys slot).key

/-- Bytes of a line or of part of one, XORed with the keystream from an offset: AES-256 in counter mode, either way (R210). -/
def crypt (key : List Byte) (ctr line off : Nat) (bs : List Byte) : List Byte :=
  (bs.zip ((keystream key ctr line).drop off)).map fun e => e.1 ^^^ e.2

/-- The MAC of a line's ciphertext under a key (R210). -/
def State.macOf (s : State) (key cipher : List Byte) (line : Nat) : BitVec 56 := Config.kmac256 key cipher (64 * line) (s.counter line)

def State.modL2 (s : State) (line : Nat) (f : L2Line → L2Line) : State :=
  { s with l2 := sset L2Line.blank s.l2 line (f (s.l2Line line)) }

/-- A line fails its check: poisoned, with an error record (R211). -/
def State.macFails (s : State) (line asid va : Nat) : State :=
  let s := { s with poison := s.poison ++ ((upto 8).map fun i => Site.line (64 * line + 8 * i)).filter fun p => !s.poison.contains p }
  s.errLog 7 8 (64 * line) 0 0 0 asid va

/-! The counter tree (R211). -/

/-- The nodes above a line in its controller's tree, the leaf first: 24 Mi leaves of 32 lines lie below nine levels of 8 (log 80). -/
def nodePath (line : Nat) : List Nat :=
  (upto 9).map fun i => (16 * i + controllerOf (64 * line)) * 2 ^ 32 + line / 32 / 8 ^ i

/-- A controller caches 512 KiB of verified nodes of 64 bytes. -/
def nodeCacheSize : Nat := 8192

/-- The nodes of a path enter their controller's cache; which leave it is free (log 1). -/
def State.cacheNodes (s : State) (ctl : Nat) (ns : List Nat) : State :=
  let old := (sget [] s.nodeCache ctl).filter fun n => !ns.contains n
  let excess := ns.length + old.length - nodeCacheSize
  let kept := (upto excess).foldl (fun (l : List Nat) i => l.eraseIdx (s.pick (9100 + i) l.length)) old
  { s with nodeCache := sset [] s.nodeCache ctl (ns ++ kept) }

/-- The nodes above a line are verified, up to one that its controller holds verified or the root: whether every MAC holds. A node's MAC
fails where the node's storage has an error. -/
def State.verifyNodes (s : State) (line : Nat) : State × Bool :=
  let ctl := controllerOf (64 * line)
  let new := (nodePath line).takeWhile fun n => !(sget [] s.nodeCache ctl).contains n
  if new.any fun n => s.poison.contains (.node n) then (s, false) else (s.cacheNodes ctl new, true)

/-- The nodes above a leaf count a write of their child, in the controller's cache. -/
def State.countNodes (s : State) (line : Nat) : State :=
  { s with nodes := (nodePath line).foldl (fun t n => sset 0 t n ((sget 0 t n + 1) % 2 ^ 56)) s.nodes }

/-! Sectors. -/

/-- Whether a line read from HBM through a page of a slot, or of none, passes its checks. A line never written back since it was zeroed
has a good MAC (R229); a page that is not encrypted checks nothing. -/
def State.opens (s : State) (slot : Option Nat) (line : Nat) : State × Bool :=
  match sget Seal.fresh s.seals line, slot with
  | .fresh, _ => (s, true)
  | _, none => (s, true)
  | .plain, some _ => (s, false)
  | .sealed _ c m, some n =>
    let (s, ok) := s.verifyNodes line
    (s, ok && s.macOf (s.slotKey n) c line == m)

/-- A sector of a line's ciphertext. -/
def cipherSector (c : List Byte) (sec : Nat) : List Byte := (c.drop (32 * (sec % 2))).take 32

/-- A clean sector leaves L2; one that was read as ciphertext is again what its job would read. -/
def State.dropSector (s : State) (sec : Nat) : State :=
  let l := s.l2Line (sec / 4)
  if !l.valid.getLsbD (sec % 4) || l.dirty.getLsbD (sec % 4) then s
  else
    let s := match l.raw.getLsbD (sec % 4), sget Seal.fresh s.seals (sec / 2) with
      | true, .sealed k c _ =>
        { s with mem := msets s.mem (32 * sec) (crypt k (s.counter (sec / 2)) (sec / 2) (32 * (sec % 2)) (cipherSector c sec)) }
      | _, _ => s
    s.modL2 (sec / 4) fun l => { l with valid := l.valid &&& ~~~secBit sec, raw := l.raw &&& ~~~secBit sec }

/-- An encrypted line's counter is incremented (R211). When a minor counter overflows, its leaf node's lines are encrypted anew under
the next major counter, with minor counters of 0 (log 80). -/
def State.countLine (s : State) (line : Nat) : State :=
  let s := s.countNodes line
  let m := sget 0 s.lineCtr line + 1
  if m < 2 ^ 12 then { s with lineCtr := sset 0 s.lineCtr line m }
  else
    let leaf := line / 32
    let s := (upto 64).foldl (fun s i => s.dropSector (64 * leaf + i)) s
    let t := { s with
      majors := sset 0 s.majors leaf ((sget 0 s.majors leaf + 1) % 2 ^ 32), lineCtr := s.lineCtr.filter fun e => e.1 / 32 != leaf }
    (upto 32).foldl (fun t i =>
      let x := 32 * leaf + i
      match sget Seal.fresh s.seals x with
      | .sealed k c _ =>
        let c := crypt k (t.counter x) x 0 (crypt k (s.counter x) x 0 c)
        { t with seals := sset Seal.fresh t.seals x (.sealed k c (t.macOf k c x)) }
      | _ => t) t

/-- A dirty sector is written back to HBM (R210, R227). Under a key the line's counter is incremented, the line encrypted anew and its
MAC computed; for that the controller reads the line's other sector where L2 does not hold it, and a line that fails its check is
poisoned but for the sector written (log 80). -/
def State.writeBack (s : State) (sec : Nat) : State :=
  let line := sec / 2
  let other := if sec % 2 = 0 then sec + 1 else sec - 1
  let l := s.l2Line (sec / 4)
  let s := if l.raw.getLsbD (other % 4) then s.dropSector other else s
  let away := !(s.l2Line (sec / 4)).valid.getLsbD (other % 4)
  let clean (s : State) : State := s.modL2 (sec / 4) fun l => { l with dirty := l.dirty &&& ~~~secBit sec }
  match l.slot with
  | none =>
    let s := match away, sget Seal.fresh s.seals line with
      | true, .sealed _ c _ => { s with mem := msets s.mem (32 * other) (cipherSector c other) }
      | _, _ => s
    clean { s with seals := sset Seal.fresh s.seals line .plain }
  | some n =>
    let s :=
      if away then
        let (s, ok) := s.opens (some n) line
        if ok then s else (s.macFails line 0 0).unpoison (32 * sec) 32
      else s
    let s := s.countLine line
    let key := s.slotKey n
    let c := crypt key (s.counter line) line 0 (mgets s.mem (64 * line) 64)
    clean { s with seals := sset Seal.fresh s.seals line (.sealed key c (s.macOf key c line)) }

/-- Whether a sector is dirty in L2. -/
def State.secDirty (s : State) (sec : Nat) : Bool := (s.l2Line (sec / 4)).dirty.getLsbD (sec % 4)

/-- A sector leaves L2, written back first if it is dirty. -/
def State.leaveSector (s : State) (sec : Nat) : State := (if s.secDirty sec then s.writeBack sec else s).dropSector sec

/-- A line leaves L2. -/
def State.leaveLine (s : State) (line : Nat) : State := (upto 4).foldl (fun s i => s.leaveSector (4 * line + i)) s

/-- A slice of L2 holds 3 MiB (R14, R21). -/
def sliceLines : Nat := 24576

/-- A line that L2 does not hold is to enter its slice: one leaves it where the slice is full. Which one is free (log 1). -/
def State.makeRoom (s : State) (line : Nat) : State :=
  if s.l2.length < sliceLines || s.l2.any fun e => e.1 == line then s
  else
    let mine := s.l2.filter fun e => sliceOf (128 * e.1) == sliceOf (128 * line)
    if mine.length < sliceLines then s
    else ((upto (mine.length + 1 - sliceLines)).foldl (fun (a : State × List (Nat × L2Line)) i =>
      let j := s.pick (9120 + i) a.2.length
      (a.1.leaveLine (nth a.2 j (line, L2Line.blank)).1, a.2.eraseIdx j)) (s, mine)).1

/-- A sector enters L2 (R227) through a page of a key slot, or one that is not encrypted, through which it is read as HBM holds it. A
line under another key, or under none, fails its MAC (R210). A sector that L2 holds as ciphertext is read from HBM again for an access
through an encrypted page (log 80). -/
def State.fillSector (s : State) (slot : Option Nat) (asid va sec : Nat) : State :=
  let l := s.l2Line (sec / 4)
  let s := if slot.isSome && l.raw.getLsbD (sec % 4) then s.dropSector sec else s
  if (s.l2Line (sec / 4)).valid.getLsbD (sec % 4) || s.isDead (32 * sec) then s
  else
    let s := (s.makeRoom (sec / 4)).modL2 (sec / 4) fun l => { l with valid := l.valid ||| secBit sec }
    match sget Seal.fresh s.seals (sec / 2), slot with
    | .sealed _ c _, none =>
      (({ s with mem := msets s.mem (32 * sec) (cipherSector c sec) }).modL2 (sec / 4)) fun l => { l with raw := l.raw ||| secBit sec }
    | .sealed _ c _, some n =>
      let (t, ok) := s.opens slot (sec / 2)
      if ok then
        { t with mem := msets t.mem (32 * sec) (crypt (t.slotKey n) (t.counter (sec / 2)) (sec / 2) (32 * (sec % 2)) (cipherSector c sec)) }
      else t.macFails (sec / 2) asid va
    | _, _ =>
      let (t, ok) := s.opens slot (sec / 2)
      if ok then t else t.macFails (sec / 2) asid va

/-- What an access to n bytes reads is in L2. -/
def State.fill (s : State) (asid pa : Nat) (enc : Bool) (n va : Nat) : State :=
  (sectorsOf pa n).foldl (fun s sec => s.fillSector (s.slotOf asid enc) asid va sec) s

/-- Before n bytes are written: their lines have room in L2, and the sectors that they cover only in part are there. -/
def State.fillEdges (s : State) (asid pa : Nat) (enc : Bool) (n va : Nat) : State :=
  (sectorsOf pa n).foldl (fun s sec =>
    if s.isDead (32 * sec) then s
    else if pa ≤ 32 * sec && 32 * sec + 32 ≤ pa + n then s.makeRoom (sec / 4)
    else s.fillSector (s.slotOf asid enc) asid va sec) s

/-- The sectors of n bytes that L2 did not hold in an earlier state leave it again: .ST allocates no line (R220). -/
def State.unallocate (s before : State) (pa n : Nat) : State :=
  ((sectorsOf pa n).filter fun sec => !(before.l2Line (sec / 4)).valid.getLsbD (sec % 4)).foldl State.dropSector s

/-- The sectors of n bytes are written through to HBM (R220). -/
def State.writeThrough (s : State) (pa n : Nat) : State :=
  (sectorsOf pa n).foldl (fun s sec => if s.secDirty sec then s.writeBack sec else s) s

/-- What L2 writes back and what leaves it of its own accord: for each sector a free choice of whether it is written back and of whether
it leaves (R227, log 1). A slice that an agent's write has overfilled is brought to its size (log 80). -/
def State.evict (s : State) : State :=
  let s := (s.l2.flatMap fun e => (upto 4).map (· + 4 * e.1)).foldl (fun t sec =>
    let d := Config.choice s.freeCtr (2 ^ 40 + sec)
    let t := if t.secDirty sec && d.testBit 0 then t.writeBack sec else t
    if d.testBit 1 then t.dropSector sec else t) s
  if s.l2.length ≤ sliceLines then s
  else (s.l2.map (·.1)).foldl (fun t line =>
    let mine := t.l2.filter fun e => sliceOf (128 * e.1) == sliceOf (128 * line)
    if mine.length ≤ sliceLines then t else t.leaveLine line) s

/-- A write by an agent that records no owner, the sectors that it covers in part first read (R227). -/
def State.sharedWrite (s : State) (asid : Nat) (p : Place) (va : Nat) (bs : List Byte) : State :=
  match p with
  | .home pa enc => (s.fillEdges asid pa enc bs.length va).plainWrite asid p bs
  | _ => s.plainWrite asid p bs

/-- Such a write by an agent of the package, which waits for a reserve frame if it must (R340). -/
def State.agentShared (s : State) (asid : Nat) (p : Place) (va : Nat) (bs : List Byte) : State :=
  if s.placeReady asid p && !s.stalled.any (fun e => e.1 == asid) then s.sharedWrite asid p va bs else s.agentStore asid p bs

end Sys2Proof.Machine
end

