-- ==== Sys2Proof/Machine/Cut.lean ====
section
/-! DEFINITION. Cuts and generations (R332 to R347): epochs, taking a die's cut, waymarks, the records of a cut, and
aborting a generation. Dies 8 and 9 are I/O dies 0 and 1. -/

namespace Sys2Proof.Machine

/-- The dies that a die has a link to (R13): beside, opposite, and the I/O die at its end. -/
def neighbours : Nat → List Nat
  | 0 => [1, 4, 8]
  | 1 => [0, 2, 5, 8]
  | 2 => [1, 3, 6, 9]
  | 3 => [2, 7, 9]
  | 4 => [0, 5, 8]
  | 5 => [1, 4, 6, 8]
  | 6 => [2, 5, 7, 9]
  | 7 => [3, 6, 9]
  | 8 => [0, 1, 4, 5]
  | 9 => [2, 3, 6, 7]
  | _ => []

/-- The number of a die-to-die link, from the sender to the receiver: an I/O die and a compute die have two (R388). -/
def dieLinkOf (a b plane : Nat) : Nat := 1000 + 256 * plane + 16 * a + b

/-- The first link from one die to another. -/
def dieLink (a b : Nat) : Nat := dieLinkOf a b 0

/-- How many links two neighbouring dies have (R388). -/
def planes (a b : Nat) : List Nat := if 8 ≤ a || 8 ≤ b then [0, 1] else [0]

/-- The links from one die to another. -/
def linksBetween (a b : Nat) : List Nat := (planes a b).map (dieLinkOf a b)

/-- The die that holds a UALink port (R13). -/
def portDie (p : Nat) : Nat := if p < 8 then 8 else 9

/-- The die that a link brings its items to, the die from which a die-to-die link brings them, and which of their links it is. -/
def linkEnd (l : Nat) : Nat := if 1000 ≤ l then (l - 1000) % 16 else portDie l
def linkStart (l : Nat) : Nat := (l - 1000) / 16 % 16
def linkPlane (l : Nat) : Nat := (l - 1000) / 256

/-- Whether a number names a die-to-die link of the package. -/
def isDieLink (l : Nat) : Bool :=
  1000 ≤ l && (neighbours (linkEnd l)).contains (linkStart l) && (planes (linkStart l) (linkEnd l)).contains (linkPlane l)

/-- Whether a link is up. -/
def State.linkUp (s : State) (l : Nat) : Bool := sget 0 s.linksDown l == 0

/-- The UALink ports of a die that carry a job and are up (R333). -/
def State.jobPorts (s : State) (asid die : Nat) : List Nat :=
  (upto 16).filter fun p => portDie p == die && (s.job asid).ports.getLsbD p && s.linkUp p

/-- The incoming links of a job at a die that are up (R336): die-to-die links and UALink ports. -/
def State.jobLinksIn (s : State) (asid die : Nat) : List Nat :=
  ((neighbours die).flatMap (linksBetween · die)).filter s.linkUp ++ s.jobPorts asid die

/-- The cut epoch of a die for a job (R332). -/
def State.epochOf (s : State) (asid die : Nat) : Nat := sget 0 (s.job asid).epoch die

/-- How a stamp stands to an epoch (R332). -/
inductive Stamp where
  | old | current | new
  deriving DecidableEq, Repr

def stampOf (epoch stamp : Nat) : Stamp :=
  if (stamp + 1) % 256 = epoch % 256 then .old else if stamp % 256 = (epoch + 1) % 256 then .new else .current

def State.modSnap (s : State) (asid : Nat) (f : Snap → Snap) : State :=
  s.modJob asid fun j => { j with snap := f j.snap }

/-- A die's part in the job's generation. -/
def State.cutOf (s : State) (asid die : Nat) : DieCut := sget DieCut.blank (s.job asid).snap.cuts die

def State.modCut (s : State) (asid die : Nat) (f : DieCut → DieCut) : State :=
  s.modSnap asid fun n => { n with cuts := sset DieCut.blank n.cuts die (f (sget DieCut.blank n.cuts die)) }

/-- Whether a generation of the job is in progress (R337). -/
def Snap.running (n : Snap) : Bool := n.state == 1 || n.state == 2

/-- The latest complete generation (R350); during a rollback, the one that it restores. -/
def Snap.latest (n : Snap) : Nat := if n.state = 3 then n.gen else if n.rollback then n.rollGen else n.gen - 1

/-- A vendor packet of a job (R335): kind, sending die, generation, code, cause, and the tick of the sender's cut. -/
def State.packet (s : State) (asid kind die code cause : Nat) : LinkBody :=
  let j := s.job asid
  .packet (dnat (kind + 256 * die + 65536 * j.pkg + 2 ^ 32 * j.tag))
    (dnat (j.snap.gen % 2 ^ 32 + 2 ^ 32 * bnat j.snap.full + 2 ^ 40 * code + 2 ^ 48 * cause))
    (dnat j.snap.scb) (dnat (s.cutOf asid die).tick)

/-- Sends a packet on the job's UALink ports of a die, stamped with the die's epoch. -/
def State.sendPorts (s : State) (asid die : Nat) (b : LinkBody) : State :=
  { s with linkOut := s.linkOut ++ (s.jobPorts asid die).map fun p =>
      (p, s.item asid (s.epochOf asid die) b) }

/-- Sends a packet to every package of the job. -/
def State.broadcast (s : State) (asid : Nat) (b : LinkBody) : State :=
  (s.sendPorts asid 8 b).sendPorts asid 9 b

/-- An s2 image (R319). -/
def s2Image (d c : Nat) : Dbl := dnat (c % 2 ^ 32 + 2 ^ 32 * d)

/-- Whether a party has never been placed. -/
def Party.fresh (p : Party) : Bool :=
  p.st == .pending && p.relaunches == 0 && p.token == 0 && p.tile.isNone && p.ssteps == 0 && p.slot.isNone &&
    p.replay.isEmpty

/-- The address of a party's save slot (R318, R323). -/
def State.slotVa (s : State) (p : Party) : Nat :=
  let l := s.launch p.launch
  (nth l.doubles 6 0).toNat + p.slot.getD 0 * dbits (nth l.doubles 7 0) 31 0

/-- A party entry of R346, 64 bytes: that of a pre-empted party from the first doubles of its save slot (R333). -/
def State.partyEntry (s : State) (p : Party) : List Dbl :=
  if p.st == .saved then
    dnat p.launch :: (upto 5).map (fun i => s.agentDbl (s.launch p.launch).asid.toNat (s.slotVa p + 8 * i)) ++ [0, 0]
  else
    [dnat p.launch, s2Image p.d p.c, p.token, match p.tile with | some t => dnat (2 ^ 63 + t) | none => 0,
      dnat p.ssteps, dnat p.relaunches, 0, 0]

/-- The launches of a job. -/
def State.jobLaunches (s : State) (asid : Nat) : List Nat :=
  (tkeys s.launches).filter fun l => (s.launch l).asid.toNat == asid

/-- The launches of a job that have not written DONE. -/
def State.openLaunches (s : State) (asid : Nat) : List Nat := (s.jobLaunches asid).filter fun l => !(s.launch l).fin

/-- The entry of a dealt tile that no party holds, among a die's records. -/
def tileEntry (l t : Nat) : List Dbl := [dnat (2 ^ 61 + l), dnat t, 0, 0, 0, 0, 0, 0]

/-- What a die records of a job at its cut (R346), in entries of eight doubles: party entries; and, with bit 63 of the
first double, a launch's next unplaced party on the die, parties ended and fault records; with bit 62, the next
undealt tile; with bit 61, a dealt tile that no party holds. Which launches are open is I/O die 0's to say, so that a compute die records
every launch of the job. -/
def State.cutRecords (s : State) (asid die : Nat) : List Dbl :=
  (if die = 8 then s.openLaunches asid else s.jobLaunches asid).flatMap fun l =>
    let la := s.launch l
    let ps := la.parties.filter fun p => (s.party p).die == die
    let unplaced := ps.filter fun p => (s.party p).fresh
    let next := match unplaced with
      | [] => BitVec.allOnes 64
      | p :: _ => s2Image (s.party p).d (s.party p).c
    let ended := ps.filter fun p => (s.party p).st == .ended
    let faulted := ended.filter fun p => (s.party p).faulted
    let placed := ps.filter fun p => (s.party p).st != .ended && !(s.party p).fresh
    if die = 8 then [dnat (2 ^ 62 + l), dnat la.nextTile, 0, 0, 0, 0, 0, 0]
    else
      [dnat (2 ^ 63 + l), next, dnat ended.length, dnat faulted.length, dnat die, 0, 0, 0] ++
        (placed.flatMap fun p => s.partyEntry (s.party p)) ++
        ((sget [] la.pools die ++ placed.flatMap fun p => (s.party p).replay).flatMap (tileEntry l))

/-- The doubles that the dies recorded, in entries of eight, of one tag and launch. -/
def State.recsOf (s : State) (asid die tag l : Nat) : List (List Dbl) :=
  (chunks 8 (s.cutOf asid die).recs).filter fun r => (nth r 0 0).toNat == tag + l

/-- Whether a launch was accepted after I/O die 0's cut of the generation in progress, and is not in its records (R346). -/
def State.afterCut (s : State) (l : Nat) : Bool :=
  let asid := (s.launch l).asid.toNat
  (s.job asid).snap.running && (s.cutOf asid 8).cut && (s.recsOf asid 8 (2 ^ 62) l).isEmpty

/-- Whether every page of a range of a job maps with a right. -/
def State.mapsRange (s : State) (asid va n right : Nat) : Bool :=
  (upto ((va + max 1 n - 1) / 4096 - va / 4096 + 1)).all fun i =>
    let w := s.walk asid (max va (4096 * (va / 4096 + i)))
    w.st == .valid && w.rights.getLsbD right

/-- Whether an address of a package entry maps with the write right over its extent, and where it must: in the package's own memory, in
the host half, or in a peer window (R342). -/
def State.mapsWrite (s : State) (asid va n : Nat) (here : Place → Bool) : Bool :=
  s.mapsRange asid va n 1 && (upto ((va + max 1 n - 1) / 65536 - va / 65536 + 1)).all fun i =>
    here (s.jobPlace asid (max va (65536 * (va / 65536 + i))))

/-- Whether a place is in the package's own memory. -/
def Place.local : Place → Bool
  | .home _ _ => true
  | _ => false

/-- Whether a package entry is well formed (R342): MAN, TGT, RESV and LOG. -/
def State.entryOk (s : State) (asid : Nat) (tkind : Nat) (e : List Dbl) : Bool :=
  let a (i : Nat) : Nat := (nth e i 0).toNat
  let own (i align n : Nat) : Bool := a i % align == 0 && tbit (a i) 56 && s.mapsWrite asid (a i) n Place.local
  own 0 256 (a 1) && own 4 65536 (65536 * a 5) && own 6 256 (a 7) && a 2 % 65536 == 0 && tbit (a 2) 56 == (tkind != 0) &&
    s.mapsWrite asid (a 2) (0x10040 * a 3) fun p => match p with
      | .peer _ _ => tkind != 0
      | .nowhere => false
      | _ => tkind == 0

/-- Whether nothing that an operation's coach issued after it orders it: it is a plain load with only plain loads behind it. -/
def State.loose (s : State) (o : Op) : Bool :=
  let plain (k : OpKind) : Bool := match k with | .load _ _ _ _ acq => !acq | _ => false
  plain o.kind && s.ops.all fun q => q.coach != o.coach || q.id ≤ o.id || plain q.kind

/-- A die's cut divides what it has issued for other dies (R332): what has left carries the old epoch and what is still to leave the new
one. Which reads have left is free (log 1); everything else that was issued before the cut is before it, as the commit points of its
party are (R328, R334, R337). -/
def State.restamp (s : State) (asid die : Nat) : State :=
  let new := (s.epochOf asid die + 1) % 256
  let late (id : Nat) : Bool := s.pick (2 ^ 50 + id) 2 == 0
  { s with
    ops := s.ops.map fun o => if o.asid.toNat == asid && o.die == die && s.loose o && late o.id then { o with left := new } else o,
    cores := s.cores.map fun e => if dieOfCore e.1 = die then
        (e.1, { e.2 with courier := e.2.courier.map fun m =>
          if m.asid.toNat == asid && (m.kind == .ld || m.kind == .m) && late m.id then { m with left := new } else m })
      else e,
    wings := s.wings.map fun e =>
      let beat (b : Beat) : Beat := if (s.coach b.coach).asid.toNat == asid && late b.id then { b with left := new } else b
      let d := e.2.drover
      if dieOfCore (coreOfWing e.1) = die then
        (e.1, { e.2 with drover := { d with sa := d.sa.map beat, q0 := d.q0.map beat, q1 := d.q1.map beat } })
      else e }

/-- The local cut of a die (R333): the epoch, the granules' transition (through the count of cuts), the records and
the waymarks on UALink ports. Waymarks between dies of the package stand in the cut itself: a neighbour has one to
receive while the sender has cut. -/
def State.takeCut (s : State) (asid die : Nat) : State :=
  let s := (s.restamp asid die).modCut asid die fun c =>
    { c with cut := true, delayed := none, tick := s.tick, recs := s.cutRecords asid die }
  let s := s.modJob asid fun j =>
    { j with
      epoch := sset 0 j.epoch die ((sget 0 j.epoch die + 1) % 256),
      cuts := sset 0 j.cuts die (sget 0 j.cuts die + 1) }
  s.sendPorts asid die (s.packet asid 1 die 0 0)

/-- The parties of a job on a die that are non-relaunchable (R334). -/
def State.delayers (s : State) (asid die : Nat) : List Nat :=
  (tkeys s.parties).filter fun p =>
    let x := s.party p
    x.die == die && (s.launch x.launch).asid.toNat == asid && !x.relaunchable &&
      x.st != .ended

/-- Whether a party is non-relaunchable: it delays its die's cut, and the answers to its accesses are exempt (R334). -/
def State.exempts (s : State) (p : Nat) : Bool := !(s.party p).relaunchable && (s.party p).st != .ended

/-- Whether an operation is a SNAP. -/
def Op.isSnap (o : Op) : Bool := match o.kind with
  | .snap _ _ _ _ => true
  | _ => false

/-- The SNAPs of a party on which nothing has been decided yet (R349). -/
def State.openSnaps (s : State) (p : Nat) : List Nat :=
  (s.ops.filter fun o => o.party == p && o.isSnap && !o.parts.isEmpty).map (·.id)

/-- Whether a party has a SNAP outstanding that has not been refused and whose cut has not been taken: what the party issues now is after
that cut (R349). -/
def State.snapAhead (s : State) (p : Nat) : Bool :=
  s.ops.any fun o => o.party == p && o.isSnap && (!o.parts.isEmpty || (s.cutOf o.asid.toNat o.die).delayed.isSome)

/-- The epoch of what a party issues on a die (R332, R349). -/
def State.stampNow (s : State) (asid die p : Nat) : Nat := (s.epochOf asid die + bnat (s.snapAhead p)) % 256

/-- Whether something was issued on a die after a cut that the die has still to take (R349): it waits for it. -/
def State.ahead (s : State) (asid die stamp : Nat) : Bool := stampOf (s.epochOf asid die) stamp == .new

/-- SNAP n of a party was refused: what the party has issued since, up to a later SNAP of its own on which nothing has been decided, is of
the die's present epoch. -/
def State.snapRefused (s : State) (asid die p n : Nat) : State :=
  let e := s.epochOf asid die
  let later (i : Nat) : Bool := (s.openSnaps p).any fun m => Nat.blt n m && Nat.blt m i
  let back (i stamp : Nat) : Nat := if s.ahead asid die stamp && !later i then e else stamp
  { s with
    ops := s.ops.map fun o => if o.party == p then { o with stamp := back o.id o.stamp, left := back o.id o.left } else o,
    commits := s.commits.map fun c => if c.party == p then { c with stamp := back c.id c.stamp } else c,
    cores := s.cores.map fun x => (x.1, { x.2 with courier := x.2.courier.map fun m =>
      if m.party == p then { m with stamp := back m.id m.stamp, left := back m.id m.left } else m }),
    wings := s.wings.map fun x =>
      let beat (b : Beat) : Beat :=
        if (s.coach b.coach).party == p then { b with stamp := back b.go b.stamp, left := back b.go b.left } else b
      let d := x.2.drover
      (x.1, { x.2 with drover := { d with sa := d.sa.map beat, q0 := d.q0.map beat, q1 := d.q1.map beat } }) }

/-- The abort of a generation (R347): every die that has not cut takes its cut, granules take the abort transition,
and the coordinator broadcasts the verdict. -/
def State.abortGen (s : State) (asid cause : Nat) : State :=
  if !(s.job asid).snap.running then s
  else
    let s := (upto 10).foldl (fun s d => if (s.cutOf asid d).cut then s else s.takeCut asid d) s
    let s := (s.jobGranules asid).foldl (fun s e =>
      let g := s.granule asid e.2.1
      s.putGranule e.2.1 { g with d := g.d || g.p, p := false, c := .released }) s
    let s := s.modSnap asid fun n =>
      { n with state := 4, cause := cause, stage := .off }
    let s := s.errLog 11 0 ((s.job asid).snap.gen % 2 ^ 32) 0 0 (2 ^ 32 * cause) asid 0
    if (s.job asid).snap.coord = (s.job asid).pkg then s.broadcast asid (s.packet asid 3 8 3 cause) else s

/-- An abort that begins on this package (R347): the coordinator package aborts the generation; another reports the cause to it, drains no
more, and awaits the verdict. -/
def State.abortHere (s : State) (asid cause : Nat) : State :=
  let j := s.job asid
  if !j.snap.running || j.snap.asked then s
  else if j.snap.coord = j.pkg then s.abortGen asid cause
  else (s.modSnap asid fun n => { n with asked := true, stage := .off }).broadcast asid (s.packet asid 2 8 3 cause)

/-- A die meets a trigger of the cut for generation g (R333): the generation starts on the package if it has not; a
non-relaunchable party delays the cut (R334). -/
def State.triggerCut (s : State) (asid die g : Nat) (full : Bool) (coord scb : Nat) : State :=
  let n := (s.job asid).snap
  let first := !(n.running && n.gen == g)
  let s :=
    if first then
      let e := (upto 8).map fun i =>
        s.agentDbl asid ((s.agentDbl asid (scb + 16)).toNat + 64 * (s.job asid).pkg + 8 * i)
      let ctl := (upto 16).map fun i => s.agentDbl asid (scb + 8 * i)
      let s := (s.noteAgent asid scb 128 false).noteAgent asid ((nth ctl 2 0).toNat + 64 * (s.job asid).pkg) 64 false
      s.modSnap asid fun n =>
        { n with
          state := 1, cause := 0, cross := false, crossed := false, asked := false, gen := g, full := full, coord := coord, scb := scb, ctl := ctl,
          entry := e, cuts := [], stage := .off, slot := 0, manifest := [], reports := [] }
    else s
  let s :=
    if (s.cutOf asid die).cut || (s.cutOf asid die).delayed.isSome then s
    else if (s.delayers asid die).isEmpty then s.takeCut asid die
    else s.modCut asid die fun c => { c with delayed := some s.tick }
  let n := (s.job asid).snap
  if first && ((nth n.ctl 2 0).toNat % 64 != 0 || !s.entryOk asid ((nth n.ctl 1 0).toNat % 4) n.entry) then s.abortHere asid 6
  else s

/-- A delayed cut falls once no party delays it (R334). -/
def State.releaseCut (s : State) (asid die : Nat) : State :=
  if (s.cutOf asid die).delayed.isSome && (s.delayers asid die).isEmpty then s.takeCut asid die else s

/-- Whether a die's cut waits, so that a bundle that would make a party non-relaunchable is held (R334). -/
def State.cutWaits (s : State) (asid die : Nat) : Bool := (s.cutOf asid die).delayed.isSome

/-- A waymark for g reaches a die on a link (R333, R336). -/
def State.waymark (s : State) (asid die link g : Nat) (full : Bool) (coord scb : Nat) : State :=
  let s := s.triggerCut asid die g full coord scb
  s.modCut asid die fun c => if c.seen.contains link then c else { c with seen := c.seen ++ [link] }

/-- Whether a die's cut is complete (R336). -/
def State.cutComplete (s : State) (asid die : Nat) : Bool :=
  (s.cutOf asid die).cut && (s.jobLinksIn asid die).all fun l => (s.cutOf asid die).seen.contains l

/-- An old write or atomic lane applied at a home whose die has cut is logged as channel state (R336, R345). -/
def State.logReceived (s : State) (asid die : Nat) (bs : List Byte) : State :=
  s.modCut asid die fun c => { c with log := c.log ++ bs }

/-- The address under which a peer package maps one of its addresses (R345, log 89). -/
def State.awayVa (s : State) (asid pkg pa : Nat) : Nat := Config.peerVa (s.job asid).tag pkg (pa / 65536) * 65536 + pa % 65536

/-- Where a record of an old item on its way to a peer belongs is kept for the replay (R352). -/
def State.noteAway (s : State) (asid pkg pa : Nat) : State :=
  s.modSnap asid fun n => { n with away := sset (1024, 0) n.away (s.awayVa asid pkg pa / 65536) (pkg, pa / 65536) }

/-- The log record of a write of bytes within one line (R345). -/
def writeRecord (va : Nat) (bs : List Byte) : List Byte :=
  let line := va / 128 * 128
  let mask := (2 ^ bs.length - 1) * 2 ^ (va - line)
  leBytes (1 + 2 ^ 16 * 128) 8 ++ leBytes line 8 ++ leBytes mask 8 ++ leBytes (mask / 2 ^ 64) 8 ++
    List.replicate (va - line) 0 ++ bs ++ List.replicate (128 - (va - line) - bs.length) 0

/-- The log record of one lane of an atomic (R345). -/
def atomicRecord (va opc : Nat) (v c : Word) : List Byte :=
  leBytes (2 + 256 * opc) 8 ++ leBytes va 8 ++ leBytes v.toNat 8 ++ leBytes (if opc = 0x37 then c.toNat else 0) 8

end Sys2Proof.Machine
end

