-- ==== Sys2Proof/Machine/Party.lean ====
section
/-! DEFINITION. The life of lanes, coaches and parties: the join step (R123), ends (R126), commits (R223, R328, R338),
fault records and relaunch (R329), consumed errors (R357). -/

namespace Sys2Proof.Machine

/-! Stops. -/

/-- Everything that a coach is stopped on: a bundle may stop it in more than one way (R139). -/
def Coach.stops (c : Coach) : List Stop := match c.stop with
  | .none => []
  | t => t :: c.more

/-- A coach stopped on these. -/
def Coach.withStops (c : Coach) (l : List Stop) : Coach := { c with stop := l.headD .none, more := l.drop 1 }

/-- A stop of the bundle in execution, beside those that its earlier slots made. -/
def Coach.stopOn (c : Coach) (t : Stop) : Coach := c.withStops (t :: c.stops)

/-- The stops that satisfy a test are over. -/
def Coach.unstop (c : Coach) (f : Stop → Bool) : Coach := c.withStops (c.stops.filter fun t => !f t)

/-- The first stop is over: the coach's next bundle issues at a cycle at the earliest. -/
def Coach.wake (c : Coach) (t : Nat) : Coach := { c.withStops c.more with next := max c.next t }

/-! Readiness. -/

/-- Whether a coach may issue at all: not ended, stopped or frozen (R139). A coach without a launch is a steward. -/
def State.runnable (s : State) (k : Nat) : Bool :=
  let c := s.coach k
  let p := s.party c.party
  c.present && !c.ended && !c.halted && c.stop == .none && (p.launch == 0 || p.st == .running)

/-- Whether a bundle that a coach of a wing issues now is squashed (R160). -/
def State.squashes (s : State) (w : Nat) : Bool := (s.wing w).squash.any fun t => t ≤ (s.die (dieOfCore (coreOfWing w))).cycle

/-- The squashed bundles of a wing that have still to issue again: their coaches stand before them. -/
def State.toReplay (s : State) (w : Nat) : List Nat :=
  ((s.wing w).again.filter fun e => s.runnable e.1 && (s.coach e.1).pc == e.2).map (·.1)

/-- Whether a wing's last mismatch is still being dealt with: its window, or the replay (R160). -/
def State.replaying (s : State) (w : Nat) : Bool :=
  s.squashes w || decide ((s.die (dieOfCore (coreOfWing w))).cycle < (s.wing w).replay) || !(s.toReplay w).isEmpty

/-! The reconvergence stack. -/

/-- The loop of the join step (R123), on the stack without its popped top: what remains and the next address; none if
the coach ends. -/
def joinLoop (live : Lanes) : List StackEntry → Option (List StackEntry × BitVec 57)
  | [] => none
  | t :: ts =>
    if t.mask &&& live = 0 then joinLoop live ts
    else if t.pending then some ({ t with pending := false } :: ts, t.pc)
    else some (t :: ts, t.rpc)

/-- The base entry of a new coach (R121). -/
def StackEntry.base (m : Lanes) : StackEntry :=
  { mask := m, pending := false, dcall := false, pc := 0, rpc := 0, dret := 0 }

/-- The mask of the top entry. -/
def Coach.top (c : Coach) : Lanes := match c.stack with | [] => 0 | t :: _ => t.mask

/-- Lanes 0 to n - 1. -/
def lanesBelow (n : Nat) : Lanes := BitVec.ofNat 64 (2 ^ n - 1)

/-- Clears ended lanes in every entry (R126). -/
def clearLanes (m : Lanes) (st : List StackEntry) : List StackEntry :=
  st.map fun e => { e with mask := e.mask &&& ~~~m }

/-! Commits. -/

/-- Whether something that a coach issued at a bundle address and cycle belongs to the bundle in execution, whose own work is no part
of the commit that one of its syllables makes (R328). -/
def State.ofBundle (s : State) (k cycle : Nat) : Bool := s.cur.coach == some k && s.cur.cycle == cycle

/-- A party's held stores leave for their homes, stamped with its die's epoch (R332, R338). Held stores of earlier bundles that have
not reached their homes belong to the commit too (R328): they are performed directly, with their policy, and
record no owner, as Courier commands do that were held till now. `all`:
at party exit the work of the bundle in execution is committed with the rest (R126). -/
def State.commitStores (s : State) (p : Nat) (all : Bool) : State :=
  let x := s.party p
  let mine (o : Op) : Bool := o.party == p && o.held && (all || !s.ofBundle o.coach o.cycle)
  let after := (s.ops.filter mine).map (·.id)
  if x.held.isEmpty && after.isEmpty then s
  else
    let cmds := (s.core x.core).courier.filter fun m => m.party == p && m.held && (all || !s.ofBundle m.coach m.cycle)
    let (id, s) := s.freshId
    let asid := (s.launch x.launch).asid
    let c : Commit :=
      { id := id, party := p, asid := asid, stamp := s.stampNow asid.toNat x.die p, die := x.die, bytes := x.held,
        after := after ++ cmds.map (·.id) }
    { s with
      commits := s.commits ++ [c],
      ops := s.ops.map fun o => if mine o then { o with held := false, moved := true, stamp := c.stamp, left := c.stamp } else o
    }.putParty p { x with held := [] }

/-- Courier commands of earlier bundles of a party that are held by it become durable (R328): their writes carry the commit's epoch. -/
def State.acceptCmds (s : State) (p : Nat) (all : Bool) : State :=
  let x := s.party p
  let e := s.stampNow (s.launch x.launch).asid.toNat x.die p
  let mine (m : Cmd) : Bool := m.party == p && m.held && (all || !s.ofBundle m.coach m.cycle)
  if (s.core x.core).courier.any mine then
    s.modCore x.core fun c =>
      { c with courier := c.courier.map fun m => if mine m then { m with held := false, stamp := e } else m }
  else s

/-- What a commit point makes durable, with what it records of the party (R328); the party is relaunchable again. -/
def State.commitWork (s : State) (p : Nat) (all : Bool) (f : Party → Party) : State :=
  if (s.party p).launch = 0 then s.modParty p f
  else ((s.commitStores p all).acceptCmds p all).modParty p fun x => { f x with relaunchable := true }

/-- A cut that a party delayed falls, once no other party delays it (R334). -/
def State.cutFor (s : State) (p : Nat) : State :=
  if (s.party p).launch = 0 then s
  else s.releaseCut (s.launch (s.party p).launch).asid.toNat (s.party p).die

/-- A commit point that records something of the party (R328): a cut that the party delayed falls directly after it, with
the record as the commit left it (R334, R346). -/
def State.commitThen (s : State) (p : Nat) (f : Party → Party) : State := (s.commitWork p false f).cutFor p

/-- A commit point (R328). -/
def State.commitPoint (s : State) (p : Nat) : State := s.commitThen p id

/-- A party arrives at its pending superstep once every live coach has issued SSTEP: it commits, as COMMIT does, and
counts the superstep (R256). One that it had arrived at before a relaunch is passed without a new arrival (R329). -/
def State.tryArrive (s : State) (p : Nat) : State :=
  let x := s.party p
  match x.sstep with
  | none => s
  | some t =>
    if t.arrived || !(x.coaches.all fun k => (s.coach k).ended || t.coaches.contains k) then s
    else if x.skip ≠ 0 then s.putParty p { x with sstep := none, skip := x.skip - 1 }
    else
      (s.modParty p fun x => { x with sstep := some { t with arrived := true }, ssteps := x.ssteps + 1 }).commitPoint p

/-- The commit that precedes an access which cannot be dropped (R223): the party is non-relaunchable until its next
commit point. -/
def State.commitHard (s : State) (p : Nat) : State :=
  if (s.party p).launch = 0 then s
  else ((s.commitStores p false).acceptCmds p false).modParty p fun x => { x with relaunchable := false }

/-- Whether a bundle that would make the party non-relaunchable is held by a delayed cut (R334), or by the cut of the party's own SNAP
(R349). -/
def State.holdsHard (s : State) (p : Nat) : Bool :=
  let x := s.party p
  x.launch != 0 && x.relaunchable && (s.cutWaits (s.launch x.launch).asid.toNat x.die || s.snapAhead p)

/-! Ends. -/

/-- Writes a fault record of a launch (R329). -/
def State.faultRecord (s : State) (k : Nat) (cause : Nat) (info pc : Dbl) : State :=
  let p := s.party (s.coach k).party
  let l := s.launch p.launch
  let fring := (nth l.doubles 12 0).toNat
  let fcap := (nth l.doubles 13 0).toNat
  let s := s.modLaunch p.launch fun l => { l with faults := l.faults + 1 }
  if fcap = 0 then s
  else
    s.agentWrite l.asid.toNat (fring + 64 * (l.faults % fcap))
      [dnat cause, info, pc, s.coachId k, s2Image p.d p.c, dnat s.tick, 0, 0]

/-- The other party on a core whose launch record asks for the Drover of wing i (R300, R318). -/
def State.droverAsker (s : State) (p core i : Nat) : Option Nat :=
  (tkeys s.parties).find? fun q =>
    let x := s.party q
    q != p && x.core == core && x.st == .running && tbit (dbits (nth (s.launch x.launch).doubles 0 0) 14 11) i

/-- The wings' Drovers that a party held are reset, and serve a party that asks for them, if one is there; the matrix arrays that they
serve have no owner and nothing under way (R276, R300). The accumulators, the lodge and the scales keep what they hold until the next owner
is created (R276, R404). -/
def State.freeEngines (s : State) (p : Nat) : State :=
  (upto 4).foldl (fun s i =>
    let w := (s.party p).core * 4 + i
    if (s.wing w).drover.party = some p then
      s.modWing w fun g => { g with
        drover := { Drover.reset with party := s.droverAsker p (s.party p).core i },
         owner := none, issuedFmt := none, mq := [], mrun := [], starve := none }
    else s) s

/-- A party ends; its coaches issue no further bundle. -/
def State.partyOver (s : State) (p : Nat) (faulted : Bool) : State :=
  let x := s.party p
  if x.st = .ended then s
  else
    let s := x.coaches.foldl (fun s k => s.modCoach k fun c => { c with ended := true, stop := .none, mon := .none }) s
    let s := s.modLaunch x.launch fun l => { l with ended := l.ended + 1 }
    s.putParty p { x with st := .ended, faulted := faulted }

/-- A party ends with a fault record (R147, R159, R226). Its uncommitted stores are dropped; what it had issued goes on
(R126), and a store that is performed later stays held and is never committed. A coach without a launch, a steward, just
ends. -/
def State.partyFault (s : State) (k cause : Nat) (info pc : Dbl) : State :=
  let p := (s.coach k).party
  if (s.party p).launch = 0 then s.modCoach k fun c => { c with ended := true, stop := .none }
  else if (s.party p).st = .ended then s
  else
    let s := s.faultRecord k cause info pc
    let s := s.modParty p fun x => { x with held := [] }
    (s.partyOver p true).cutFor p

/-- A coach ends (R126). The party ends with its last coach, which is a commit point (R328); a touch of a guard granule
that was never delivered ends the party with a fault record (R226). -/
def State.endCoach (s : State) (k : Nat) : State :=
  let c := s.coach k
  match c.spguard with
  | some info => s.partyFault k 0x11 info c.pc
  | none =>
    let s := s.putCoach k { c with ended := true, live := 0, stack := [], stop := .none, pend := none }
    let p := c.party
    if (s.party p).launch ≠ 0 ∧ (s.party p).coaches.all fun j => (s.coach j).ended then
      ((s.commitWork p true id).partyOver p false).cutFor p
    else s.tryArrive p

/-- The join step (R123): the coach with its stack and next address, or its end. -/
def State.joinStep (s : State) (k : Nat) : State × Option Dbl :=
  let c := s.coach k
  match joinLoop c.live (c.stack.drop 1) with
  | some (st, pc) => (s.putCoach k { c with stack := st }, some (pc.setWidth 64))
  | none => (s.endCoach k, none)

/-! Errors. -/

/-- Whether an operation's writes outlive its coach: direct stores and atomics, which no relaunch drops (R223, R328). -/
def Op.durable (o : Op) : Bool :=
  match o.kind with
  | .store _ _ => !o.held
  | .atomic _ _ => true
  | _ => false

/-- Everything in flight for a coach is forgotten, but for writes that are no longer the party's to drop. -/
def State.dropWork (s : State) (k : Nat) : State :=
  { s with
    ops := s.ops.filterMap fun o =>
      if o.coach = k then (if o.durable then some { o with fe := none } else none) else some o,
    walks := s.walks.filter (fun w => w.coach ≠ k), pageReqs := s.pageReqs.filter (fun r =>
      match s.op? r.op with | some o => o.coach ≠ k | none => true),
    monitors := s.monitors.filter fun m => m.2 ≠ k }

/-- A coach's entry is freed. -/
def State.freeCoach (s : State) (k : Nat) : State := (s.dropWork k).putCoach k Coach.blank

/-- What remains of a Courier command when its party is taken from the core: a durable write to memory goes on with the
scratchpad bytes that it had still to read (R328). -/
def Cmd.outlive (sram : List Host.Cell) (m : Cmd) : Option Cmd :=
  match m.kind, m.held with
  | .st, false =>
    match m.src with
    | .sp _ addr =>
      some { m with
        fe := none, got := (upto m.len).map fun j => (j, (m.got.find? fun e => e.1 = j).elim (mget sram (addr + j)) (·.2)) }
    | _ => none
  | .g, false => some { m with fe := none }
  | _, _ => none

/-- A party is taken from its core: engines, coaches, Courier commands. -/
def State.removeParty (s : State) (p : Nat) : State :=
  let x := s.party p
  let s := s.freeEngines p
  let s := s.modCore x.core fun c =>
    { c with courier := c.courier.filterMap fun m => if m.party = p then m.outlive c.sram else some m }
  x.coaches.foldl State.freeCoach s

/-- One party is dropped and waits to be created again, away from a core (R329). -/
def State.relaunchOne (s : State) (p core : Nat) : State :=
  let x := s.party p
  let s := s.removeParty p
  let s := match x.slot with
    | some i => s.modLaunch x.launch fun l => { l with slots := l.slots ++ [i] }
    | none => s
  s.putParty p { x with
    st := .pending, coaches := [], held := [], shapes := [], relaunches := x.relaunches + 1, relaunchable := true,
    replay := (match x.tile with | some t => [t] | none => []) ++ x.replay, tile := none, skip := x.ssteps, past := x.ssteps,
    sstep := none, avoid := some core, slot := none }

/-- The parties that are relaunched with p: its convoy (R329). -/
def State.convoyOf (s : State) (p : Nat) : List Nat :=
  if (s.party p).convoy.isEmpty then [p] else (s.party p).convoy

/-- A job whose error escalates is stopped until a rollback: none of its coaches issues, and none of its parties is placed (R329, R331,
R352). -/
def State.freezeJob (s : State) (asid : Nat) : State :=
  let s := s.modSnap asid fun n => { n with stopped := true }
  (tkeys s.coaches).foldl (fun s k =>
    if (s.coach k).present && (s.coach k).asid.toNat == asid && (s.party (s.coach k).party).launch != 0 then
      s.modCoach k fun c => { c with halted := true } else s) s

/-- A party that consumes an uncorrectable error is relaunched, or the error escalates to a rollback of its job (R329, R352). -/
def State.dropParty (s : State) (p : Nat) : State :=
  let x := s.party p
  let norl := tbit (nth (s.launch x.launch).doubles 0 0).toNat 1
  let all := s.convoyOf p
  let can := !norl && all.all fun q => (s.party q).relaunchable && (s.party q).relaunches < 3 || (s.party q).st == .ended
  if can then all.foldl (fun s q => if (s.party q).st = .ended then s else s.relaunchOne q x.core) s
  else s.freezeJob (s.launch x.launch).asid.toNat

/-- An uncorrectable error is consumed on behalf of a party by what coach entry k issued (R357): one error record, and the party is
dropped; a steward ends. -/
def State.consumeFor (s : State) (k p asid storage loc : Nat) (addr : Dbl) : State :=
  let s := s.errLog 2 storage loc (s.coachId k) addr 0 asid 0
  if (s.party p).launch = 0 then s.modCoach k fun c => { c with ended := true, stop := .none }
  else if (s.party p).st = .ended then s
  else s.dropParty p

/-- An uncorrectable error is consumed by a coach's syllable, engine or commit. -/
def State.consume (s : State) (k storage loc : Nat) (addr : Dbl) : State :=
  let c := s.coach k
  s.consumeFor k c.party c.asid.toNat storage loc addr

end Sys2Proof.Machine
end

