-- ==== Sys2Proof/Machine/Ops.lean ====
section
/-! DEFINITION. The named operations that every meaning uses: renaming (R131), reading registers at issue (R48),
results and the bypass latches (R44 to R50), completion flags (R54, R55), and taking and leaving a trap (R145 to
R152). -/

namespace Sys2Proof.Machine

/-! Renaming. -/

def rotVBase (r : Dbl) : Nat := dbits r 5 0
def rotVSize (r : Dbl) : Nat := dbits r 13 8
def rotSBase (r : Dbl) : Nat := dbits r 23 20
def rotSSize (r : Dbl) : Nat := dbits r 28 24

/-- The physical vector register of a code (R131). -/
def Coach.renV (c : Coach) (n : Nat) : Nat :=
  if 160 ≤ n ∧ n - 160 < rotVSize c.rotb then 160 + (n - 160 + rotVBase c.rotb) % rotVSize c.rotb else n

/-- The physical scalar register of a code (R131). -/
def Coach.renS (c : Coach) (n : Nat) : Nat :=
  if 48 ≤ n ∧ n - 48 < rotSSize c.rotb then 48 + (n - 48 + rotSBase c.rotb) % rotSSize c.rotb else n

/-! Reading at issue. A read returns the landed value; where an earlier bundle's write has not landed it is too early
and returns one of the values in between (R48), chosen freely. The value of an operation of variable latency is among them
once the operation has been performed, whether it has been counted or not (log 15). -/

/-- Whether a result under way is never seen: one of a later bundle before `seq` lands on it in the same cycle and prevails (R50). -/
def Coach.beaten (c : Coach) (seq : Nat) (f : Landing) (same : Write → Bool) : Bool :=
  f.fe.isNone && c.inflight.any fun g => g.fe.isNone && decide (f.seq < g.seq) && decide (g.seq < seq) && g.due == f.due && same g.w

/-- The results under way, oldest first, from bundles before `seq`, that a register or lane which `same` picks out will take. -/
def Coach.coming (c : Coach) (seq : Nat) (same : Write → Bool) : List Write :=
  (c.inflight.filter fun f => same f.w && decide (f.seq < seq) && !c.beaten seq f same).map (·.w)

/-- Whether a write gives vector register r in lane l. -/
def Write.givesV (r l : Nat) : Write → Bool
  | .vec q m _ => q == r && m.getLsbD l
  | _ => false

def Write.givesS (r : Nat) : Write → Bool
  | .scl q _ => q == r
  | _ => false

def Write.givesP (p l : Nat) : Write → Bool
  | .prd q m _ => q == p && m.getLsbD l
  | _ => false

def Write.givesH (h : Nat) : Write → Bool
  | .hnd q _ => q == h
  | _ => false

/-- The value that a write has for a lane of a vector register. -/
def Write.word (l : Nat) : Write → Word
  | .vec _ _ vs => nth vs l 0
  | _ => 0

/-- The value that a write puts into a scalar register or latch. -/
def Write.dbl : Write → Dbl
  | .scl _ v => v
  | .latC v => v
  | _ => 0

/-- The pending values of vector register r in lane l, oldest first, from bundles before `seq`. -/
def Coach.pendV (c : Coach) (seq r l : Nat) : List Word := (c.coming seq (Write.givesV r l)).map (Write.word l)

/-- What is known of an outstanding operation's writes: all of them once it is complete, else those of its performed parts. -/
def FlagEntry.known (e : FlagEntry) : List Write := if e.fin then e.ws else e.made

/-- What operations that are performed and not yet counted will write to vector register r in lane l. -/
def Coach.openV (c : Coach) (seq r l : Nat) : List Word :=
  (c.flags.filter fun e => e.seq < seq).flatMap fun e => (e.known.filter (Write.givesV r l)).map (Write.word l)

/-- A vector register in one lane. -/
def State.readV (s : State) (c : Coach) (r l : Nat) : Word :=
  choose s (64 * r + l) (sget 0 c.v (64 * r + l)) (c.pendV s.cur.seq r l ++ c.openV s.cur.seq r l)

def Coach.pendS (c : Coach) (seq r : Nat) : List Dbl := (c.coming seq (Write.givesS r)).map Write.dbl

def Coach.openS (c : Coach) (seq r : Nat) : List Dbl :=
  (c.flags.filter fun e => e.seq < seq).flatMap fun e => (e.known.filter (Write.givesS r)).map Write.dbl

/-- A scalar register; s0 reads 0 (R20). -/
def State.readS (s : State) (c : Coach) (r : Nat) : Dbl :=
  if r = 0 then 0
  else choose s (20000 + r) (sget 0 c.s r) (c.pendS s.cur.seq r ++ c.openS s.cur.seq r)

/-- The bit that a write has for a lane of a predicate. -/
def Write.bit (l : Nat) : Write → Bool
  | .prd _ _ b => b.getLsbD l
  | _ => false

/-- The pending values of predicate p in lane l. -/
def Coach.pendP (c : Coach) (seq p l : Nat) : List Bool := (c.coming seq (Write.givesP p l)).map (Write.bit l)

/-- What operations that are performed and not yet counted will write to predicate p in lane l. -/
def Coach.openP (c : Coach) (seq p l : Nat) : List Bool :=
  (c.flags.filter fun e => e.seq < seq).flatMap fun e => (e.known.filter (Write.givesP p l)).map (Write.bit l)

/-- A predicate, all lanes: each lane takes one of the values that the pending writes allow. -/
def State.readP (s : State) (c : Coach) (p : Nat) : Lanes :=
  let old := sget 0 c.p p
  if c.inflight.isEmpty && c.flags.isEmpty then old
  else
    (upto 64).foldl (fun m l =>
      if choose s (30000 + 64 * p + l) (old.getLsbD l) (c.pendP s.cur.seq p l ++ c.openP s.cur.seq p l) then m ||| (1 <<< l) else m) 0

/-- The image that a write has for a handle register. -/
def Write.image : Write → Handle
  | .hnd _ v => v
  | _ => Handle.blank

/-- A handle register. XLATE's write before it lands leaves one of two images to be read (R48). -/
def State.readH (s : State) (c : Coach) (h : Nat) : Handle :=
  choose s (40000 + h) (sget Handle.blank c.h h)
    ((c.coming s.cur.seq (Write.givesH h)).map (Write.image))

/-- The latch entry that a code names: the k-th most recent before this bundle (R44). -/
def latchAt (seq k : Nat) (ls : List Latch) : Option Latch := (ls.filter fun e => e.seq < seq)[k - 1]?

/-- A vector or memory latch in a lane: 0 with too few predecessors; before it lands, zero or its value. -/
def State.readLatV (s : State) (place : Nat) (ls : List Latch) (k l : Nat) : Word :=
  match latchAt s.cur.seq k ls with
  | none => 0
  | some e => if e.landed then nth e.vals l 0 else choose s (place + l) 0 [nth e.vals l 0]

/-- A scalar latch. -/
def State.readLatC (s : State) (c : Coach) (k : Nat) : Dbl :=
  match latchAt s.cur.seq k c.lat.c with
  | none => 0
  | some e => if e.landed then e.val else choose s (50000 + k) 0 [e.val]

/-- The lanes in which a guard holds (R57). -/
def State.guardLanes (s : State) (c : Coach) : Guard → Lanes
  | .always => BitVec.allOnes 64
  | .pred p neg => if neg then ~~~s.readP c p else s.readP c p

/-- The lanes that are live and on the current path. -/
def Coach.path (c : Coach) : Lanes := c.live &&& c.top

/-- The lanes where active() holds (R57). -/
def State.active (s : State) (c : Coach) (g : Guard) : Lanes := c.path &&& s.guardLanes c g

/-- The active lanes in ascending order. -/
def lanesOf (w : Nat) (m : Lanes) : List Nat := (upto w).filter fun l => m.getLsbD l

/-- The lowest active lane (R259). -/
def electedLane (w : Nat) (m : Lanes) : Nat := ((lanesOf w m).head?).getD 0

/-! Landing. -/

/-- Lanes of a register: new values where the mask holds. -/
def setLanes (t : Sparse Word) (r : Nat) (m : Lanes) (vs : List Word) : Sparse Word :=
  (upto 64).foldl (fun t l => if m.getLsbD l then sset 0 t (64 * r + l) (nth vs l 0) else t) t

/-- The system registers of a coach as SYSWR writes them (R153). -/
def Coach.setSys (c : Coach) (n : Nat) (v : Dbl) : Coach :=
  match n with
  | 0x00 => { c with fpmode := v }
  | 0x01 => { c with tvec := v }
  | 0x02 => { c with tcause := v }
  | 0x03 => { c with tinfo := v }
  | 0x04 => { c with trappc := v }
  | 0x06 => { c with tnext := v }
  | 0x07 => { c with dtbase := v }
  | 0x08 => { c with dtlen := v }
  | 0x09 => { c with lcnt := v }
  | 0x0A => { c with ecnt := v }
  | 0x0B => { c with lbody := v }
  | 0x0C => { c with rotb := v }
  | 0x0E => { c with tshsel := v }
  | _ => c

/-- A write lands. Writing s0 discards the value (R45). -/
def Coach.land (c : Coach) : Write → Coach
  | .vec r m vs => { c with v := setLanes c.v r m vs }
  | .scl r v => if r = 0 then c else { c with s := sset 0 c.s r v }
  | .prd p m b => { c with p := sset 0 c.p p ((sget 0 c.p p &&& ~~~m) ||| (b &&& m)) }
  | .hnd h v => { c with h := sset Handle.blank c.h h v }
  | .flags b => { c with fpmode := c.fpmode ||| (b.setWidth 64 <<< 8) }
  | .sys n v => c.setSys n v
  | .latV _ _ => c
  | .latC _ => c

def landLatch (id : Nat) (ls : List Latch) : List Latch :=
  ls.map fun e => if e.id = id then { e with landed := true } else e

/-- A latch entry has landed. -/
def Latches.land (t : Latches) (id : Nat) : Latches :=
  { v := landLatch id t.v, m := landLatch id t.m, c := landLatch id t.c }

/-- The lanes of what a write names that another write of the same register names too; all of a register that has no lanes. -/
def Write.hit (f r : Write) : Lanes :=
  match f, r with
  | .vec a _ _, .vec b m _ => if a = b then m else 0
  | .prd a _ _, .prd b m _ => if a = b then m else 0
  | .scl a _, .scl b _ => if a = b then BitVec.allOnes 64 else 0
  | .hnd a _, .hnd b _ => if a = b then BitVec.allOnes 64 else 0
  | _, _ => 0

/-- A write without some lanes; none if nothing of it is left. -/
def Write.less (m : Lanes) : Write → Option Write
  | .vec a n vs => if n &&& ~~~m = 0 then none else some (.vec a (n &&& ~~~m) vs)
  | .prd a n b => if n &&& ~~~m = 0 then none else some (.prd a (n &&& ~~~m) b)
  | .scl a v => if m = 0 then some (.scl a v) else none
  | .hnd a v => if m = 0 then some (.hnd a v) else none
  | w => some w

/-- What is left of a write of some bundle in a cycle in which later bundles' writes have landed (R50). -/
def Coach.prevails (c : Coach) (seq : Nat) (w : Write) : Option Write :=
  w.less ((c.landed.filter fun e => seq < e.1).foldl (fun m e => m ||| w.hit e.2) 0)

/-- A write of a bundle lands in the present cycle: where a later bundle's write has landed in it, that one stays (R50). -/
def Coach.landFrom (c : Coach) (seq : Nat) (w : Write) : Coach :=
  let d := match c.prevails seq w with
    | some x => c.land x
    | none => c
  { d with landed := (seq, w) :: c.landed }

/-- The latch entry of a result lands. -/
def Coach.landLat (c : Coach) : Option (Slot × Nat) → Coach
  | some (_, id) => { c with lat := c.lat.land id }
  | none => c

/-- The landing of one result in flight: register, then latch. -/
def Coach.landOne (c : Coach) (f : Landing) : Coach := (c.landFrom f.seq f.w).landLat f.lat

/-! Results of fixed latency. -/

/-- A result of this bundle that lands at a cycle. -/
def Coach.later (c : Coach) (due seq : Nat) (w : Write) (lat : Option (Slot × Nat)) : Coach :=
  { c with
    inflight := c.inflight ++ [{ id := c.fresh, due := due, early := due, seq := seq, w := w, lat := lat, fe := none }],
    fresh := c.fresh + 1 }

/-- A syllable enters its class's latch sequence (R44). At most four bundles back can be named. -/
def Coach.enter (c : Coach) (slot : Slot) (seq : Nat) (landed : Bool) (vals : List Word) (val : Dbl) : Coach × Nat :=
  let e : Latch := { id := c.fresh, seq := seq, landed := landed, vals := vals, val := val }
  let c := { c with fresh := c.fresh + 1 }
  match slot with
  | .v => ({ c with lat := { c.lat with v := (e :: c.lat.v).take 5 } }, e.id)
  | .m => ({ c with lat := { c.lat with m := (e :: c.lat.m).take 5 } }, e.id)
  | .x => (c, e.id)
  | .c => ({ c with lat := { c.lat with c := (e :: c.lat.c).take 5 } }, e.id)

/-- Values with zero in the lanes outside the mask. -/
def maskVals (m : Lanes) (vs : List Word) : List Word :=
  (upto vs.length).map fun l => if m.getLsbD l then nth vs l 0 else 0

/-- A V result (R44, R46): register, or latch alone. A syllable that no lane executes enters with zeros. -/
def Coach.vecResult (c : Coach) (due seq : Nat) (d : VDst) (m : Lanes) (vs : List Word) : Coach :=
  if m = 0 then (c.enter .v seq true [] 0).1
  else
    let (c, id) := c.enter .v seq false (maskVals m vs) 0
    match d with
    | .reg n => c.later due seq (.vec (c.renV n) m (maskVals m vs)) (some (.v, id))
    | .latch => c.later due seq (.latV m (maskVals m vs)) (some (.v, id))

/-- A scalar result of the C slot (R44, R45). -/
def Coach.sclResult (c : Coach) (due seq : Nat) (d : SDst) (v : Dbl) : Coach :=
  let (c, id) := c.enter .c seq false [] v
  match d with
  | .reg n => if n = 0 then c.later due seq (.latC v) (some (.c, id)) else c.later due seq (.scl (c.renS n) v) (some (.c, id))
  | .latch => c.later due seq (.latC v) (some (.c, id))

/-- A C syllable with a scalar destination that takes no effect still enters (R37, R44). -/
def Coach.sclSkip (c : Coach) (seq : Nat) : Coach := (c.enter .c seq true [] 0).1

/-- A predicate result in some lanes. -/
def Coach.prdResult (c : Coach) (due seq p : Nat) (m b : Lanes) : Coach :=
  if m = 0 then c else c.later due seq (.prd p m b) none

/-! Completion flags. -/

/-- The count of a flag (R54). -/
def Coach.count (c : Coach) (f : Nat) : Nat := (c.flags.filter fun e => e.f = f).length

/-- An operation is outstanding on a flag; `ws` are the writes it will make. -/
def Coach.openFlag (c : Coach) (f seq : Nat) (ws : List Write) (lat : Option Nat) : Coach × Nat :=
  ({ c with flags := c.flags ++ [{ id := c.fresh, f := f, seq := seq, fin := false, ws := ws, made := [], lat := lat }],
            fresh := c.fresh + 1 }, c.fresh)

/-- The finished operations at the head of a flag, oldest first, and the rest (R55). -/
def drainFlag (f : Nat) : List FlagEntry → List FlagEntry × List FlagEntry
  | [] => ([], [])
  | e :: es =>
    if e.f = f then
      if e.fin then ((e :: (drainFlag f es).1), (drainFlag f es).2) else ([], e :: es)
    else ((drainFlag f es).1, e :: (drainFlag f es).2)

/-- Counted operations land their results (R44, R55). -/
def Coach.landEntry (c : Coach) (e : FlagEntry) : Coach :=
  let c := e.ws.foldl (fun c w => c.landFrom e.seq w) c
  match e.lat with
  | some id => { c with lat := c.lat.land id, tlat := c.tlat.land id }
  | none => c

/-- Counts what can be counted on a flag. -/
def Coach.drain (c : Coach) (f : Nat) : Coach :=
  let (d, r) := drainFlag f c.flags
  d.foldl Coach.landEntry { c with flags := r }

/-- An operation that is complete as it issues, with its writes: it counts after its bundle, unless older ones are outstanding on
its flag (R46, R55). -/
def Coach.openDone (c : Coach) (f seq : Nat) (ws : List Write) : Coach :=
  { c with flags := c.flags ++ [{ id := c.fresh, f := f, seq := seq, fin := true, ws := ws, made := [], lat := none }],
           fresh := c.fresh + 1 }

def setLatchVals (id : Nat) (vals : List Word) (val : Dbl) (ls : List Latch) : List Latch :=
  ls.map fun e => if e.id = id then { e with vals := vals, val := val } else e

/-- The value that an outstanding operation will put into its latch. -/
def Coach.setLatch (c : Coach) (id : Nat) (vals : List Word) (val : Dbl) : Coach :=
  let fix (t : Latches) : Latches :=
    { v := setLatchVals id vals val t.v, m := setLatchVals id vals val t.m, c := setLatchVals id vals val t.c }
  { c with lat := fix c.lat, tlat := fix c.tlat }

/-- An operation is complete, with the values it writes; it counts when every older one on its flag has (R55). -/
def Coach.finish (c : Coach) (id : Nat) (ws : List Write) (vals : List Word) (val : Dbl) : Coach :=
  match c.flags.find? fun e => e.id = id with
  | none => c
  | some e =>
    let c := match e.lat with
      | some l => c.setLatch l vals val
      | none => c
    let c := { c with flags := c.flags.map fun (x : FlagEntry) => if x.id = id then { x with fin := true, ws := ws } else x }
    c.drain e.f

/-- Whether a write replaces a whole poisoned word of coach k, of width w (R357). -/
def Write.heals (k w : Nat) (x : Write) (p : Site) : Bool :=
  match x, p with
  | .vec r m _, .vreg q n l => q == k && n == r && m.getLsbD l
  | .scl r _, .sreg q n => q == k && n == r
  | .prd r m _, .preg q n => q == k && n == r && lanesBelow w &&& ~~~m == 0
  | .hnd r _, .hreg q n _ => q == k && n == r
  | .sys r _, .sys q n => q == k && n == r
  | _, _ => false

/-- The words that a write of coach k reaches. -/
def Write.sites (k w : Nat) : Write → List Site
  | .vec r m _ => ((upto w).filter m.getLsbD).map (.vreg k r)
  | .scl r _ => if r = 0 then [] else [.sreg k r]
  | .prd r _ _ => [.preg k r]
  | .hnd r _ => (upto 4).map (.hreg k r)
  | .sys r _ => [.sys k r]
  | .flags _ => [.sys k 0]
  | _ => []

/-- An error of a shadow record goes with its result into what the result writes (R357, log 94). -/
def State.unshadow (s : State) (k : Nat) (f : Landing) (ws : List Write) : State :=
  if !s.poison.contains (.shadow k f.id) then s
  else
    let w := (s.coach k).width
    let lat := match f.lat with
      | some (.c, id) => [Site.latch k id 0]
      | some (_, id) => (upto w).map (.latch k id)
      | none => []
    { s with poison := (s.poison.filter fun p => p != .shadow k f.id) ++ lat ++ ws.flatMap (Write.sites k w) }

/-- Writes that have landed leave good words. -/
def State.heal (s : State) (k : Nat) (ws : List Write) : State :=
  if s.poison.isEmpty then s
  else { s with poison := s.poison.filter fun p => !ws.any fun x => x.heals k (s.coach k).width p }

/-! Early overwrites of the sources of matrix operations (R282). -/

/-- The vector registers that an operation reads, in the order of its source words. -/
def MKind.sources : MKind → List Nat
  | .lodge _ rs => rs
  | .scale r _ => [r]
  | .wr _ rs _ _ => rs
  | _ => []

/-- The source words of an operation that a landing replaces, with their new values: of those that it names in a coach of `w` lanes, as a free
choice has it. -/
def State.replaces (s : State) (o : MOp) (w : Nat) (x : Write) : List (Nat × Word) :=
  (upto o.was.length).filterMap fun i =>
    if x.givesV (nth o.kind.sources (i / w) 256) (i % w) && s.pick (100000 * (o.id + 1) + i) 2 = 1 then some (i, x.word (i % w)) else none

/-- An operation with some source words replaced. -/
def MOp.with (o : MOp) (l : List (Nat × Word)) : MOp := { o with was := l.foldl (fun ws e => ws.set e.1 e.2) o.was }

/-- Word n of a wing's accumulators, written by an MWR that has started: in the accumulator, and in what MRDs have latched of it since. -/
def Wing.patchAcc (x : Wing) (start n : Nat) (v : Word) : Wing :=
  { x with
    acc := sset 0 x.acc n v,
    mrun := x.mrun.map fun r => match r.op.kind with
      | .rd a _ r0 nr _ =>
        let q := 1024 * a + 64 * r0
        if start < r.start && q ≤ n && n < q + 64 * nr then { r with words := r.words.set (n - q) v } else r
      | _ => r }

/-- A started operation that a landing overtakes before it is counted. -/
def Wing.patchRun (x : Wing) (r : MRun) (l : List (Nat × Word)) : Wing :=
  let y := { x with mrun := x.mrun.map fun q => if q.op.id = r.op.id then { q with op := q.op.with l } else q }
  match r.op.kind with
  | .wr a _ r0 _ => l.foldl (fun y e =>
      if r.rows.contains (r0 + e.1 / 64) then y.patchAcc r.start (1024 * a + 64 * r0 + e.1) e.2 else y) y
  | _ => y

/-- A vector write of coach k lands: the operations of its wing that it issued and that are not yet counted hold the old or the new value of
each source word that it names (R282). -/
def State.overtake (s : State) (k : Nat) (w : Write) : State :=
  let g := s.wing (wingOf k)
  let width := (s.coach k).width
  let mine (o : MOp) : Bool := o.coach == k && o.kind.sources.any fun r => (upto width).any fun l => w.givesV r l
  if !(g.mq.any mine || g.mrun.any fun r => mine r.op) then s
  else
    let x := { g with mq := g.mq.map fun o => if mine o then o.with (s.replaces o width w) else o }
    s.putWing (wingOf k) ((g.mrun.filter fun r => mine r.op).foldl (fun x r => x.patchRun r (s.replaces r.op width w)) x)

/-- Writes of coach k have landed: words are healed, and sources of matrix operations overtaken. -/
def State.noteLanded (s : State) (k : Nat) (ws : List Write) : State := ws.foldl (fun s w => s.overtake k w) (s.heal k ws)

/-- A flag entry of coach k is complete; what is counted with it lands. -/
def State.finishFlag (s : State) (k : Nat) (fe : Option Nat) (ws : List Write) (vals : List Word) (val : Dbl) : State :=
  match fe with
  | none => s
  | some id =>
    let t := s.modCoach k fun c => c.finish id ws vals val
    let left := (t.coach k).flags.map (·.id)
    t.noteLanded k (((s.coach k).flags.filter fun e => !left.contains e.id).flatMap fun e => if e.id = id then ws else e.ws)

/-- After a bundle, what was complete as it issued is counted and lands (R46, R55). -/
def State.countDone (s : State) (k : Nat) : State :=
  let c := s.coach k
  if c.flags.any (·.fin) then
    let t := s.putCoach k ((upto 16).foldl Coach.drain c)
    let left := (t.coach k).flags.map (·.id)
    t.noteLanded k ((c.flags.filter fun e => !left.contains e.id).flatMap (·.ws))
  else s

/-! Traps. -/

/-- A trap to be taken (R142, R143). -/
structure Trap where
  code : Nat
  slot : Nat
  hdr : Bool
  imp : Bool
  info : Dbl
  deriving DecidableEq, Repr

/-- TCAUSE (R143). -/
def Trap.cause (t : Trap) : Dbl := dnat (t.code + 256 * bnat t.imp + 512 * t.slot + 2048 * bnat t.hdr)

/-- A precise trap of a syllable. -/
def mkTrap (code slot : Nat) (info : Dbl) : Trap := { code := code, slot := slot, hdr := false, imp := false, info := info }

/-- ILLEGAL of a syllable: field and value (R142). -/
def illegal (slot field value : Nat) : Trap := mkTrap 0x01 slot (dnat (field + 256 * value))

/-- The address that follows a pending transfer's delay bundle, as TNEXT shows it (R144). -/
def Coach.pendAddr (c : Coach) : Option Pending → Option Dbl
  | none => none
  | some (.target a) => some a
  | some (.push _ _ a) => some a
  | some .join =>
    match joinLoop c.live (c.stack.drop 1) with
    | some (_, a) => some (a.setWidth 64)
    | none => some 0

/-- TNEXT for a pending transfer (R144, R145). -/
def Coach.tnextOf (c : Coach) (p : Option Pending) : Dbl :=
  match c.pendAddr p with
  | none => 0
  | some a => 0x8000000000000000#64 ||| a

/-- The routine that the launch's emulation table gives for a feature bit (R77, R85). -/
def State.emuRoutine (s : State) (k bit : Nat) : Option Dbl :=
  let l := s.launchOf k
  let emu := (nth l.doubles 8 0).toNat
  let cnt := min (nth l.doubles 9 0).toNat 65
  (upto cnt).findSome? fun i =>
    if (s.agentDbl l.asid.toNat (emu + 16 * i)).toNat % 65536 = bit then some (s.agentDbl l.asid.toNat (emu + 16 * i + 8))
    else none

/-- Reading the emulation table may send requests to the host (R207). -/
def State.noteEmu (s : State) (k : Nat) (t : Trap) : State :=
  let l := s.launchOf k
  let n := min (nth l.doubles 9 0).toNat 65
  if t.code = 0x02 ∧ n ≠ 0 then s.noteAgent l.asid.toNat (nth l.doubles 8 0).toNat (16 * n) false else s

/-- Splits results in flight at a freeze: those that land by F, and records with their remaining count (R145, R148,
R327). Variable-latency results go on. -/
def freezeRec (F : Nat) (f : Landing) : Landing := { f with due := min (f.due - F) 15, early := min (f.due - F) 15 }

/-- Whether a write is a SYSWR's. -/
def Write.isSys : Write → Bool
  | .sys _ _ => true
  | _ => false

/-- Results at a freeze: landed, variable-latency ones that go on, and shadow records. A SYSWR is never recorded (R148): the
register it wrote in the cycle before the freeze has its value (R134). -/
def Coach.freeze (c : Coach) (F : Nat) : Coach × List Landing :=
  let now (f : Landing) : Bool := decide (f.due ≤ F) || f.w.isSys
  let due := c.inflight.filter fun f => f.fe.isNone && now f
  let stay := c.inflight.filter fun f => f.fe.isSome
  let recs := (c.inflight.filter fun f => f.fe.isNone && !now f).map (freezeRec F)
  let c := (sortBy (fun f => f.due) due).foldl (fun (c : Coach) f => (c.land f.w).landLat f.lat) { c with inflight := stay }
  (c, sortBy (fun f => f.due) recs)

/-- System registers of a coach that are written whole hold no error (R357). -/
def State.healSys (s : State) (k : Nat) (ns : List Nat) : State :=
  if s.poison.isEmpty then s
  else { s with poison := s.poison.filter fun p => match p with | .sys q n => !(q == k && ns.contains n) | _ => true }

/-- A trap is taken by coach k at freeze cycle F, before the bundle at pc (R145, R147). -/
def State.enterTrap (s : State) (k : Nat) (t : Trap) (pc : Dbl) (F : Nat) : State :=
  let c := s.coach k
  let routine := if t.code = 0x02 then s.emuRoutine k t.info.toNat else none
  let s := s.noteEmu k t
  if c.intrap then s.partyFault k 0x80 (dnat t.code) pc
  else if c.tvec = 0 ∧ routine.isNone then s.partyFault k t.code t.info pc
  else
    let (c, recs) := c.freeze F
    (s.healSys k [2, 3, 4, 6]).putCoach k
      { c with
        trapset := recs, tlat := c.lat, lat := Latches.blank, tcause := t.cause, tinfo := t.info, trappc := pc,
        tnext := c.tnextOf c.pend, tpend := c.pend, pend := none, delayImg := none, intrap := true,
        emu := routine.isSome, tgap := c.next - F, pc := routine.getD c.tvec, next := F + 1, soft := none, stop := .none,
        exemptBp := false, exemptWatch := false, nomWrites := c.nomWrites.filter fun w => w.due.isNone,
        nom := 0, tnom := c.nom, tnomWrites := c.nomWrites.filter fun w => w.due.isSome }

/-- The bundle in execution traps: the trap is taken at its own cycle; `step` is R65's. -/
def State.trapNow (s : State) (k step : Nat) (t : Trap) : State :=
  (s.enterTrap k t s.cur.pc s.cur.cycle).setCur fun u => { u with status := .trapped step }

/-- A precise execution fault (step 6 of R65). -/
def raise (s : State) (k : Nat) (t : Trap) : Out := .next (s.trapNow k 6 t)

/-- A decode-level ILLEGAL found when the operands are read (step 2 of R65). -/
def raiseIllegal (s : State) (k slot field value : Nat) : Out := .next (s.trapNow k 2 (illegal slot field value))

/-- The bundle in execution is held (R198): it issues no earlier than the next cycle. -/
def hold (s : State) (k : Nat) : Out :=
  .next ((s.modCoach k fun c => { c with heldAt := some s.cur.cycle }).setCur fun u => { u with status := .held })

/-- The lanes of a handler's result that a shadow record overrides: a record prevails over every write of the handler
to its destination (R149). -/
def overridden (rs : List Landing) (f : Landing) : Option Landing :=
  let m := rs.foldl (fun m r => if f.due ≤ r.due then m else m ||| f.w.hit r.w) 0
  (f.w.less m).map fun w => { f with w := w }

/-- The return from a handler (R149, R152) with restart cycle u: the trap set is delivered, the program's latches come
back, and the bundle at TRAPPC follows, as a delay bundle when TNEXT is valid. -/
def Coach.leaveTrap (c : Coach) (u : Nat) : Coach :=
  let recs := c.trapset.map fun f => { f with due := u + f.due, early := u + f.due, seq := c.seq }
  let keep := c.inflight.filterMap fun f => if f.fe.isSome then some f else overridden recs f
  let addr : Dbl := c.tnext &&& 0x01FFFFFFFFFFFFFF#64
  let pend : Option Pending :=
    if c.tnext.getLsbD 63 then
      (if c.pendAddr c.tpend = some addr then c.tpend else some (.target addr))
    else none
  { c with
    intrap := false, emu := false, inflight := keep ++ recs, trapset := [], lat := c.tlat, tlat := Latches.blank,
    pc := c.trappc, pend := pend, tpend := none, next := u + c.tgap, tgap := 0,
    exemptBp := dbits c.tcause 7 0 == 0x0F && dbits c.tinfo 1 0 == 1, exemptWatch := dbits c.tcause 7 0 == 0x0E,
    nom := c.tnom, nomWrites := (c.nomWrites.filter fun w => w.due.isNone) ++ c.tnomWrites, tnom := 0, tnomWrites := [] }

/-- The handler's writes of fixed latency that RETT leaves in flight, in the program's nominal schedule: the restart, `u` in the
handler's schedule, is the program's next bundle (R51, R149). -/
def Coach.nomBack (c : Coach) (u : Nat) (ws : List NomWrite) : Coach :=
  { c with nomWrites := c.nomWrites ++ ws.filterMap fun w => match w.due with
      | some d => if u < d then some { w with due := some (c.nom + (d - u)) } else none
      | none => some w }

/-! The shape of a meaning. -/

/-- Runs for the coach of the bundle in execution; outside a bundle a syllable does nothing. -/
def onCoach (s : State) (f : Nat → Coach → Out) : Out :=
  match s.cur.coach with
  | none => .next s
  | some k => f k (s.coach k)

/-- The landing cycle of a fixed latency (R46). -/
def State.dueAt (s : State) (lat : Nat) : Nat := s.cur.cycle + lat

end Sys2Proof.Machine
end

