-- ==== Sys2Proof/Machine/Operands.lean ====
section
/-! DEFINITION. Every operand form: the value of a source code (R41, R42), and for each instruction the registers it
names by field, for the checks of R50, R51, R64 and R65 and the bank delay of R49. -/

namespace Sys2Proof.Machine

/-! Values. -/

/-- A source of vector kind in lane l. `kf` is the constant k in the operand's format. -/
def State.rdV (s : State) (c : Coach) (win : BitVec 2) (kf : Nat → Word) (l : Nat) : VSrc → Word
  | .reg n => s.readV c (c.renV n) l
  | .vb k => s.readLatV 60000 c.lat.v k l
  | .mb k => s.readLatV 61000 c.lat.m k l
  | .cb k => (s.readLatC c k).setWidth 32
  | .const k => kf k
  | .bcast k => (s.readS c (c.renS (16 * win.toNat + k))).setWidth 32
  | .lit w => w

/-- A source of vector kind, lanes 0 to W - 1. -/
def State.rdVs (s : State) (c : Coach) (win : BitVec 2) (kf : Nat → Word) (x : VSrc) : List Word :=
  (upto c.width).map fun l => s.rdV c win kf l x

/-- The constant k of an integer operand. -/
def intConst (k : Nat) : Word := BitVec.ofNat 32 k

/-- A vector source of the M class and of JTAB: window 0, integer constants. -/
def State.rdOff (s : State) (c : Coach) (l : Nat) (x : VSrc) : Word := s.rdV c 0 intConst l x

/-- A source of scalar kind. -/
def State.rdS (s : State) (c : Coach) : SSrc → Dbl
  | .reg n => s.readS c (c.renS n)
  | .cb k => s.readLatC c k
  | .const k => dnat k
  | .lit w => w.signExtend 64
  | .lit64 d => d

/-! Registers named. -/

/-- A register that a field names. Kinds: 0 vector, 1 scalar, 2 predicate, 3 handle, physical after renaming; 4, 5, 6 a
V, M or C latch by its place. -/
structure Use where
  field : Nat
  kind : Nat
  reg : Nat
  deriving DecidableEq, Repr

/-- What an instruction names: its slot, opcode and guard, reads in field order, destinations, its fixed latency if it
has one, its flag, and whether it enters a latch sequence (kind 4, 5 or 6). -/
structure Opnds where
  slot : Nat
  opc : Nat
  guard : Guard
  reads : List Use
  writes : List Use
  lat : Option Nat
  flag : Option Nat
  enters : Option Nat
  deriving DecidableEq, Repr

/-- A field of vector kind with n registers, each renamed on its own (R215). -/
def useV (c : Coach) (f : Nat) (win : BitVec 2) (n : Nat) : VSrc → List Use
  | .reg r => (upto n).map fun i => ⟨f, 0, c.renV (r + i)⟩
  | .vb k => [⟨f, 4, k⟩]
  | .mb k => [⟨f, 5, k⟩]
  | .cb k => [⟨f, 6, k⟩]
  | .bcast k => [⟨f, 1, c.renS (16 * win.toNat + k)⟩]
  | _ => []

def useVd (c : Coach) (n : Nat) : VDst → List Use
  | .reg r => (upto n).map fun i => ⟨2, 0, c.renV (r + i)⟩
  | .latch => []

def useS (c : Coach) (f : Nat) : SSrc → List Use
  | .reg r => [⟨f, 1, c.renS r⟩]
  | .cb k => [⟨f, 6, k⟩]
  | _ => []

def useSd (c : Coach) : SDst → List Use
  | .reg r => [⟨2, 1, c.renS r⟩]
  | .latch => []

def useG : Guard → List Use
  | .always => []
  | .pred p _ => [⟨1, 2, p⟩]

def prdUse (f p : Nat) : Use := ⟨f, 2, p⟩

/-- Registers r to r + n - 1, renamed. -/
def runUse (c : Coach) (f r n : Nat) : List Use := (upto n).map fun i => ⟨f, 0, c.renV (r + i)⟩

/-- The latency of a V opcode (R47). -/
def vLat (opc : Nat) : Nat := if opc < 0x20 then 2 else if opc < 0x40 then 4 else if opc < 0x50 then 12 else 6

/-- The fields common to all. -/
def mkOp (slot opc : Nat) (g : Guard) (reads writes : List Use) (lat flag enters : Option Nat) : Opnds :=
  { slot := slot, opc := opc, guard := g, reads := useG g ++ reads, writes := writes, lat := lat, flag := flag, enters := enters }

def opVBin (c : Coach) (opc : Nat) (o : VBin) : Opnds :=
  mkOp 0 opc o.g (useV c 3 o.win 1 o.a ++ useV c 4 o.win 1 o.b) (useVd c 1 o.d) (some (vLat opc)) none (some 4)
def opVUn (c : Coach) (opc : Nat) (o : VUn) : Opnds :=
  mkOp 0 opc o.g (useV c 3 o.win 1 o.a) (useVd c 1 o.d) (some (vLat opc)) none (some 4)
def opVTri (c : Coach) (opc : Nat) (o : VTri) : Opnds :=
  mkOp 0 opc o.g (useV c 3 o.win 1 o.a ++ useV c 4 o.win 1 o.b ++ useV c 6 o.win 1 o.c) (useVd c 1 o.d)
    (some (vLat opc)) none (some 4)
def opVSel (c : Coach) (opc : Nat) (o : VSel) : Opnds :=
  mkOp 0 opc o.g (useV c 3 o.win 1 o.a ++ useV c 4 o.win 1 o.b ++ [prdUse 6 o.pc]) (useVd c 1 o.d)
    (some (vLat opc)) none (some 4)
def opVLane (c : Coach) (opc : Nat) (o : VLane) : Opnds := mkOp 0 opc o.g [] (useVd c 1 o.d) (some 2) none (some 4)
def opVCmp (c : Coach) (opc : Nat) (o : VCmp) : Opnds :=
  mkOp 0 opc o.g (useV c 3 o.win 1 o.a ++ useV c 4 o.win 1 o.b) [prdUse 2 o.pd] (some (vLat opc)) none none
def opVChk (c : Coach) (opc : Nat) (o : VChk) : Opnds :=
  mkOp 0 opc o.g (useV c 3 o.win 1 o.a ++ useV c 4 o.win 1 o.b) [] none none none
def opVVote (c : Coach) (opc : Nat) (o : VVote) : Opnds :=
  mkOp 0 opc o.g (match o.a with | .vec a => useV c 3 o.win 1 a | .prd p => [prdUse 3 p]) [prdUse 2 o.pd] (some 6) none none
def opVBallot (c : Coach) (opc : Nat) (o : VBallot) : Opnds :=
  mkOp 0 opc o.g [prdUse 3 o.pa] (useVd c 1 o.d) (some 6) none (some 4)

/-- Registers of a load or store by opcode (R215). -/
def mRegs (opc : Nat) : Nat :=
  match opc with
  | 0x0B => 2
  | 0x0C => 4
  | 0x13 => 2
  | 0x14 => 4
  | 0x19 => 4
  | 0x1B => 4
  | _ => 1

def opMXlate (c : Coach) (opc : Nat) (o : MXlate) : Opnds :=
  mkOp 1 opc o.g (useS c 3 o.a ++ useS c 4 o.b) [⟨2, 3, o.hd⟩] (some 12) none none
def opMHrel (_c : Coach) (opc : Nat) (o : MHrel) : Opnds := mkOp 1 opc o.g [] [⟨2, 3, o.hd⟩] (some 1) none none
def opMPreq (_c : Coach) (opc : Nat) (o : MPreq) : Opnds := mkOp 1 opc o.g [⟨3, 3, o.ha⟩] [] none (some o.f) none
def opMLoad (c : Coach) (opc : Nat) (o : MLoad) : Opnds :=
  mkOp 1 opc o.g (useV c 3 0 1 o.a ++ [⟨4, 3, o.h⟩])
    (useVd c (mRegs opc) o.d ++ if o.rp then [prdUse 2 o.f] else []) none (some o.f) (some 5)
def opMStore (c : Coach) (opc : Nat) (o : MStore) : Opnds :=
  mkOp 1 opc o.g (⟨2, 3, o.h⟩ :: (useV c 3 0 1 o.a ++ useV c 4 0 (mRegs opc) o.b)) [] none (some o.f) none
def opMSpLoad (c : Coach) (opc : Nat) (o : MSpLoad) : Opnds :=
  mkOp 1 opc o.g (useV c 3 0 1 o.a) (useVd c (mRegs opc) o.d) none (some o.f) (some 5)
def opMSpStore (c : Coach) (opc : Nat) (o : MSpStore) : Opnds :=
  mkOp 1 opc o.g (useV c 3 0 1 o.a ++ useV c 4 0 (mRegs opc) o.b) [] none (some o.f) none
def opMCvLoad (c : Coach) (opc : Nat) (o : MCvLoad) : Opnds :=
  mkOp 1 opc o.g (useV c 3 0 1 o.a) (useVd c 1 o.d) none (some o.f) (some 5)
def opMCvStore (c : Coach) (opc : Nat) (o : MCvStore) : Opnds :=
  mkOp 1 opc o.g (useV c 3 0 1 o.a ++ useV c 4 0 1 o.b) [] none (some o.f) none
def opMGath (c : Coach) (opc : Nat) (o : MGath) : Opnds :=
  mkOp 1 opc o.g (useV c 3 0 1 o.a) (useVd c 1 o.d ++ if o.rp then [prdUse 2 o.f] else []) none (some o.f) (some 5)
def opMFence (_c : Coach) (opc : Nat) (o : MFence) : Opnds := mkOp 1 opc o.g [] [] none (some o.f) none
/-- The operand in D is read too (R222). -/
def opMAtom (c : Coach) (opc : Nat) (o : MAtom) : Opnds :=
  mkOp 1 opc o.g (⟨2, 0, c.renV o.d⟩ :: (useV c 3 0 1 o.a ++ [⟨4, 3, o.h⟩])) [⟨2, 0, c.renV o.d⟩] none (some o.f) (some 5)
def opMCas (c : Coach) (opc : Nat) (o : MCas) : Opnds :=
  mkOp 1 opc o.g (⟨2, 0, c.renV o.d⟩ :: (useV c 3 0 1 o.a ++ [⟨4, 3, o.h⟩] ++ useV c 6 0 1 o.c)) [⟨2, 0, c.renV o.d⟩]
    none (some o.f) (some 5)
def opMBar (c : Coach) (opc : Nat) (o : MBar) : Opnds := mkOp 1 opc o.g (useS c 3 o.a) [] none (some o.f) none
def opMArrive (c : Coach) (opc : Nat) (o : MArrive) : Opnds :=
  mkOp 1 opc o.g (useS c 3 o.a) (useSd c o.d) none (some o.f) (some 5)
def opMBarW (c : Coach) (opc : Nat) (o : MBarW) : Opnds := mkOp 1 opc o.g (useS c 3 o.a) [] none none none
def opMSstep (c : Coach) (opc : Nat) (o : MSstep) : Opnds := mkOp 1 opc o.g (useS c 3 o.a) [] none (some o.f) none

def opXTdesc (c : Coach) (opc : Nat) (o : XTdesc) : Opnds := mkOp 2 opc o.g (useS c 3 o.a ++ [⟨4, 3, o.h⟩]) [] none none none
/-- NDIM of a shape slot of the coach's party (R262). -/
def slotNdim (s : State) (c : Coach) (n : Nat) : Nat :=
  dbits (nth (sget Shape.blank (s.party c.party).shapes n).desc 0 0) 39 36

/-- The scalar registers from code n upward that hold a box's coordinates, as many as NDIM needs (R267); s0 stands for zeros. -/
def useCoords (s : State) (c : Coach) (n slot : Nat) : List Use :=
  if n = 0 then [⟨3, 1, 0⟩]
  else (upto ((slotNdim s c slot + 1) / 2)).filterMap fun i => if n + i ≤ 63 then some ⟨3, 1, c.renS (n + i)⟩ else none

def opXCopy (s : State) (c : Coach) (opc : Nat) (o : XCopy) : Opnds :=
  mkOp 2 opc o.g (useCoords s c o.a o.k ++ useS c 4 o.b) [] none (some o.f) none
/-- CPYG names its source slot in B; the destination's coordinates stand three registers further. -/
def opXCpyg (s : State) (c : Coach) (opc : Nat) (o : XCopy) : Opnds :=
  mkOp 2 opc o.g (useCoords s c o.a (dbits (s.rdS c o.b) 3 0) ++ useCoords s c (o.a + 3) o.k ++ useS c 4 o.b) [] none (some o.f) none
def opXPrefetch (s : State) (c : Coach) (opc : Nat) (o : XPrefetch) : Opnds :=
  mkOp 2 opc o.g (useCoords s c o.a o.k) [] none (some o.f) none
def opXSeal (c : Coach) (opc : Nat) (o : XSeal) : Opnds := mkOp 2 opc o.g [] (useSd c (.reg o.d)) none (some o.f) none
def opXCwait (c : Coach) (opc : Nat) (o : XCwait) : Opnds := mkOp 2 opc o.g (useS c 3 o.a) [] none none none
def opXLodge (c : Coach) (opc : Nat) (o : XLodge) : Opnds :=
  mkOp 2 opc o.g (runUse c 3 o.a (1536 / c.width)) [] none (some o.f) none
def opXStream (_c : Coach) (opc : Nat) (o : XStream) : Opnds := mkOp 2 opc o.g [] [] none (some o.f) none
def opXScale (c : Coach) (opc : Nat) (o : XScale) : Opnds :=
  mkOp 2 opc o.g (runUse c 3 o.a 1 ++ useS c 4 o.b) [] none (some o.f) none
def opXMzero (_c : Coach) (opc : Nat) (o : XMzero) : Opnds := mkOp 2 opc o.g [] [] none (some o.f) none
/-- The row selection of MRD and MWR (R296): first row and count, if it is in range. -/
def rowSel? (b : Dbl) : Option (Nat × Nat) :=
  let r := dbits b 3 0
  let n := dbits b 8 4
  if dbits b 63 9 = 0 ∧ 1 ≤ n ∧ r + n ≤ 16 then some (r, n) else none
/-- The run of MRD and MWR: 64 nr / W registers; the first alone if the selection is out of range. -/
def runRegs (c : Coach) (b : Dbl) : Nat := match rowSel? b with | some (_, n) => 64 * n / c.width | none => 1
def opXMrd (s : State) (c : Coach) (opc : Nat) (o : XMrd) : Opnds :=
  mkOp 2 opc o.g (useS c 4 o.b) (runUse c 2 o.d (runRegs c (s.rdS c o.b))) none (some o.f) none
def opXMwr (s : State) (c : Coach) (opc : Nat) (o : XMwr) : Opnds :=
  mkOp 2 opc o.g (runUse c 3 o.a (runRegs c (s.rdS c o.b)) ++ useS c 4 o.b) [] none (some o.f) none
def opXDtab (c : Coach) (opc : Nat) (o : XDtab) : Opnds := mkOp 2 opc o.g (useS c 3 o.a ++ useS c 4 o.b) [] none none none
def opXDgo (_c : Coach) (opc : Nat) (o : XDgo) : Opnds := mkOp 2 opc o.g [] [] none (some o.f) none
def opXDpop (c : Coach) (opc : Nat) (o : XDpop) : Opnds := mkOp 2 opc o.g [] (runUse c 2 o.d 1) none (some o.f) none
def opXDstat (c : Coach) (opc : Nat) (o : XDstat) : Opnds := mkOp 2 opc o.g [] (useSd c (.reg o.d)) none (some o.f) none

def opCBin (c : Coach) (opc : Nat) (o : CBin) : Opnds :=
  mkOp 3 opc o.g (useS c 3 o.a ++ useS c 4 o.b) (useSd c o.d) (some 1) none (some 6)
def opCUn (c : Coach) (opc : Nat) (o : CUn) : Opnds := mkOp 3 opc o.g (useS c 3 o.a) (useSd c o.d) (some 1) none (some 6)
def opCCmp (c : Coach) (opc : Nat) (o : CCmp) : Opnds :=
  mkOp 3 opc o.g (useS c 3 o.a ++ useS c 4 o.b) [prdUse 2 o.pd] (some 1) none none
def opCPredBin (_c : Coach) (opc : Nat) (o : CPredBin) : Opnds :=
  mkOp 3 opc o.g [prdUse 3 o.pa, prdUse 4 o.pb] [prdUse 2 o.pd] (some 1) none none
def opCPnot (_c : Coach) (opc : Nat) (o : CPnot) : Opnds := mkOp 3 opc o.g [prdUse 3 o.pa] [prdUse 2 o.pd] (some 1) none none
def opCP2s (c : Coach) (opc : Nat) (o : CP2s) : Opnds := mkOp 3 opc o.g [prdUse 3 o.pa] (useSd c o.d) (some 1) none (some 6)
def opCS2p (c : Coach) (opc : Nat) (o : CS2p) : Opnds := mkOp 3 opc o.g (useS c 3 o.a) [prdUse 2 o.pd] (some 1) none none
def opCChk (c : Coach) (opc : Nat) (o : CChk) : Opnds :=
  mkOp 3 opc o.g (match o.s with | .scalars a b => useS c 3 a ++ useS c 4 b | .preds a b => [prdUse 3 a, prdUse 4 b])
    [] none none none
def useT (c : Coach) : Target → List Use
  | .rel _ => []
  | .abs a => useS c 3 a
def opCBra (c : Coach) (opc : Nat) (o : CBra) : Opnds := mkOp 3 opc o.g (useT c o.t) [] none none none
def opCCall (c : Coach) (opc : Nat) (o : CCall) : Opnds := mkOp 3 opc o.g (useT c o.t) (useSd c o.d) (some 1) none (some 6)
def opCSrc (c : Coach) (opc : Nat) (o : CSrc) : Opnds := mkOp 3 opc o.g (useS c 3 o.a) [] none none none
def opCSrc2 (c : Coach) (opc : Nat) (o : CSrc2) : Opnds := mkOp 3 opc o.g (useS c 3 o.a ++ useS c 4 o.b) [] none none none
def opCJtab (c : Coach) (opc : Nat) (o : CJtab) : Opnds :=
  mkOp 3 opc .always (useV c 3 0 1 o.a) (match o.call with | some d => useSd c d | none => []) (some 1) none
    (o.call.map fun _ => 6)
/-- SPLIT's D is a predicate that is read (R109). -/
def opCSplit (_c : Coach) (opc : Nat) (o : CSplit) : Opnds := mkOp 3 opc .always [prdUse 2 o.p] [] none none none
def opAlone (opc : Nat) : Opnds := mkOp 3 opc .always [] [] none none none
def opCGuard (_c : Coach) (opc : Nat) (o : CGuard) : Opnds := mkOp 3 opc o.g [] [] none none none
/-- LSETUP writes the stage predicates, which are no destination field (R132). -/
def opCLsetup (c : Coach) (opc : Nat) (o : CLsetup) : Opnds := mkOp 3 opc .always (useS c 3 o.a ++ useS c 4 o.b) [] none none none
def opCWait (c : Coach) (opc : Nat) (o : CWait) : Opnds := mkOp 3 opc o.g (useS c 4 o.b) [] none none none
def opCMon (c : Coach) (opc : Nat) (o : CMon) : Opnds := mkOp 3 opc o.g (⟨3, 3, o.h⟩ :: useS c 4 o.b) [] none none none
def opCMwait (c : Coach) (opc : Nat) (o : CMwait) : Opnds := mkOp 3 opc o.g (useS c 3 o.a) (useSd c o.d) (some 1) none (some 6)
def opCSysrd (c : Coach) (opc : Nat) (o : CSysrd) : Opnds := mkOp 3 opc o.g [] (useSd c o.d) (some 1) none (some 6)
def opCSyswr (c : Coach) (opc : Nat) (o : CSyswr) : Opnds := mkOp 3 opc o.g (useS c 4 o.b) [] none none none
def opCMem (c : Coach) (opc : Nat) (o : CMem) : Opnds :=
  mkOp 3 opc o.g (⟨3, 3, o.h⟩ :: useS c 4 o.b) (useSd c (.reg o.d)) none (some o.f) (some 6)
def opCSnap (c : Coach) (opc : Nat) (o : CSnap) : Opnds :=
  mkOp 3 opc o.g (⟨3, 3, o.h⟩ :: useS c 4 o.b) (useSd c (.reg o.d)) none (some o.f) (some 6)
def opCNextTile (c : Coach) (opc : Nat) (o : CNextTile) : Opnds :=
  mkOp 3 opc o.g [] (useSd c (.reg o.d) ++ [prdUse 3 o.p, prdUse 3 (o.p + 1)]) (some 24) none (some 6)
def opCCommit (c : Coach) (opc : Nat) (o : CCommit) : Opnds := mkOp 3 opc o.g (useS c 3 o.a) [] none (some o.f) none
def opCSnapq (c : Coach) (opc : Nat) (o : CSnapq) : Opnds := mkOp 3 opc o.g [] (useSd c (.reg o.d)) none (some o.f) (some 6)
def opCTick (c : Coach) (opc : Nat) (o : CTick) : Opnds := mkOp 3 opc o.g [] (useSd c (.reg o.d)) (some 1) none (some 6)
def opCStatq (c : Coach) (opc : Nat) (o : CStatq) : Opnds := mkOp 3 opc o.g [] (useSd c (.reg o.d)) none (some o.f) (some 6)

/-- What an instruction names; nothing for an empty syllable, a header flag or an event. -/
def operands (s : State) (c : Coach) : Instr → Option Opnds
  | .nop _ _ => none
  | .rot => none
  | .lend => none
  | .iaddI32 o => some (opVBin c 0x01 o)
  | .isubI32 o => some (opVBin c 0x02 o)
  | .imulI32 o => some (opVBin c 0x03 o)
  | .imulhI32 o => some (opVBin c 0x04 o)
  | .imulhN32 o => some (opVBin c 0x05 o)
  | .imadI32 o => some (opVTri c 0x06 o)
  | .iminI32 o => some (opVBin c 0x07 o)
  | .imaxI32 o => some (opVBin c 0x08 o)
  | .iminN32 o => some (opVBin c 0x09 o)
  | .imaxN32 o => some (opVBin c 0x0A o)
  | .vAnd o => some (opVBin c 0x0B o)
  | .vOr o => some (opVBin c 0x0C o)
  | .vXor o => some (opVBin c 0x0D o)
  | .vShl o => some (opVBin c 0x0E o)
  | .shrN32 o => some (opVBin c 0x0F o)
  | .shrI32 o => some (opVBin c 0x10 o)
  | .vPopc o => some (opVUn c 0x11 o)
  | .vClz o => some (opVUn c 0x12 o)
  | .vBfx o => some (opVBin c 0x13 o)
  | .sel o => some (opVSel c 0x14 o)
  | .vMov o => some (opVUn c 0x15 o)
  | .idp4I8 o => some (opVTri c 0x16 o)
  | .idp4N8 o => some (opVTri c 0x17 o)
  | .laneid o => some (opVLane c 0x18 o)
  | .icmpI32 o => some (opVCmp c 0x19 o)
  | .icmpN32 o => some (opVCmp c 0x1A o)
  | .chkV o => some (opVChk c 0x1B o)
  | .faddF32 o => some (opVBin c 0x20 o)
  | .fsubF32 o => some (opVBin c 0x21 o)
  | .fmulF32 o => some (opVBin c 0x22 o)
  | .ffmaF32 o => some (opVTri c 0x23 o)
  | .fminF32 o => some (opVBin c 0x24 o)
  | .fmaxF32 o => some (opVBin c 0x25 o)
  | .fcmpF32 o => some (opVCmp c 0x26 o)
  | .frndF32 o => some (opVUn c 0x27 o)
  | .faddF16x2 o => some (opVBin c 0x28 o)
  | .fmulF16x2 o => some (opVBin c 0x29 o)
  | .ffmaF16x2 o => some (opVTri c 0x2A o)
  | .faddB16x2 o => some (opVBin c 0x2B o)
  | .fmulB16x2 o => some (opVBin c 0x2C o)
  | .ffmaB16x2 o => some (opVTri c 0x2D o)
  | .cvtF32I32 o => some (opVUn c 0x30 o)
  | .cvtF32N32 o => some (opVUn c 0x31 o)
  | .cvtI32F32 o => some (opVUn c 0x32 o)
  | .cvtN32F32 o => some (opVUn c 0x33 o)
  | .cvtF16x2F32 o => some (opVBin c 0x34 o)
  | .cvtB16x2F32 o => some (opVBin c 0x35 o)
  | .cvtF32F16 o => some (opVUn c 0x36 o)
  | .cvtF32B16 o => some (opVUn c 0x37 o)
  | .cvtE4m3x2F32 o => some (opVBin c 0x38 o)
  | .cvtE5m2x2F32 o => some (opVBin c 0x39 o)
  | .cvtF32E4m3 o => some (opVUn c 0x3A o)
  | .cvtF32E5m2 o => some (opVUn c 0x3B o)
  | .rcpF32 o => some (opVUn c 0x40 o)
  | .rsqF32 o => some (opVUn c 0x41 o)
  | .sqrtF32 o => some (opVUn c 0x42 o)
  | .exp2F32 o => some (opVUn c 0x43 o)
  | .log2F32 o => some (opVUn c 0x44 o)
  | .sinF32 o => some (opVUn c 0x45 o)
  | .cosF32 o => some (opVUn c 0x46 o)
  | .tanhF32 o => some (opVUn c 0x47 o)
  | .shflIdx o => some (opVBin c 0x50 o)
  | .shflUp o => some (opVBin c 0x51 o)
  | .shflDn o => some (opVBin c 0x52 o)
  | .shflXor o => some (opVBin c 0x53 o)
  | .voteAny o => some (opVVote c 0x54 o)
  | .voteAll o => some (opVVote c 0x55 o)
  | .ballot o => some (opVBallot c 0x56 o)
  | .redIadd o => some (opVUn c 0x57 o)
  | .redFaddF32 o => some (opVUn c 0x58 o)
  | .scanIadd o => some (opVUn c 0x59 o)
  | .blkqD8 o => some (opVUn c 0x5A o)
  | .blkqD4 o => some (opVUn c 0x5B o)
  | .xlate o => some (opMXlate c 0x01 o)
  | .hrel o => some (opMHrel c 0x02 o)
  | .preq o => some (opMPreq c 0x03 o)
  | .ldN8 o => some (opMLoad c 0x08 o)
  | .ldN16 o => some (opMLoad c 0x09 o)
  | .ldW o => some (opMLoad c 0x0A o)
  | .ldD o => some (opMLoad c 0x0B o)
  | .ldQ o => some (opMLoad c 0x0C o)
  | .stB o => some (opMStore c 0x10 o)
  | .stH o => some (opMStore c 0x11 o)
  | .stW o => some (opMStore c 0x12 o)
  | .stD o => some (opMStore c 0x13 o)
  | .stQ o => some (opMStore c 0x14 o)
  | .ldsW o => some (opMSpLoad c 0x18 o)
  | .ldsQ o => some (opMSpLoad c 0x19 o)
  | .stsW o => some (opMSpStore c 0x1A o)
  | .stsQ o => some (opMSpStore c 0x1B o)
  | .ldcW o => some (opMCvLoad c 0x1C o)
  | .stcW o => some (opMCvStore c 0x1D o)
  | .gathW o => some (opMGath c 0x1E o)
  | .ldaW o => some (opMLoad c 0x20 o)
  | .stlW o => some (opMStore c 0x21 o)
  | .fenceAcq o => some (opMFence c 0x28 o)
  | .fenceRel o => some (opMFence c 0x28 o)
  | .fenceFull o => some (opMFence c 0x28 o)
  | .aaddI32 o => some (opMAtom c 0x30 o)
  | .aaddF32 o => some (opMAtom c 0x31 o)
  | .aminI32 o => some (opMAtom c 0x32 o)
  | .amaxI32 o => some (opMAtom c 0x33 o)
  | .aand o => some (opMAtom c 0x34 o)
  | .aor o => some (opMAtom c 0x35 o)
  | .axchg o => some (opMAtom c 0x36 o)
  | .acas o => some (opMCas c 0x37 o)
  | .barinit o => some (opMBar c 0x40 o)
  | .arrive o => some (opMArrive c 0x41 o)
  | .arrivew o => some (opMBarW c 0x42 o)
  | .bwait o => some (opMBarW c 0x43 o)
  | .bexpect o => some (opMBar c 0x44 o)
  | .sstep o => some (opMSstep c 0x45 o)
  | .tdesc o => some (opXTdesc c 0x01 o)
  | .cpyLd o => some (opXCopy s c 0x02 o)
  | .cpySt o => some (opXCopy s c 0x02 o)
  | .cpym o => some (opXCopy s c 0x03 o)
  | .cpyg o => some (opXCpyg s c 0x04 o)
  | .cpyp o => some (opXPrefetch s c 0x05 o)
  | .seal o => some (opXSeal c 0x06 o)
  | .cwait o => some (opXCwait c 0x07 o)
  | .mlodge o => some (opXLodge c 0x10 o)
  | .mstream o => some (opXStream c 0x11 o)
  | .mscale o => some (opXScale c 0x12 o)
  | .mzero o => some (opXMzero c 0x13 o)
  | .mrd o => some (opXMrd s c 0x14 o)
  | .mwr o => some (opXMwr s c 0x15 o)
  | .dtab o => some (opXDtab c 0x20 o)
  | .dgo o => some (opXDgo c 0x21 o)
  | .dgoRs o => some (opXDgo c 0x21 o)
  | .dpop o => some (opXDpop c 0x22 o)
  | .dstat o => some (opXDstat c 0x23 o)
  | .add o => some (opCBin c 0x01 o)
  | .sub o => some (opCBin c 0x02 o)
  | .mul o => some (opCBin c 0x03 o)
  | .mulhI64 o => some (opCBin c 0x04 o)
  | .mulhN64 o => some (opCBin c 0x05 o)
  | .cAnd o => some (opCBin c 0x06 o)
  | .cOr o => some (opCBin c 0x07 o)
  | .cXor o => some (opCBin c 0x08 o)
  | .cShl o => some (opCBin c 0x09 o)
  | .shrN64 o => some (opCBin c 0x0A o)
  | .shrI64 o => some (opCBin c 0x0B o)
  | .minI64 o => some (opCBin c 0x0C o)
  | .maxI64 o => some (opCBin c 0x0D o)
  | .minN64 o => some (opCBin c 0x0E o)
  | .maxN64 o => some (opCBin c 0x0F o)
  | .cMov o => some (opCUn c 0x10 o)
  | .cPopc o => some (opCUn c 0x11 o)
  | .cClz o => some (opCUn c 0x12 o)
  | .cBfx o => some (opCBin c 0x13 o)
  | .scmpI64 o => some (opCCmp c 0x14 o)
  | .scmpN64 o => some (opCCmp c 0x15 o)
  | .pand o => some (opCPredBin c 0x18 o)
  | .por o => some (opCPredBin c 0x19 o)
  | .pxor o => some (opCPredBin c 0x1A o)
  | .pnot o => some (opCPnot c 0x1B o)
  | .p2s o => some (opCP2s c 0x1C o)
  | .s2p o => some (opCS2p c 0x1D o)
  | .chkS o => some (opCChk c 0x1E o)
  | .bra o => some (opCBra c 0x20 o)
  | .call o => some (opCCall c 0x21 o)
  | .ret o => some (opCSrc c 0x22 o)
  | .jtab o => some (opCJtab c 0x23 o)
  | .split o => some (opCSplit c 0x24 o)
  | .join => some (opAlone 0x25)
  | .exit o => some (opCGuard c 0x26 o)
  | .kill o => some (opCSrc c 0x27 o)
  | .lsetup o => some (opCLsetup c 0x2C o)
  | .wait o => some (opCWait c 0x30 o)
  | .mon o => some (opCMon c 0x31 o)
  | .mwait o => some (opCMwait c 0x32 o)
  | .yield o => some (opCSrc c 0x33 o)
  | .trap o => some (opCSrc c 0x38 o)
  | .rett => some (opAlone 0x39)
  | .sysrd o => some (opCSysrd c 0x3A o)
  | .syswr o => some (opCSyswr c 0x3B o)
  | .brk o => some (opCSrc c 0x3C o)
  | .brkStep o => some (opCSrc c 0x3C o)
  | .brkBset o => some (opCSrc2 c 0x3C o)
  | .brkWset o => some (opCSrc2 c 0x3C o)
  | .launch o => some (opCMem c 0x40 o)
  | .nexttile o => some (opCNextTile c 0x41 o)
  | .commit o => some (opCCommit c 0x42 o)
  | .snap o => some (opCSnap c 0x48 o)
  | .snapq o => some (opCSnapq c 0x49 o)
  | .rollin o => some (opCMem c 0x4A o)
  | .tick o => some (opCTick c 0x50 o)
  | .statq o => some (opCStatq c 0x51 o)
  | .resultLanding _ _ => none
  | .waitEnd _ => none
  | .mwaitWake _ => none
  | .mwaitTimeout _ => none
  | .yieldExpire _ => none
  | .stepTrap _ => none
  | .walkEnd _ => none
  | .memoryAccessComplete _ _ => none
  | .lossNoticeAck _ => none
  | .pageResponse _ _ => none
  | .commitDrainComplete _ _ => none
  | .preemptRequest _ => none
  | .preemptSave _ => none
  | .partyRestore _ => none
  | .tableMismatch _ => none
  | .partyPlace _ => none
  | .priorityPromote _ => none
  | .coachRelease _ => none
  | .launchDone _ => none
  | .tileChunkDeal _ _ => none
  | .superstepComplete _ _ _ => none
  | .courierChunkDelivery _ _ => none
  | .courierSourceRead _ _ => none
  | .courierCommandComplete _ => none
  | .batchComplete _ => none
  | .matrixOpStart _ => none
  | .mlodgeRendezvous _ => none
  | .matrixOpComplete _ _ => none
  | .mstarve _ => none
  | .droverIteration _ => none
  | .droverBeatArrival _ _ => none
  | .droverWalkEnd _ => none
  | .tcqTake => none
  | .context => none
  | .inval _ => none
  | .wbset _ => none
  | .presp => none
  | .release _ => none
  | .tcqCommandComplete => none
  | .atsInvalidation _ _ _ => none
  | .hostBarAccess _ => none
  | .refresh _ => none
  | .refreshAlert _ => none
  | .livegenWrite => none
  | .scrub _ => none
  | .waymarkArrival _ _ => none
  | .linkItemArrival _ _ => none
  | .cutDelayTimeout _ _ => none
  | .granuleDrain _ => none
  | .packageReport _ => none
  | .verdict _ => none
  | .rollbackNotice _ _ => none
  | .auth => none
  | .stopat => none
  | .dieStop _ => none
  | .scan => none
  | .resume => none
  | .dbgen => none
  | .lantern => none
  | .injrd => none
  | .injwr => none
  | .grantExpiry => none
  | .lanternSample _ => none
  | .lanternRecord _ => none
  | .injectorFire _ => none
  | .linkDown _ => none
  | .boot _ => none
  | .recoveryImageWrite _ _ => none
  | .negotiate => none
  | .configWrite _ _ => none
  | .kmqTake => none
  | .kgen => none
  | .kseal => none
  | .kimport => none
  | .kclear => none
  | .currentLimit _ _ => none
  | .thermalLimit _ => none
  | .junctionLimit _ => none
  | .ualinkTraining _ => none
  | .heartbeatTimeout _ _ => none
  | .wingReturnToService _ => none
  | .stewardRestart _ => none
  | .barProgramming _ _ _ _ => none

/-- The bank delay (R49) of distinct vector-register sources. -/
def bankDelay (u : List Use) : Nat :=
  let rs := dedup ((u.filter fun x => x.kind = 0 && x.field ≠ 2).map (·.reg))
  rs.length - (dedup (rs.map (· % 4))).length

/-- The landing cycle of a V result (R46): latency, bank delay, and 1 for a 64-lane coach. -/
def State.vDue (s : State) (c : Coach) (o : Opnds) : Nat :=
  s.cur.cycle + o.lat.getD 0 + bankDelay o.reads + (if c.width = 64 then 1 else 0)

end Sys2Proof.Machine
end

