-- ==== Sys2Proof/Machine/Fetch.lean ====
section
/-! DEFINITION. Instruction fetch through the core's instruction L1 (R90 to R92). -/

namespace Sys2Proof.Machine

/-- Bytes of a peer package's memory, which this package does not hold: any. -/
def freeBytes (s : State) (place n : Nat) : List Byte := (upto n).map fun i => (Config.freeWord s.freeCtr place i).setWidth 8

/-- The bytes at a place for a fetch or a table read: those of a peer or of nowhere are free. -/
def State.codeBytes (s : State) (p : Place) (n : Nat) : List Byte :=
  match p with
  | .home pa _ => s.physBytes pa n
  | .host ha => mgets s.host ha n
  | .sram c o => mgets (s.core c).sram o n
  | .peer _ _ => freeBytes s 70000 n
  | .nowhere => freeBytes s 70000 n

/-- What reading n bytes for a fetch or of a table leaves: in L2 and its counters, or with the host (R207, R210, R227, R229). -/
def State.readCode (s : State) (asid : Nat) (p : Place) (n va : Nat) : State :=
  match p with
  | .home pa enc => (s.fill asid pa enc n va).countDead pa
  | .host _ => s.hostRequest asid va false
  | _ => s

/-- The 8-byte words of a line that hold an uncorrectable error (R356). -/
def State.badCode (s : State) (p : Place) : BitVec 16 :=
  match p with
  | .home pa _ => (upto 16).foldl (fun m i => if s.poisoned (pa + 8 * i) 8 then m ||| (1#16 <<< i) else m) 0
  | _ => 0

/-- A line enters a die's instruction cache of 32,768 lines; which line leaves it when it is full is free (R91, log 1). -/
def State.fillDie (s : State) (d : Nat) (l : DLine) : State :=
  let full := (s.die d).icache
  let s := if full.length < 32768 then s else s.dropDLine d (nth full (s.pick 70100 full.length) l).pline
  s.modDie d fun x => { x with icache := l :: x.icache }

/-- A line enters its set of the instruction L1: 128 sets of four lines (R90); the set is named by the low bits of the virtual line
number, and which of four lines leaves is free (log 76). -/
def fillSet (l : ILine) (out : Nat) (ls : List ILine) : List ILine :=
  let set := ls.filter fun x => x.vline % 128 == l.vline % 128
  if set.length < 4 then l :: ls else l :: ls.erase (nth set (out % 4) l)

/-- The line of an address in the instruction L1 of the coach's core. -/
def State.iline? (s : State) (k va : Nat) : Option ILine :=
  (s.core (coreOf k)).icache.find? fun l => l.asid == (s.coach k).asid && l.vline == va / 128

/-- The 128-byte line of an address through the instruction L1 of the coach's core and its die's instruction cache; none if the page
lacks the execute right or cannot be translated. -/
def State.fetchLine (s : State) (k va : Nat) : Option (List Byte × State) :=
  let asid := (s.coach k).asid
  let core := coreOf k
  let die := dieOfCore core
  let vl := va / 128
  match s.iline? k va with
  | some l => some (l.bytes, s)
  | none =>
    let (w, s0) := s.walkVia die asid.toNat (vl * 128)
    let s1 := s0.logWalk w asid.toNat (vl * 128)
    if w.st = .valid ∧ w.rights.getLsbD 2 ∧ w.key = s.jobKey asid.toNat then
      let p := s.placeOf (!tbit va 56) w.peer w.enc w.pbase (vl * 128 % pageBytes w.size)
      let pl := p.key / 128
      let (x, s2) := match (s1.die die).icache.find? fun l => l.pline == pl with
        | some x => (x, s1)
        | none =>
          let s2 := s1.readCode asid.toNat p 128 (vl * 128)
          let x : DLine := { pline := pl, bytes := s2.codeBytes p 128, bad := s2.badCode p }
          (x, s2.fillDie die x)
      let l : ILine := { asid := asid, vline := vl, page := pageBytes w.size, pline := pl, bytes := x.bytes, bad := x.bad }
      some (x.bytes, s2.modCore core fun c => { c with icache := fillSet l (s.pick 70101 4) c.icache })
    else none

/-- A line that cannot be fetched leaves the record of its walk (R191, R213): of an address's line, or else of the next one. -/
def State.noteFailed (s : State) (k va : Nat) : State :=
  let log (s : State) (va : Nat) : State :=
    let asid := (s.coach k).asid.toNat
    let (w, s) := s.walkVia (dieOf k) asid (va / 128 * 128)
    s.logWalk w asid (va / 128 * 128)
  match s.fetchLine k va with
  | none => log s va
  | some (_, s1) => if (s1.fetchLine k ((va / 128 + 1) * 128)).isSome then s1 else log s1 ((va / 128 + 1) * 128)

/-- n bytes at an address, which lie in at most two lines. -/
def State.fetch (s : State) (k va n : Nat) : Option (List Byte × State) :=
  match s.fetchLine k va with
  | none => none
  | some (l1, s1) =>
    if va % 128 + n ≤ 128 then some ((l1.drop (va % 128)).take n, s1)
    else
      match s1.fetchLine k ((va / 128 + 1) * 128) with
      | none => none
      | some (l2, s2) => some ((l1.drop (va % 128) ++ l2).take n, s2)

/-- LITC of a header (R31). -/
def litcOf (h : Nat) : Nat := bits h 27 25

/-- The bytes of a bundle of which the first bytes are already held: 24, and its literal words. -/
def State.fetchBundle (s : State) (k va : Nat) (held : List Byte) : Option (List Byte × State) :=
  let get (s : State) (held : List Byte) (n : Nat) : Option (List Byte × State) :=
    if n ≤ held.length then some (held, s)
    else (s.fetch k (va + held.length) (n - held.length)).map fun r => (held ++ r.1, r.2)
  match get s held 24 with
  | none => none
  | some (bs, s1) =>
    let litc := litcOf (leNat (bs.take 4))
    if litc > 4 then some (bs, s1) else get s1 bs (24 + 4 * litc)

/-- The location of the first byte of n bytes of text whose word in the coach's L1 came with an uncorrectable error (R356): its physical
address where it has a home here, else its virtual one (log 94). -/
def State.badText (s : State) (k va n : Nat) : Option Nat :=
  let bad (i : Nat) : Bool := match s.iline? k (va + i) with
    | some l => l.bad.getLsbD ((va + i) % 128 / 8)
    | none => false
  if s.poison.isEmpty then none
  else ((upto n).find? bad).map fun i => match s.jobPlace (s.coach k).asid.toNat (va + i) with
    | .home pa _ => pa
    | _ => va + i

/-- Whether a line is still on its way to the L1: it is not there, and its fetch will not fault. -/
def State.lineAway (s : State) (k va : Nat) : Bool := (s.iline? k va).isNone && (s.fetchLine k va).isSome

/-- Whether the coach's next bundle has still to be fetched (R139). -/
def State.bundleAway (s : State) (k : Nat) : Bool :=
  let c := s.coach k
  let va := c.pc.toNat
  let held := c.delayImg.getD []
  let size (h : List Byte) : Nat := let n := litcOf (leNat (h.take 4)); if n > 4 then 24 else 24 + 4 * n
  if 4 ≤ held.length && size held ≤ held.length then false
  else if s.lineAway k va then true
  else
    match s.iline? k va with
    | none => false
    | some l =>
      let head := (l.bytes.drop (va % 128)).take 4
      128 < va % 128 + size head && s.lineAway k ((va / 128 + 1) * 128)

/-- The lines of the coach's next bundle arrive. -/
def State.fetchNext (s : State) (k : Nat) : State :=
  let c := s.coach k
  match s.fetchBundle k c.pc.toNat (c.delayImg.getD []) with
  | some r => r.2
  | none => s

end Sys2Proof.Machine
end

