-- ==== Sys2Proof/Machine/Scalar.lean ====
section
/-! DEFINITION. Scalar integer, compare, predicate and check syllables of the C slot (R108 to R116). -/

namespace Sys2Proof.Machine

/-- x clamped to [lo, hi]. -/
def clampInt (lo hi x : Int) : Int := if x < lo then lo else if hi < x then hi else x

/-- The signed bounds of 64 bits. -/
def minI64v : Int := -(2 ^ 63)
def maxI64v : Int := 2 ^ 63 - 1

/-- ADD by MOD (R110). -/
def addOp (m : BitVec 3) (a b : Dbl) : Dbl :=
  if m = 1 then BitVec.ofInt 64 (clampInt minI64v maxI64v (a.toInt + b.toInt))
  else if m = 2 then dnat (min (a.toNat + b.toNat) (2 ^ 64 - 1))
  else a + b

/-- SUB by MOD (R110). -/
def subOp (m : BitVec 3) (a b : Dbl) : Dbl :=
  if m = 1 then BitVec.ofInt 64 (clampInt minI64v maxI64v (a.toInt - b.toInt))
  else if m = 2 then dnat (a.toNat - b.toNat)
  else a - b

def mulOp (a b : Dbl) : Dbl := a * b
/-- The high half of the signed product: floor division by 2^64. -/
def mulhI64Op (a b : Dbl) : Dbl := BitVec.ofInt 64 ((a.toInt * b.toInt) / 2 ^ 64)
def mulhN64Op (a b : Dbl) : Dbl := dnat (a.toNat * b.toNat / 2 ^ 64)
def shlOp (a b : Dbl) : Dbl := if b.toNat < 64 then a <<< b.toNat else 0
def shrN64Op (a b : Dbl) : Dbl := if b.toNat < 64 then a >>> b.toNat else 0
def shrI64Op (a b : Dbl) : Dbl :=
  if b.toNat < 64 then a.sshiftRight b.toNat else if a.getLsbD 63 then BitVec.allOnes 64 else 0
def minI64Op (a b : Dbl) : Dbl := if a.toInt ≤ b.toInt then a else b
def maxI64Op (a b : Dbl) : Dbl := if a.toInt ≤ b.toInt then b else a
def minN64Op (a b : Dbl) : Dbl := if a.toNat ≤ b.toNat then a else b
def maxN64Op (a b : Dbl) : Dbl := if a.toNat ≤ b.toNat then b else a

/-- The number of ones among the low n bits. -/
def popcount (v : Nat) : Nat → Nat
  | 0 => 0
  | n + 1 => popcount v n + bnat (v.testBit n)

/-- The number of leading zeros of an n-bit value. -/
def leadingZeros (v : Nat) : Nat → Nat
  | 0 => 0
  | n + 1 => if v.testBit n then 0 else leadingZeros v n + 1

def popcOp (a : Dbl) : Dbl := dnat (popcount a.toNat 64)
def clzOp (a : Dbl) : Dbl := dnat (leadingZeros a.toNat 64)

/-- BFX on n bits (R111, R167): position, length, sign extension. -/
def bfxNat (n pos len : Nat) (sx : Bool) (a : Nat) : Nat :=
  let len := min len (n - pos)
  if len = 0 then 0
  else
    let z := a / 2 ^ pos % 2 ^ len
    if sx && z.testBit (len - 1) then z + 2 ^ n - 2 ^ len else z

/-- BFX (R111). -/
def bfxOp (sx : Bool) (a b : Dbl) : Dbl :=
  if dbits b 63 15 ≠ 0 ∨ dbits b 7 6 ≠ 0 then 0 else dnat (bfxNat 64 (dbits b 5 0) (dbits b 14 8) sx a.toNat)

/-! The shared forms. -/

/-- A C syllable with a scalar result (R108). -/
def cResult (s : State) (g : Guard) (d : SDst) (f : State → Coach → Dbl) : Out :=
  onCoach s fun k c =>
    if s.active c g = 0 then .next (s.putCoach k (c.sclSkip s.cur.seq))
    else .next (s.putCoach k (c.sclResult (s.dueAt 1) s.cur.seq d (f s c)))

def cBin (f : Dbl → Dbl → Dbl) (o : CBin) (s : State) : Out :=
  cResult s o.g o.d fun s c => f (s.rdS c o.a) (s.rdS c o.b)

def cUn (f : Dbl → Dbl) (o : CUn) (s : State) : Out := cResult s o.g o.d fun s c => f (s.rdS c o.a)

def execAdd (o : CBin) (s : State) : Out := cBin (addOp o.m) o s
def execSub (o : CBin) (s : State) : Out := cBin (subOp o.m) o s
def execMul (o : CBin) (s : State) : Out := cBin mulOp o s
def execMulhI64 (o : CBin) (s : State) : Out := cBin mulhI64Op o s
def execMulhN64 (o : CBin) (s : State) : Out := cBin mulhN64Op o s
def execCAnd (o : CBin) (s : State) : Out := cBin (· &&& ·) o s
def execCOr (o : CBin) (s : State) : Out := cBin (· ||| ·) o s
def execCXor (o : CBin) (s : State) : Out := cBin (· ^^^ ·) o s
def execCShl (o : CBin) (s : State) : Out := cBin shlOp o s
def execShrN64 (o : CBin) (s : State) : Out := cBin shrN64Op o s
def execShrI64 (o : CBin) (s : State) : Out := cBin shrI64Op o s
def execMinI64 (o : CBin) (s : State) : Out := cBin minI64Op o s
def execMaxI64 (o : CBin) (s : State) : Out := cBin maxI64Op o s
def execMinN64 (o : CBin) (s : State) : Out := cBin minN64Op o s
def execMaxN64 (o : CBin) (s : State) : Out := cBin maxN64Op o s
def execCMov (o : CUn) (s : State) : Out := cUn id o s
def execCPopc (o : CUn) (s : State) : Out := cUn popcOp o s
def execCClz (o : CUn) (s : State) : Out := cUn clzOp o s
def execCBfx (o : CBin) (s : State) : Out := cBin (bfxOp (o.m.getLsbD 0)) o s

/-! Compares and predicates. -/

/-- The integer conditions: EQ, NE, LT, LE, GT, GE (R109). -/
def intCond (cc : BitVec 3) (a b : Int) : Bool :=
  match cc.toNat with
  | 0 => a == b
  | 1 => a != b
  | 2 => a < b
  | 3 => a ≤ b
  | 4 => b < a
  | _ => b ≤ a

/-- All lanes, or none. -/
def allIf (b : Bool) : Lanes := if b then BitVec.allOnes 64 else 0

/-- A C syllable that writes a predicate in its active lanes (R108). -/
def cPred (s : State) (g : Guard) (p : Nat) (f : State → Coach → Lanes) : Out :=
  onCoach s fun k c =>
    .next (s.putCoach k (c.prdResult (s.dueAt 1) s.cur.seq p (s.active c g) (f s c)))

def execScmpI64 (o : CCmp) (s : State) : Out :=
  cPred s o.g o.pd fun s c => allIf (intCond o.cc (s.rdS c o.a).toInt (s.rdS c o.b).toInt)

def execScmpN64 (o : CCmp) (s : State) : Out :=
  cPred s o.g o.pd fun s c => allIf (intCond o.cc (s.rdS c o.a).toNat (s.rdS c o.b).toNat)

/-- A predicate source, negated under its MOD bit (R114). -/
def State.readNeg (s : State) (c : Coach) (p : Nat) (neg : Bool) : Lanes :=
  if neg then ~~~s.readP c p else s.readP c p

def predBin (f : Lanes → Lanes → Lanes) (o : CPredBin) (s : State) : Out :=
  cPred s o.g o.pd fun s c => f (s.readNeg c o.pa o.na) (s.readNeg c o.pb o.nb)

def execPand (o : CPredBin) (s : State) : Out := predBin (· &&& ·) o s
def execPor (o : CPredBin) (s : State) : Out := predBin (· ||| ·) o s
def execPxor (o : CPredBin) (s : State) : Out := predBin (· ^^^ ·) o s
def execPnot (o : CPnot) (s : State) : Out := cPred s o.g o.pd fun s c => ~~~s.readP c o.pa

/-- P2S (R115): the active lanes' bits. -/
def execP2s (o : CP2s) (s : State) : Out :=
  cResult s o.g o.d fun s c => s.readP c o.pa &&& s.active c o.g &&& lanesBelow c.width

/-- S2P (R115). -/
def execS2p (o : CS2p) (s : State) : Out := cPred s o.g o.pd fun s c => s.rdS c o.a

/-- The bits in which CHK.S's values differ (R116). -/
def chkDiff (s : State) (c : Coach) (g : Guard) : ChkSrc → Dbl
  | .scalars a b => s.rdS c a ^^^ s.rdS c b
  | .preds a b => (s.readP c a ^^^ s.readP c b) &&& s.active c g

/-- CHK.S (R116): CHKFAIL on any difference. -/
def execChkS (o : CChk) (s : State) : Out :=
  onCoach s fun k c =>
    if s.active c o.g = 0 ∨ chkDiff s c o.g o.s = 0 then .next s
    else raise s k (mkTrap 0x05 3 (chkDiff s c o.g o.s))

end Sys2Proof.Machine
end

