-- ==== Sys2Proof/Machine/Control.lean ====
section
/-! DEFINITION. Transfers, divergence, loops, waits and monitors (R117 to R138). -/

namespace Sys2Proof.Machine

/-- The address of the bundle that follows in memory (R30). -/
def Cur.seqPc (u : Cur) : Dbl := u.pc + dnat (24 + 4 * u.litc)

/-- Whether a transfer target is malformed (R118). -/
def badTarget (a : Dbl) : Bool := a.toNat % 4 != 0 || dbits a 63 57 != 0

/-- The target of a relative literal (R118). -/
def relTarget (s : State) (w : Word) : Dbl := s.cur.pc + w.signExtend 64

def State.target (s : State) (c : Coach) : Target → Dbl
  | .rel w => relTarget s w
  | .abs a => s.rdS c a

/-- A transfer is taken: its delay bundle follows (R119). -/
def takeTransfer (s : State) (k : Nat) (a : Dbl) : Out :=
  if badTarget a then raiseIllegal s k 3 3 a.toNat
  else .next (s.setCur fun u => { u with pend := some (.target a) })

/-- BRA (R117). -/
def execBra (o : CBra) (s : State) : Out :=
  onCoach s fun k c =>
    if s.active c o.g = 0 ∨ (o.all ∧ c.path &&& ~~~s.guardLanes c o.g ≠ 0) then .next s
    else takeTransfer s k (s.target c o.t)

/-- The delay bundle's image as far as it can be fetched, its return address, and the state; none if its header cannot
be fetched (R119). -/
def State.delayBundle (s : State) (k : Nat) : Option (List Byte × Dbl × State) :=
  let a := s.cur.seqPc
  match s.fetch k a.toNat 4 with
  | none => none
  | some (h, s1) =>
    let ret := a + dnat (24 + 4 * litcOf (leNat h))
    match s1.fetchBundle k a.toNat h with
    | some (bs, s2) => some (bs, ret, s2)
    | none => some (h, ret, s1)

/-- FETCH at a CALL or JTAB.CALL whose delay bundle's header cannot be fetched (R119). -/
def fetchTrap (a : Dbl) : Trap := mkTrap 0x08 3 a

/-- CALL (R119). -/
def execCall (o : CCall) (s : State) : Out :=
  onCoach s fun k c =>
    if s.active c o.g = 0 then .next (s.putCoach k (c.sclSkip s.cur.seq))
    else
      let a := s.target c o.t
      if badTarget a then raiseIllegal s k 3 3 a.toNat
      else
        match s.delayBundle k with
        | none => raise (s.noteFailed k s.cur.seqPc.toNat) k (fetchTrap s.cur.seqPc)
        | some (img, ret, s1) =>
          .next ((s1.modCoach k fun c =>
              { c.sclResult (s.dueAt 1) s.cur.seq o.d ret with delayImg := some img }).setCur fun u =>
            { u with pend := some (.target a) })

/-- RET (R118, R128): the join step on a matching dispatch path, else a transfer. -/
def execRet (o : CSrc) (s : State) : Out :=
  onCoach s fun k c =>
    if s.active c o.g = 0 then .next s
    else
      let a := s.rdS c o.a
      match c.stack with
      | t :: _ =>
        if t.dcall && t.dret.setWidth 64 == a then .next (s.setCur fun u => { u with pend := some .join })
        else takeTransfer s k a
      | [] => takeTransfer s k a

/-- The entries that a stack can hold (R122). -/
def Coach.stackRoom (c : Coach) (n : Nat) : Bool := c.stack.length + n ≤ 32 + c.spill

/-- RSTACK (R122, R125). -/
def rstack (n : Nat) : Trap := mkTrap 0x07 3 (dnat n)

/-- The address of an entry of the dispatch table. -/
def Coach.dtAddr (c : Coach) (i : Nat) : Nat := (c.dtbase.toNat + 8 * i) % 2 ^ 57

/-- An entry of the dispatch table, read whole (R127, R129). -/
def State.dtEntry (s : State) (c : Coach) (i : Nat) : Dbl :=
  BitVec.ofNat 64 (leNat (s.codeBytes (s.jobPlace c.asid.toNat (c.dtAddr i)) 8))

/-- What reading entries of the dispatch table leaves (R127): their walks' records (R191, R213), in L2 and its counters, or with the
host (R207). -/
def State.tableReads (s : State) (c : Coach) (is : List Nat) : State :=
  is.foldl (fun s i =>
    let va := c.dtAddr i
    let w := s.walk c.asid.toNat va
    (s.logWalk w c.asid.toNat va).readCode c.asid.toNat (s.jobPlace c.asid.toNat va) 8 va) s

/-- The address of an entry among these that holds an uncorrectable error (R357). -/
def State.tablePoison (s : State) (c : Coach) (is : List Nat) : Option Nat :=
  if s.poison.isEmpty then none
  else is.findSome? fun i => match s.jobPlace c.asid.toNat (c.dtAddr i) with
    | .home pa _ => if s.poisoned pa 8 then some pa else none
    | _ => none

/-- The distinct indices in ascending order. -/
def sortNat (l : List Nat) : List Nat := sortBy (fun n => n) (dedup l)

/-- The lanes that satisfy a test. -/
def lanesWhere (n : Nat) (f : Nat → Bool) : Lanes :=
  (upto n).foldl (fun m l => if f l then m ||| (1 <<< l) else m) 0

/-- JTAB (R127). A JTAB without a call does not wait for its delay bundle's header: FETCH then arises at the delay bundle, and the
rejoin address is that of the bundle which follows the delay bundle as it issues (R119). -/
def execJtab (o : CJtab) (s : State) : Out :=
  onCoach s fun k c =>
    let m := c.path
    if m = 0 then .next s
    else
      let lanes := (upto c.width).filter fun l => m.getLsbD l
      let idx (l : Nat) : Nat := (s.rdOff c l o.a).toNat
      match lanes.find? fun l => c.dtlen.toNat ≤ idx l with
      | some l => raise s k (mkTrap 0x06 3 (dnat (l + 2 ^ 32 * idx l)))
      | none =>
        let is := sortNat (lanes.map idx)
        let s := s.tableReads c is
        match s.tablePoison c is with
        | some pa => .next (s.consume k 5 pa s.cur.pc)
        | none =>
        match is.find? fun i => badTarget (s.dtEntry c i) with
        | some i => raiseIllegal s k 3 3 i
        | none =>
          if 1 < is.length && !c.stackRoom is.length then raise s k (rstack 1)
          else
            let t := s.dtEntry c (is.headD 0)
            let es (ret : Option Dbl) : List StackEntry := is.map fun i =>
              { mask := lanesWhere c.width (fun l => m.getLsbD l && idx l == i), pending := decide (i ≠ is.headD 0),
                dcall := ret.isSome, pc := if i = is.headD 0 then 0 else (s.dtEntry c i).setWidth 57,
                rpc := 0, dret := (ret.getD 0).setWidth 57 }
            let p (ret : Option Dbl) : Pending := if is.length = 1 then .target t else .push ret (es ret) t
            match o.call with
            | none => .next (s.setCur fun u => { u with pend := some (p none) })
            | some d =>
              match s.delayBundle k with
              | none => raise (s.noteFailed k s.cur.seqPc.toNat) k (fetchTrap s.cur.seqPc)
              | some (img, ret, s1) =>
                .next ((s1.modCoach k fun c => { c.sclResult (s.dueAt 1) s.cur.seq d ret with delayImg := some img }).setCur fun u =>
                  { u with pend := some (p (some ret)) })

/-- The rejoin address of the top entry. -/
def setRpc (a : Dbl) : List StackEntry → List StackEntry
  | [] => []
  | t :: ts => { t with rpc := a.setWidth 57 } :: ts

/-- SPLIT (R124). -/
def execSplit (o : CSplit) (s : State) : Out :=
  onCoach s fun k c =>
    if c.path = 0 then .next s
    else
      let els := relTarget s o.els
      let join := relTarget s o.join
      let tm := c.path &&& s.readNeg c o.p o.neg
      let em := c.path &&& ~~~tm
      let run (m : Lanes) : StackEntry := StackEntry.base m
      if badTarget els then raiseIllegal s k 3 3 els.toNat
      else if badTarget join then raiseIllegal s k 3 4 join.toNat
      else if !c.stackRoom (if tm ≠ 0 ∧ em ≠ 0 then 2 else 1) then raise s k (rstack 1)
      else
        let st := setRpc join c.stack
        if tm = 0 then
          .next ((s.putCoach k { c with stack := run em :: st }).setCur fun u => { u with npc := some els })
        else if em = 0 then
          .next ((s.putCoach k { c with stack := run tm :: st }).setCur fun u => { u with npc := some s.cur.seqPc })
        else
          .next ((s.putCoach k
              { c with stack := run tm :: { run em with pending := true, pc := els.setWidth 57 } :: st }).setCur fun u =>
            { u with npc := some s.cur.seqPc })

/-- The join step, whose bundle follows without a delay bundle (R123). -/
def State.doJoin (s : State) (k : Nat) : State :=
  let (s, a) := s.joinStep k
  s.setCur fun u => { u with npc := a, joined := true, pend := none }

/-- JOIN (R125). -/
def execJoin (s : State) : Out :=
  onCoach s fun k c =>
    if c.path = 0 then .next s
    else if c.stack.length ≤ 1 then raise s k (rstack 2)
    else .next (s.doJoin k)

/-- Lanes end (R126). -/
def State.endLanes (s : State) (k : Nat) (m : Lanes) : State :=
  let c := s.coach k
  let c := { c with live := c.live &&& ~~~m, stack := clearLanes m c.stack }
  let s := s.putCoach k c
  if c.path = 0 then s.doJoin k else s

/-- EXIT (R126). -/
def execExit (o : CGuard) (s : State) : Out :=
  onCoach s fun k c => if s.active c o.g = 0 then .next s else .next (s.endLanes k (s.active c o.g))

/-- KILL (R126): live lanes below W on any path. -/
def execKill (o : CSrc) (s : State) : Out :=
  onCoach s fun k c =>
    if s.active c o.g = 0 then .next s
    else .next (s.endLanes k (c.live &&& s.rdS c o.a &&& lanesBelow c.width))

/-- ECNT with its fields (R130). -/
def ecntOf (active : Bool) (n : Nat) : Dbl := dnat (bnat active * 2 ^ 63 + n)

/-- The four stage predicates land in every lane below W (R132, R133). -/
def Coach.stages (c : Coach) (due seq : Nat) (p8 p9 p10 p11 : Lanes) : Coach :=
  let m := lanesBelow c.width
  (((c.later due seq (.prd 8 m p8) none).later due seq (.prd 9 m p9) none).later due seq (.prd 10 m p10) none).later
    due seq (.prd 11 m p11) none

/-- LSETUP (R132). -/
def execLsetup (o : CLsetup) (s : State) : Out :=
  onCoach s fun k c =>
    if c.path = 0 then .next s
    else
      let n := (s.rdS c o.a).toNat
      let g := s.rdS c o.b
      if 2 ^ 32 < n then raise s k (illegal 3 3 n)
      else if dbits g 63 21 ≠ 0 ∨ dbits g 15 14 ≠ 0 ∨ dbits g 7 2 ≠ 0 ∨ 32 < dbits g 13 8 ∨ 16 < dbits g 20 16 then
        raise s k (illegal 3 4 g.toNat)
      else
        let c := { c with
          rotb := dnat (dbits g 13 8 * 2 ^ 8 + dbits g 20 16 * 2 ^ 24), lbody := s.cur.seqPc,
          lcnt := dnat (n - 1), ecnt := ecntOf true (if n = 0 then 0 else dbits g 1 0) }
        .next ((s.healSys k [9, 10, 11, 12]).putCoach k (c.stages (s.dueAt 1) s.cur.seq (allIf (n ≠ 0)) 0 0 0))

/-! Waits. -/

/-- A WAIT on flag f with n covers, in the nominal schedule, every operation of f but the n youngest, those of its own bundle among them
(R51, R135); one with 63 or more does not stop and covers none. -/
def Coach.coverNom (c : Coach) (f n : Nat) : Coach :=
  let ids := (c.nomWrites.filter fun w => w.kind = 9 && w.reg = f).map (·.fe)
  let old := if 63 ≤ n then [] else ids.take (ids.length - n)
  { c with nomWrites := c.nomWrites.filterMap fun w =>
      if old.contains w.fe && w.due.isNone then (if w.kind = 9 then none else some { w with covered := true }) else some w }

/-- WAIT (R135). -/
def execWait (o : CWait) (s : State) : Out :=
  onCoach s fun k c =>
    if s.active c o.g = 0 then .next s
    else
      let n := (s.rdS c o.b).toNat
      if 63 ≤ n then .next s else .next (s.putCoach k (c.stopOn (.wait o.f n)))

/-- Drops the coach's monitor from its slice. -/
def State.disarm (s : State) (k : Nat) : State := { s with monitors := s.monitors.filter fun m => m.2 ≠ k }

/-- The slice that holds a monitor on a place: the home slice, the host bridge, a peer (R136). -/
def monSlice : Place → Nat
  | .home pa _ => sliceOf pa
  | .host _ => 10000
  | _ => 10001

/-- Arms a monitor; the slice's oldest is lost when a 65th comes (R136). -/
def State.arm (s : State) (k h : Nat) (page : Nat × Nat) (p : Place) : State :=
  let s := s.disarm k
  let sl := monSlice p
  let here := s.monitors.filter fun m => m.1 = sl
  let s := if here.length < 64 then s else
    match here with
    | [] => s
    | m :: _ => (s.disarm m.2).modCoach m.2 fun c => { c with mon := .lost }
  let s := { s with monitors := s.monitors ++ [(sl, k)] }
  s.modCoach k fun c => { c with mon := .armed (p.key / 128) h false, monPage := page }

/-- HOVERRUN (R142). -/
def hoverrun (slot lane off : Nat) : Trap := mkTrap 0x09 slot (dnat (lane + 256 * off))

/-- PROT with a handle number and a missing-right code (R142). -/
def protTrap (slot h code : Nat) : Trap := mkTrap 0x0C slot (dnat (h + 256 * code))

/-- Whether the key of a valid handle grants access (R198 step 6): it is the job's, and its slot is loaded. Key 0 is that of stewards and
firmware, whose slot nothing loads (R209, R386): it needs none but for an encrypted page (log 81). -/
def State.keyOk (s : State) (c : Coach) (h : Handle) : Bool :=
  h.key == s.jobKey c.asid.toNat &&
    (h.key == 0 && !h.enc || (s.keys.any fun e => e.1 == h.key.toNat && e.2.asid == c.asid))

/-- Whether n bytes at an offset leave the page, or a valid handle's window (R198 steps 4 and 5). -/
def Handle.leaves (h : Handle) (off n : Nat) : Bool :=
  pageBytes h.size < off + n || (h.st == .valid && (off < h.lo.toNat || h.hi.toNat < off + n))

/-- MON (R136). -/
def execMon (o : CMon) (s : State) : Out :=
  onCoach s fun k c =>
    if s.active c o.g = 0 then .next s
    else
      let h := s.readH c o.h
      let e := (s.rdS c o.b).toNat
      let lane := electedLane c.width (s.active c o.g)
      let lose (s : State) : Out := .next ((s.disarm k).modCoach k fun c => { c with mon := .lost })
      match h.st with
      | .pending => hold s k
      | .empty => lose s
      | .poisoned => lose s
      | .absent => if h.leaves e 1 then raise s k (hoverrun 3 lane e) else lose s
      | .valid =>
        if h.leaves e 1 then raise s k (hoverrun 3 lane e)
        else if !s.keyOk c h then raise s k (protTrap 3 o.h 0x80)
        else if !h.rights.getLsbD 0 then raise s k (protTrap 3 o.h 0x01)
        else .next (s.arm k o.h (h.vbase.toNat, pageBytes h.size) (s.handlePlace h e))

/-- The reason with which an MWAIT would end at once, if any (R137). -/
def Monitor.reason : Monitor → Option Nat
  | .none => some 3
  | .lost => some 2
  | .armed _ _ true => some 0
  | .armed _ _ false => Option.none

/-- MWAIT (R137). -/
def execMwait (o : CMwait) (s : State) : Out :=
  onCoach s fun k c =>
    if s.active c o.g = 0 then .next (s.putCoach k (c.sclSkip s.cur.seq))
    else
      match c.mon.reason with
      | some r => .next ((s.disarm k).putCoach k { c.sclResult (s.dueAt 1) s.cur.seq o.d (dnat r) with mon := .none })
      | none =>
        let t := (s.rdS c o.a).toNat
        let (c, id) := c.enter .c s.cur.seq false [] 0
        let d : SDst := match o.d with | .reg n => .reg (c.renS n) | .latch => .latch
        .next (s.putCoach k (c.stopOn (.mwait (if t = 0 then none else some (s.tick + t)) d (some id) s.cur.seq)))

/-- An MWAIT stop ends with a reason at a cycle (R137). -/
def State.endMwait (s : State) (k reason : Nat) : State :=
  let c := s.coach k
  match c.stop with
  | .mwait _ d lat seq =>
    let now := s.now k
    let v := dnat reason
    let c := match lat with | some id => c.setLatch id [] v | none => c
    let w : Write := match d with | .reg n => if n = 0 then .latC v else .scl n v | .latch => .latC v
    let c := c.later (now + 1) seq w (lat.map fun id => (.c, id))
    (s.disarm k).putCoach k { c.wake (now + 1) with mon := .none }
  | _ => s

/-- YIELD (R138). -/
def execYield (o : CSrc) (s : State) : Out :=
  onCoach s fun k c =>
    if s.active c o.g = 0 then .next s
    else
      let n := min (s.rdS c o.a).toNat 65535
      if n = 0 then .next (s.putCoach k { c with waitCtr := 0 })
      else .next (s.putCoach k ({ c with waitCtr := 0 }.stopOn (.yield (s.cur.cycle + 1 + n))))

end Sys2Proof.Machine
end

