-- ==== Sys2Proof/Machine/Translation.lean ====
section
/-! DEFINITION. Translation: XLATE, HREL and PREQ, the end of a walk, page responses (R194 to R199), and the checks
that a syllable makes through its handles (R198). -/

namespace Sys2Proof.Machine

/-! The checks of R198. -/

/-- One lane's access through a handle. -/
structure LaneAcc where
  lane : Nat
  h : Nat
  off : Nat
  len : Nat
  deriving DecidableEq, Repr

/-- What the checks decide: to go on, to hold the bundle, or a trap. -/
inductive Chk where
  | ok
  | hold
  | trap (t : Trap)
  deriving DecidableEq, Repr

/-- The first of several checks that does not pass. -/
def Chk.orElse (a b : Chk) : Chk := match a with | .ok => b | _ => a

/-- Steps 1 to 3 for a handle (R198, R204). -/
def checkState (slot n : Nat) (h : Handle) : Chk :=
  match h.st with
  | .pending => .hold
  | .empty => .trap (mkTrap 0x0D slot (dnat n))
  | .poisoned => .trap (mkTrap 0x0B slot (dnat n))
  | _ => .ok

/-- Steps 1 to 3 for several handles, in ascending number. -/
def checkStates (s : State) (c : Coach) (slot : Nat) (ns : List Nat) : Chk :=
  (sortBy id (dedup ns)).foldl (fun r n => r.orElse (checkState slot n (s.readH c n))) .ok

/-- The missing-right code (R198 step 7). -/
def missing (need rights : BitVec 4) : Nat := (need &&& ~~~rights).toNat

/-- Steps 4 to 7 over the active lanes. HOVERRUN reports the lowest lane that fails step 4 or 5. -/
def checkLanes (s : State) (c : Coach) (slot : Nat) (need : BitVec 4) (as : List LaneAcc) : Chk :=
  match as.find? fun a => (s.readH c a.h).leaves a.off a.len with
  | some a => .trap (hoverrun slot a.lane a.off)
  | none =>
    let valid := as.filter fun a => (s.readH c a.h).st == .valid
    match valid.find? fun a => !s.keyOk c (s.readH c a.h) with
    | some a => .trap (protTrap slot a.h 0x80)
    | none =>
      match valid.find? fun a => missing need (s.readH c a.h).rights ≠ 0 with
      | some a => .trap (protTrap slot a.h (missing need (s.readH c a.h).rights))
      | none => .ok

/-- Steps 9 and 10, for a syllable that writes. -/
def checkWrite (s : State) (c : Coach) (slot : Nat) (as : List LaneAcc) : Chk :=
  match as.find? fun a => (s.readH c a.h).st == .absent with
  | some a => .trap (mkTrap 0x0A slot (dnat a.h))
  | none => if as.any fun a => (s.readH c a.h).wb then .hold else .ok

/-- Whether [a, a + n) and [start, start + len) meet. -/
def overlap (a n start len : Nat) : Bool := a < start + len && start < a + n

/-- The lanes that a watch comparator of the wing matches (R371): `kinds` has bit 0 for a read and bit 1 for a write;
each lane gives its address or scratchpad offset. -/
def State.watchLanes (s : State) (k : Nat) (c : Coach) (space : Bool) (kinds : BitVec 2) (as : List (Nat × Nat × Nat)) : Lanes :=
  if c.exemptWatch then 0
  else (s.wing (wingOf k)).watches.foldl (fun m e =>
    let w := e.2
    if w.space == space && w.asid == c.asid && (w.kind &&& kinds) != 0 then
      as.foldl (fun m a => if overlap a.2.1 a.2.2 w.start.toNat w.len.toNat then m ||| (1#64 <<< a.1) else m) m
    else m) 0

/-- WATCH (R371). -/
def checkWatch (s : State) (k : Nat) (c : Coach) (space : Bool) (kinds : BitVec 2) (as : List (Nat × Nat × Nat)) : Chk :=
  let m := s.watchLanes k c space kinds as
  if m = 0 then .ok else .trap (mkTrap 0x0E 1 m)

/-- The outcome of checks: the rest of the meaning, or a hold or trap of the bundle. -/
def withChk (s : State) (k : Nat) (r : Chk) (f : Out) : Out :=
  match r with
  | .ok => f
  | .hold => hold s k
  | .trap t => raise s k t

/-! XLATE. -/

/-- The valid image that the core's translation cache holds for an address (R195). -/
def State.cached? (s : State) (core : Nat) (asid : BitVec 16) (va : Nat) : Option Handle :=
  (s.core core).tcache.find? fun h => h.asid == asid && h.vbase.toNat ≤ va && va < h.vbase.toNat + pageBytes h.size

/-- A pending image (R193). -/
def pendingImage (va : Nat) (asid : BitVec 16) (walk : Nat) : Handle :=
  { Handle.blank with st := .pending, vbase := BitVec.ofNat 57 va, asid := asid, walk := walk }

/-- XLATE (R195). -/
def execXlate (o : MXlate) (s : State) : Out :=
  onCoach s fun k c =>
    if s.active c o.g = 0 then .next s
    else
      let va := (s.rdS c o.a).toNat
      let m := s.rdS c o.b
      if dbits m 63 4 ≠ 0 then raise s k (illegal 1 4 m.toNat)
      else if 2 ^ 57 ≤ va then raise s k (protTrap 1 o.hd 0x40)
      else
        match s.cached? (coreOf k) c.asid va with
        | some h =>
          let h := { h with rights := h.rights &&& m.setWidth 4, walk := va, mask := m.setWidth 4 }
          .next (s.putCoach k (c.later (s.dueAt 12) s.cur.seq (.hnd o.hd h) none))
        | none =>
          let (id, s1) := s.freshId
          let w : Walk := { id := id, coach := k, h := o.hd, va := BitVec.ofNat 57 va, mask := m.setWidth 4, asid := c.asid }
          .next ({ s1 with walks := s1.walks ++ [w] }.putCoach k
            (c.later (s.dueAt 12) s.cur.seq (.hnd o.hd (pendingImage va c.asid id)) none))

/-- A handle that awaits a walk takes its image. -/
def Handle.take (h : Handle) (id : Nat) (img : Handle) : Handle := if h.st = .pending ∧ h.walk = id then img else h

def Landing.takeWalk (id : Nat) (img : Handle) (f : Landing) : Landing :=
  match f.w with
  | .hnd n h => { f with w := .hnd n (h.take id img) }
  | _ => f

/-- The image reaches the register, or the result in flight, that awaits it (R195). -/
def Coach.takeWalk (c : Coach) (id : Nat) (img : Handle) : Coach :=
  { c with
    h := (upto 16).foldl (fun t n => sset Handle.blank t n ((sget Handle.blank t n).take id img)) c.h,
    inflight := c.inflight.map (Landing.takeWalk id img), trapset := c.trapset.map (Landing.takeWalk id img) }

/-- Whether a coach still awaits a walk. -/
def Coach.awaits (c : Coach) (id : Nat) : Bool :=
  let waits (h : Handle) : Bool := h.st == .pending && h.walk == id
  c.h.any (fun e => waits e.2) || (c.inflight ++ c.trapset).any fun f => match f.w with | .hnd _ h => waits h | _ => false

/-- WALK_END (R191, R195): the walk is made, its outcome logged and cached, and the handle takes it. -/
def execWalkEnd (walk : Nat) (s : State) : Out :=
  match s.walks.find? fun w => w.id = walk with
  | none => .next s
  | some w =>
    let va := w.va.toNat
    let (r, s) := s.walkVia (dieOf w.coach) w.asid.toNat va
    let s1 := { s with walks := s.walks.filter fun x => x.id ≠ walk }.logWalk r w.asid.toNat va
    let img := { r.handle w.asid va w.mask with walk := va, mask := w.mask }
    let core := coreOf w.coach
    let s2 :=
      if r.st = .valid then
        s1.modCore core fun x => { x with tcache := (r.handle w.asid va 0xF#4 :: x.tcache).take 512 }
      else s1
    .next (s2.modCoach w.coach fun c => c.takeWalk walk img).tickFree

/-- HREL (R196). A monitor armed through the handle is lost. -/
def execHrel (o : MHrel) (s : State) : Out :=
  onCoach s fun k c =>
    if s.active c o.g = 0 then .next s
    else
      let c := c.later (s.dueAt 1) s.cur.seq (.hnd o.hd Handle.blank) none
      match c.mon with
      | .armed _ h _ =>
        if h = o.hd then .next ((s.disarm k).putCoach k { c with mon := .lost }) else .next (s.putCoach k c)
      | _ => .next (s.putCoach k c)

/-! PREQ. -/

/-- The fields that every outstanding operation of the bundle in execution shares. -/
def State.newOp (s : State) (k : Nat) (c : Coach) (id : Nat) (kind : OpKind) (fe : Option Nat) : Op :=
  { id := id, coach := k, party := c.party, asid := c.asid, seq := s.cur.seq, addr := s.cur.pc, cycle := s.cur.cycle,
    kind := kind, pol := .dflt, lanes := 0, parts := [], fe := fe, held := false, moved := false,
    stamp := s.stampNow c.asid.toNat (dieOf k) c.party, left := s.stampNow c.asid.toNat (dieOf k) c.party, die := dieOf k }

/-- The request tags that are outstanding. -/
def State.tagFree (s : State) (t : Nat) : Bool := !s.pageReqs.any fun r => r.tag = t

/-- A fresh 16-bit tag (R197): the next that is not outstanding. -/
def State.freshTag (s : State) : Nat :=
  ((upto 65536).find? fun i => s.tagFree ((s.nextTag + i) % 65536)).map (fun i => (s.nextTag + i) % 65536) |>.getD (s.nextTag % 65536)

/-- The page-request record of a request (R208); whether the queue had room. -/
def State.postRequest (s : State) (r : PageReq) : State × Bool :=
  ringAppend (fun s a => s.agentDbl r.asid.toNat a) (fun s a ds => s.agentPut r.asid.toNat a ds)
    (fun s a w => s.noteAgent r.asid.toNat a 8 w) false s (s.job r.asid.toNat).pageq 32
    [dnat r.va, fld64 r.asid.toNat 48 ||| dnat r.tag, dnat r.tick, dnat (bnat r.wr)]

/-- Held requests are posted when the queue has room (R197). -/
def State.postHeld (s : State) : State :=
  s.pageReqs.foldl (fun s r =>
    if r.posted then s
    else
      let (t, ok) := s.postRequest r
      if ok then { t with pageReqs := t.pageReqs.map fun x => if x.op = r.op then { x with posted := true } else x } else s) s

/-- PREQ (R197). -/
def execPreq (o : MPreq) (s : State) : Out :=
  onCoach s fun k c =>
    if s.active c o.g = 0 then .next s
    else
      let h := s.readH c o.ha
      withChk s k (checkState 1 o.ha h) (
        if h.st = .valid ∧ (!o.w ∨ h.rights.getLsbD 1) then .next (s.putCoach k (c.openDone o.f s.cur.seq []))
        else
          let (c1, fe) := c.openFlag o.f s.cur.seq [] none
          let host := !tbit h.vbase.toNat 56
          let (id, s1) := (s.putCoach k c1).freshId
          let tag := s1.freshTag
          let op := s1.newOp k c id (.preq tag host o.w) (some fe)
          let r : PageReq := { tag := tag, tick := s.tick, op := id, va := h.vbase.toNat, wr := o.w, host := host, asid := c.asid, posted := host }
          let s2 := { s1 with ops := s1.ops ++ [op], pageReqs := s1.pageReqs ++ [r], nextTag := (tag + 1) % 65536 }
          .next s2.postHeld)

/-- A request is answered: its PREQ is counted complete (R197). -/
def State.answerRequest (s : State) (r : PageReq) : State :=
  let s := { s with pageReqs := s.pageReqs.filter fun x => x.op ≠ r.op }
  match s.op? r.op with
  | none => s
  | some o => (s.dropOp o.id).finishFlag o.coach o.fe [] [] 0

/-- PAGE_RESPONSE (R197): the host's answer to a host-half request, granted or refused. -/
def execPageResponse (req : Nat) (_granted : Bool) (s : State) : Out :=
  match s.pageReqs.find? fun r => r.tag = req && r.host with
  | none => .next s
  | some r => .next (s.answerRequest r)

end Sys2Proof.Machine
end

