-- ==== Sys2Proof/Machine/Access.lean ====
section
/-! DEFINITION. Loads, stores, atomics and scratchpad (R214 to R230), how each is performed at its home (R235, R236),
and its completion (R54). An access is issued as an outstanding operation of single-copy-atomic parts (R216); the event
MEMORY_ACCESS_COMPLETE performs one part. -/

namespace Sys2Proof.Machine

/-! Parts. -/

/-- The units of an access of n bytes at an offset (R216): position and length. -/
def unitSplit (off n : Nat) : List (Nat × Nat) :=
  if n ≤ 8 ∧ off % n = 0 then [(0, n)]
  else if n = 16 ∧ off % 16 = 0 then [(0, 8), (8, 8)]
  else (upto n).map fun i => (i, 1)

/-- A part not yet performed. -/
def Part.make (lane pos : Nat) (place : Place) (va len : Nat) (data : List Byte) : Part :=
  { lane := lane, pos := pos, place := place, va := va, len := len, data := data, ats := [], st := .todo, got := [],
    page := 1, asked := false }

/-- The parts of one lane's access; an absent page gives zeros without a request (R199). -/
def laneParts (s : State) (c : Coach) (a : LaneAcc) (data : List Byte) : List Part :=
  let h := s.readH c a.h
  let va := h.vbase.toNat + a.off
  (unitSplit a.off a.len).map fun (p, n) =>
    if h.st = .valid then
      { Part.make a.lane p (s.handlePlace h (a.off + p)) (va + p) n ((data.drop p).take n) with page := pageBytes h.size }
    else { Part.make a.lane p .nowhere (va + p) n [] with st := .fin, got := List.replicate n 0 }

/-- The part that reads n bytes of a control record through a handle. -/
def State.recordPart (s : State) (h : Handle) (off n : Nat) : Part :=
  { Part.make 0 0 (s.handlePlace h off) (h.vbase.toNat + off) n [] with page := pageBytes h.size }

def State.addOp (s : State) (o : Op) : State := { s with ops := s.ops ++ [o] }

/-! Issue. -/

/-- The physical registers of a vector destination (R215). -/
def destRegs (c : Coach) (n : Nat) : VDst → List Nat
  | .reg r => (upto n).map fun i => c.renV (r + i)
  | .latch => []

/-- A load takes effect: its flag, its latch entry, and the operation (R218). -/
def issueLoad (s : State) (k : Nat) (c : Coach) (m : Lanes) (regs : List Nat) (size f : Nat) (rp : Bool) (pol : Policy)
    (acq : Bool) (absent : Lanes) (parts : List Part) : State :=
  let zeros := List.replicate c.width (0 : Word)
  let (c1, lat) := c.enter .m s.cur.seq false zeros 0
  let ws := (if regs.isEmpty then [.latV m zeros] else regs.map fun r => Write.vec r m zeros) ++
    (if rp then [.prd f m 0] else [])
  let (c2, fe) := c1.openFlag f s.cur.seq ws (some lat)
  let (id, s1) := (s.putCoach k c2).freshId
  let o := s1.newOp k c id (.load regs size (if rp then some f else none) absent acq) (some fe)
  s1.addOp { o with pol := pol, lanes := m, parts := parts }

/-- A load that no lane executes still enters its latch sequence (R44). -/
def skipM (s : State) (k : Nat) (c : Coach) : Out := .next (s.putCoach k (c.enter .m s.cur.seq true [] 0).1)

/-- Addresses for the watch comparators. -/
def watchAccs (s : State) (c : Coach) (as : List LaneAcc) : List (Nat × Nat × Nat) :=
  as.map fun a => (a.lane, (s.readH c a.h).vbase.toNat + a.off, a.len)

/-- A load of `size` bytes through handles. -/
def loadThrough (s : State) (k : Nat) (c : Coach) (m : Lanes) (regs : List Nat) (size f : Nat) (rp : Bool) (pol : Policy)
    (acq : Bool) (as : List LaneAcc) : Out :=
  let chk := (checkStates s c 1 (as.map (·.h))).orElse ((checkLanes s c 1 1#4 as).orElse
    (checkWatch s k c false 1#2 (watchAccs s c as)))
  let absent := lanesWhere c.width fun l => as.any fun a => a.lane == l && (s.readH c a.h).st == .absent
  withChk s k chk
    (.next (issueLoad s k c m regs size f rp pol acq absent (as.flatMap fun a => laneParts s c a [])))

/-- LD.x and LDA.W. -/
def handleLoad (n size : Nat) (acq : Bool) (o : MLoad) (s : State) : Out :=
  onCoach s fun k c =>
    let m := s.active c o.g
    if m = 0 then skipM s k c
    else
      let as := (lanesOf c.width m).map fun l => LaneAcc.mk l o.h (s.rdOff c l o.a).toNat size
      loadThrough s k c m (destRegs c n o.d) size o.f o.rp o.pol acq as

def execLdN8 (o : MLoad) (s : State) : Out := handleLoad 1 1 false o s
def execLdN16 (o : MLoad) (s : State) : Out := handleLoad 1 2 false o s
def execLdW (o : MLoad) (s : State) : Out := handleLoad 1 4 false o s
def execLdD (o : MLoad) (s : State) : Out := handleLoad 2 8 false o s
def execLdQ (o : MLoad) (s : State) : Out := handleLoad 4 16 false o s
def execLdaW (o : MLoad) (s : State) : Out := handleLoad 1 4 true o s

/-- GATH.W: each lane names its handle in [31:28] (R216). -/
def execGathW (o : MGath) (s : State) : Out :=
  onCoach s fun k c =>
    let m := s.active c o.g
    if m = 0 then skipM s k c
    else
      let as := (lanesOf c.width m).map fun l =>
        let a := (s.rdOff c l o.a).toNat
        LaneAcc.mk l (a / 2 ^ 28) (a % 2 ^ 28) 4
      loadThrough s k c m (destRegs c 1 o.d) 4 o.f o.rp o.pol false as

/-- The words of a vector source of n registers in a lane, as bytes (R219). -/
def storeBytes (s : State) (c : Coach) (n size l : Nat) (b : VSrc) : List Byte :=
  ((upto n).flatMap fun i =>
    leBytes (s.rdOff c l (match b with | .reg r => .reg (r + i) | x => x)).toNat 4).take size

/-- Physical addresses that parts write, first and last. -/
def partEnds (ps : List Part) : List Nat :=
  ps.flatMap fun q =>
    match q.place with
    | .home pa _ => [pa, pa + q.len - 1]
    | _ => []

/-- Physical addresses that a Courier command has still to write. -/
def State.cmdEnds (s : State) (m : Cmd) : List Nat :=
  match m.dst with
  | .box _ _ _ => (upto m.len).filterMap fun j =>
      match s.sidePlace m.dst j with
      | .home pa _ => if m.sent.contains j then none else some pa
      | _ => none
  | _ => []

/-- The 32-byte sectors that a party's held stores reach, with new addresses about to be held (R338). -/
def State.heldSectors (s : State) (p : Nat) (new : List Nat) : Nat :=
  let pas := ((s.party p).held.map (·.pa)) ++ ((s.ops.filter fun o => o.party == p && o.held).flatMap fun o => partEnds o.parts) ++
    (((s.core (s.party p).core).courier.filter fun m => m.party == p && m.held).flatMap s.cmdEnds) ++ new
  (dedup (pas.map (· / 32))).length

/-- 192 KiB in sectors (R338). -/
def heldLimit : Nat := 6144

/-- Whether a place is beyond the package: a store there cannot be held (R221, R223). -/
def Place.outside : Place → Bool
  | .host _ => true
  | .peer _ _ => true
  | _ => false

/-- A store or atomic takes effect: commits first if it must (R223, R240, R338), then its flag and operation. -/
def issueWrite (s : State) (k : Nat) (c : Coach) (m : Lanes) (kind : OpKind) (f : Nat) (pol : Policy) (parts : List Part)
    (hard : Bool) (reg : Option Nat) : Out :=
  if hard && s.holdsHard c.party then hold s k
  else
    let s := if hard then s.commitHard c.party else s
    let zeros := List.replicate c.width (0 : Word)
    let (c1, lat) := match reg with
      | some _ => let (c1, id) := c.enter .m s.cur.seq false zeros 0; (c1, some id)
      | none => (c, none)
    let ws := match reg with | some r => [Write.vec r m zeros] | none => []
    let (c2, fe) := c1.openFlag f s.cur.seq ws lat
    let (id, s1) := (s.putCoach k c2).freshId
    let o := s1.newOp k c id kind (some fe)
    let x := s1.party c.party
    let held := match kind with | .store _ _ => x.launch != 0 && x.relaunchable | _ => false
    .next (s1.addOp { o with pol := pol, lanes := m, parts := parts, held := held })

/-- ST.x and STL.W through a handle. -/
def handleStore (n size : Nat) (rel : Bool) (o : MStore) (s : State) : Out :=
  onCoach s fun k c =>
    let m := s.active c o.g
    if m = 0 then .next s
    else
      let as := (lanesOf c.width m).map fun l => LaneAcc.mk l o.h (s.rdOff c l o.a).toNat size
      let chk := (checkStates s c 1 [o.h]).orElse ((checkLanes s c 1 2#4 as).orElse
        ((checkWatch s k c false 2#2 (watchAccs s c as)).orElse (checkWrite s c 1 as)))
      let parts := as.flatMap fun a => laneParts s c a (storeBytes s c n size a.lane o.b)
      let hard := rel || parts.any (fun p => p.place.outside) ||
        ((s.party c.party).relaunchable && heldLimit < s.heldSectors c.party (partEnds parts))
      withChk s k chk (issueWrite s k c m (.store size rel) o.f o.pol parts hard none)

def execStB (o : MStore) (s : State) : Out := handleStore 1 1 false o s
def execStH (o : MStore) (s : State) : Out := handleStore 1 2 false o s
def execStW (o : MStore) (s : State) : Out := handleStore 1 4 false o s
def execStD (o : MStore) (s : State) : Out := handleStore 2 8 false o s
def execStQ (o : MStore) (s : State) : Out := handleStore 4 16 false o s
def execStlW (o : MStore) (s : State) : Out := handleStore 1 4 true o s

/-! Atomics. -/

/-- The new value of the word (R222). -/
def atomOp (opc : Nat) (m v c : Word) : Word :=
  match opc with
  | 0x30 => m + v
  | 0x31 =>
    BitVec.ofNat 32 (f32.addOp .near false (f32.decode m.toNat) (f32.decode v.toNat)).1
  | 0x32 => if m.toInt ≤ v.toInt then m else v
  | 0x33 => if m.toInt ≤ v.toInt then v else m
  | 0x34 => m &&& v
  | 0x35 => m ||| v
  | 0x36 => v
  | _ => if m = c then v else m

/-- Atomics that PCI Express can carry (R223). -/
def hostAtom (opc : Nat) : Bool := opc == 0x30 || opc == 0x36 || opc == 0x37

/-- PROT of a host-half atomic that cannot be sent (R223). The function is function 0. -/
def checkHostAtom (s : State) (opc h : Nat) (ps : List Place) : Chk :=
  if ps.any (fun p => match p with | .host _ => true | _ => false) &&
      !(hostAtom opc && (sget BarFn.blank s.bars 0).atomicOp) then
    .trap (protTrap 1 h 0x08)
  else .ok

/-- The parts of an atomic: the lanes within one line of a home, here or at a peer, together; those for the host one by one. -/
def atomParts (page : Nat) (ls : List AtomLane) : List Part :=
  let mk (as : List AtomLane) : List Part :=
    match as with
    | [] => []
    | a :: _ => [{ Part.make a.lane 0 a.place a.va 4 [] with ats := as, page := page }]
  let atHome (a : AtomLane) : Bool := match a.place with | .host _ => false | _ => true
  let lines := dedup ((ls.filter atHome).map fun a => a.place.key / 128)
  (lines.flatMap fun x => mk (ls.filter fun a => atHome a && a.place.key / 128 == x)) ++
    (ls.filter fun a => !atHome a).flatMap fun a => mk [a]

/-- An atomic (R222, R223). -/
def handleAtomic (opc : Nat) (g : Guard) (d : Nat) (a : VSrc) (cmp : VSrc) (h f : Nat) (s : State) : Out :=
  onCoach s fun k c =>
    let m := s.active c g
    if m = 0 then skipM s k c
    else
      let hd := s.readH c h
      let as := (lanesOf c.width m).map fun l => LaneAcc.mk l h ((s.rdOff c l a).toNat / 4 * 4) 4
      let ls : List AtomLane := as.map fun x =>
        { lane := x.lane, place := s.handlePlace hd x.off, va := hd.vbase.toNat + x.off,
          v := s.readV c (c.renV d) x.lane, c := s.rdOff c x.lane cmp, old := 0 }
      let chk := (checkStates s c 1 [h]).orElse ((checkLanes s c 1 0xA#4 as).orElse
        ((checkHostAtom s opc h (ls.map (·.place))).orElse
          ((checkWatch s k c false 3#2 (watchAccs s c as)).orElse (checkWrite s c 1 as))))
      withChk s k chk
        (issueWrite s k c m (.atomic opc (c.renV d)) f .dflt (atomParts (pageBytes hd.size) ls) true (some (c.renV d)))

def execAaddI32 (o : MAtom) (s : State) : Out := handleAtomic 0x30 o.g o.d o.a (.const 0) o.h o.f s
def execAaddF32 (o : MAtom) (s : State) : Out := handleAtomic 0x31 o.g o.d o.a (.const 0) o.h o.f s
def execAminI32 (o : MAtom) (s : State) : Out := handleAtomic 0x32 o.g o.d o.a (.const 0) o.h o.f s
def execAmaxI32 (o : MAtom) (s : State) : Out := handleAtomic 0x33 o.g o.d o.a (.const 0) o.h o.f s
def execAand (o : MAtom) (s : State) : Out := handleAtomic 0x34 o.g o.d o.a (.const 0) o.h o.f s
def execAor (o : MAtom) (s : State) : Out := handleAtomic 0x35 o.g o.d o.a (.const 0) o.h o.f s
def execAxchg (o : MAtom) (s : State) : Out := handleAtomic 0x36 o.g o.d o.a (.const 0) o.h o.f s
def execAcas (o : MCas) (s : State) : Out := handleAtomic 0x37 o.g o.d o.a o.c o.h o.f s

/-! Scratchpad. -/

/-- The party whose allocation a convoy access reaches: member K, or none (R225). -/
def State.member? (s : State) (p K : Nat) : Option Nat :=
  let x := s.party p
  if x.convoy.isEmpty then (if K = 0 then some p else none) else x.convoy[K]?

/-- A coach's first touch of a guard granule is recorded (R226). -/
def Coach.touch (c : Coach) (info : Dbl) : Coach := if c.spguard.isSome then c else { c with spguard := some info }

/-- The SPGUARD record of a touch at a signed offset from an allocation base. -/
def guardInfo (base : Nat) (off : Int) : Dbl :=
  dnat ((((base : Int) + off) / 16 % 32).toNat + 256 * (off % 2 ^ 24).toNat)

/-- The record of a member number out of range. -/
def guardNoMember : Dbl := dnat (31 + 256 * 0xFFFFFF)

/-- Lanes of a scratchpad syllable with their signed offsets: those inside the allocation. -/
def insideLanes (size len : Nat) (as : List (Nat × Int)) : List (Nat × Nat) :=
  as.filterMap fun (l, o) => if 0 ≤ o ∧ o + len ≤ size then some (l, o.toNat) else none

/-- The record of the first lane that touches outside. -/
def touchOf (base size len : Nat) (as : List (Nat × Int)) : Option Dbl :=
  (as.find? fun a => !(decide (0 ≤ a.2) && decide (a.2 + (len : Int) ≤ (size : Int)))).map fun a => guardInfo base a.2

/-- A scratchpad syllable's target: core, allocation base and size; none if K names no member (R225). -/
def State.spTarget (s : State) (c : Coach) (K : Nat) : Option (Nat × Nat × Nat) :=
  (s.member? c.party K).map fun q => ((s.party q).core, (s.party q).base, (s.party q).size)

/-- The parts of lanes inside the allocation, and zeros for the others. -/
def spParts (core base len : Nat) (ins : List (Nat × Nat)) (all : List Nat) (data : Nat → List Byte) : List Part :=
  all.flatMap fun l =>
    match ins.find? fun a => a.1 = l with
    | some a => (unitSplit a.2 len).map fun (p, n) =>
        Part.make l p (.sram core (base + a.2 + p)) 0 n (((data l).drop p).take n)
    | none => [{ Part.make l 0 .nowhere 0 len [] with st := .fin, got := List.replicate len 0 }]

/-- What the scratchpad forms share: target, offsets, the watch check, the touch. -/
def spAccess (s : State) (k : Nat) (c : Coach) (K len : Nat) (a : VSrc) (m : Lanes) (kinds : BitVec 2)
    (f : Coach → Nat → Nat → List (Nat × Nat) → Out) : Out :=
  let ls := lanesOf c.width m
  match s.spTarget c K with
  | none => f (c.touch guardNoMember) 0 0 []
  | some (core, base, size) =>
    let as := ls.map fun l => (l, (s.rdOff c l a).toInt)
    let ins := insideLanes size len as
    withChk s k (checkWatch s k c true kinds (ins.map fun x => (x.1, x.2, len)))
      (f (match touchOf base size len as with | some i => c.touch i | none => c) core base ins)

/-- LDS and LDC. -/
def spLoad (n len K f : Nat) (g : Guard) (d : VDst) (a : VSrc) (s : State) : Out :=
  onCoach s fun k c =>
    let m := s.active c g
    if m = 0 then skipM s k c
    else
      spAccess s k c K len a m 1#2 fun c core base ins =>
        .next (issueLoad s k c m (destRegs c n d) len f false .dflt false 0
          (spParts core base len ins (lanesOf c.width m) fun _ => []))

/-- STS and STC. -/
def spStore (n len K f : Nat) (g : Guard) (a b : VSrc) (s : State) : Out :=
  onCoach s fun k c =>
    let m := s.active c g
    if m = 0 then .next s
    else
      spAccess s k c K len a m 2#2 fun c core base ins =>
        let (c1, fe) := c.openFlag f s.cur.seq [] none
        let (id, s1) := (s.putCoach k c1).freshId
        let o := s1.newOp k c id (.store len false) (some fe)
        .next (s1.addOp { o with
          lanes := m, parts := spParts core base len ins (ins.map (·.1)) fun l => storeBytes s c n len l b })

/-- The member number of the own party. -/
def State.ownK (s : State) : Nat :=
  match s.cur.coach with
  | some k => (s.party (s.coach k).party).k
  | none => 0

def execLdsW (o : MSpLoad) (s : State) : Out := spLoad 1 4 s.ownK o.f o.g o.d o.a s
def execLdsQ (o : MSpLoad) (s : State) : Out := spLoad 4 16 s.ownK o.f o.g o.d o.a s
def execStsW (o : MSpStore) (s : State) : Out := spStore 1 4 s.ownK o.f o.g o.a o.b s
def execStsQ (o : MSpStore) (s : State) : Out := spStore 4 16 s.ownK o.f o.g o.a o.b s
def execLdcW (o : MCvLoad) (s : State) : Out := spLoad 1 4 o.k o.f o.g o.d o.a s
def execStcW (o : MCvStore) (s : State) : Out := spStore 1 4 o.k o.f o.g o.a o.b s

end Sys2Proof.Machine
end

