-- ==== Sys2Proof/Machine/Perform.lean ====
section
/-! DEFINITION. How an outstanding access is performed: when it may be (R217, R235, R239 to R241, R334, R340), what
performing it does at its home (R220 to R222, R229, R235, R236, R336), the L1 (R236, R237), host-page counters (R207),
and completion. -/

namespace Sys2Proof.Machine

/-! The read-only L1. -/

/-- The words of n bytes at a place, as L1 numbers. -/
def l1Words (p : Place) (n : Nat) : List Nat := wordsTouched p.key n

/-- An L1 copy of words is dropped. -/
def State.l1Drop (s : State) (core : Nat) (ws : List Nat) : State :=
  if (s.core core).l1.any fun e => ws.contains e.1 then
    s.modCore core fun c => { c with l1 := c.l1.filter fun e => !ws.contains e.1 }
  else s

/-- An acquire drops every word that its core does not own (R237). -/
def State.selfInvalidate (s : State) (core : Nat) : State :=
  s.modCore core fun c => { c with l1 := c.l1.filter fun e => e.2.owned }

/-- An absent L1 word. -/
def L1Word.blank : L1Word := { val := 0, owned := false, fill := 0, asid := 0, base := 0, page := 1 }

/-- The bytes of L1 words. -/
def State.l1Bytes (s : State) (core : Nat) (p : Place) (n : Nat) : List Byte :=
  let ws := l1Words p n
  ((ws.flatMap fun w => leBytes (sget L1Word.blank (s.core core).l1 w).val.toNat 4).drop (p.key % 4)).take n

/-- Whether the L1 can serve a unit: it holds every word, from one fill, so that the unit is not torn (R234). -/
def State.l1Has (s : State) (core : Nat) (p : Place) (n : Nat) : Bool :=
  let l1 := (s.core core).l1
  let fill := ((l1Words p n).head?.bind fun w => l1.find? fun e => e.1 == w).map (·.2.fill)
  (l1Words p n).all fun w => l1.any fun e => e.1 == w && some e.2.fill == fill

/-- Whether some party of a core holds bytes of a word, or has committed bytes of it that are still on their way into the line: a
copy of the line would be older than them (R221, R236). -/
def State.heldOnCore (s : State) (core word : Nat) : Bool :=
  (s.parties.any fun e => e.2.core == core && e.2.held.any fun h => h.pa / 4 == word) ||
    s.commits.any fun c => (s.party c.party).core == core && c.bytes.any fun h => h.pa / 4 == word

/-- The value of a word that a load's line brings (R220): from the home or the host, or out of what a peer sent. -/
def State.lineWord (s : State) (p : Part) (w : Nat) : Option Word :=
  match p.place with
  | .home _ enc => if s.poisoned (4 * w) 4 then none else some (BitVec.ofNat 32 (leNat (s.plainRead (.home (4 * w) enc) 4)))
  | .host _ => some (BitVec.ofNat 32 (leNat (s.plainRead (.host (4 * w - 2 ^ 64)) 4)))
  | .peer _ _ =>
    if p.place.key ≤ 4 * w ∧ 4 * w + 4 ≤ p.place.key + p.len then
      some (BitVec.ofNat 32 (leNat ((p.got.drop (4 * w - p.place.key)).take 4)))
    else none
  | _ => none

/-- The words that an L1 share of 64 or 128 KiB holds (R21); which leave it is free (log 1). -/
def State.trimL1 (s : State) (share : Nat) (l : Sparse L1Word) : Sparse L1Word :=
  (upto (l.length - share * 256)).foldl (fun (l : Sparse L1Word) i => l.eraseIdx (s.pick (5200 + i) l.length)) l

/-- A load's line may be allocated: nothing, the words it read, or the line (R220). -/
def State.l1Allocate (s : State) (core : Nat) (o : Op) (p : Part) : State :=
  let line := p.place.key / 128
  let n := s.pick 5100 3
  let ws := if n = 0 then [] else if n = 1 then l1Words p.place p.len else (upto 32).map (· + line * 32)
  let s := match p.place with
    | .home _ enc => if n = 2 then s.fill o.asid.toNat (128 * line) enc 128 p.va else s
    | _ => s
  let new := (ws.filter fun w => !s.heldOnCore core w).filterMap fun w => (s.lineWord p w).map fun v =>
    (w, { val := v, owned := sget 0 s.owner w == core + 1, fill := s.nextId, asid := o.asid, base := p.va / p.page * p.page,
          page := p.page : L1Word })
  { s with nextId := s.nextId + 1 }.modCore core fun c => { c with l1 := s.trimL1 c.l1share (ssetAll L1Word.blank c.l1 new) }

/-- A store updates the L1 copy that the core holds, by the bytes it stores, and owns it (R236). -/
def State.l1Update (s : State) (core : Nat) (p : Place) (bs : List Byte) : State :=
  let old (w : Word) (j : Nat) : Byte := (w >>> (8 * j)).setWidth 8
  let upd (e : Nat × L1Word) : Nat × L1Word :=
    if (l1Words p bs.length).contains e.1 then
      let b (j : Nat) : Byte := if p.key ≤ 4 * e.1 + j then nth bs (4 * e.1 + j - p.key) (old e.2.val j) else old e.2.val j
      (e.1, { e.2 with val := BitVec.ofNat 32 (leNat ((upto 4).map b)), owned := true })
    else e
  s.modCore core fun c => { c with l1 := c.l1.map upd }

/-! Host pages (R207). -/

/-- Whether the request of a part is one that its syllable has still to send: one for each line (R227), and one for each lane of an
atomic (R223). -/
def Op.firstAsk (o : Op) (p : Part) : Bool :=
  !p.ats.isEmpty || !o.parts.any fun q => q.asked && q.place.key / 128 == p.place.key / 128

/-- Counts the request of a part (R207). -/
def State.countHost (s : State) (o : Op) (p : Part) (write : Bool) : State :=
  if o.firstAsk p then s.hostRequest o.asid.toNat p.va write else s

/-! Cuts and stamps. -/

/-- An access reaches a home whose epoch its stamp is new to: the home's die cuts first, unless its cut is delayed
(R333, R334). Answers the state and whether the access can be performed. -/
def State.stampOk (s : State) (asid die stamp : Nat) : State × Bool :=
  match stampOf (s.epochOf asid die) stamp with
  | .new =>
    if (s.cutOf asid die).delayed.isSome then (s, false)
    else
      let n := (s.job asid).snap
      let t := s.triggerCut asid die (if n.running then n.gen else n.latest + 1) n.full n.coord n.scb
      (t, !(t.cutOf asid die).delayed.isSome)
  | _ => (s, true)

/-- Whether an item is old at a home (R336). -/
def State.isOld (s : State) (asid die stamp : Nat) : Bool := stampOf (s.epochOf asid die) stamp == .old

/-- The address under which this package maps a granule's byte (R339, R345). -/
def State.mappedVa (s : State) (asid pa : Nat) : Nat := s.granuleVa asid (pa / 65536) + pa % 65536

/-- An exempt access to a granule written since its home's cut marks the generation crossed (R334); what the coordinator package has
not been told, SNAPQ does not yet show (R350). -/
def State.markCross (s : State) (asid pa stamp : Nat) (exempt : Bool) : State :=
  if exempt && s.isOld asid (homeDie pa) stamp && (s.granule asid (pa / 65536)).d then
    s.modSnap asid fun n => if n.coord = (s.job asid).pkg then { n with cross := true } else { n with crossed := true }
  else s

/-- The epoch that an access carries to a home on a die: that of its issue on its own die, that with which its items left on others
(R332). -/
def Op.stampAt (o : Op) (die : Nat) : Nat := if die = o.die then o.stamp else o.left

/-- An answer from a home on one die comes to another for a party (R333): a new one cuts the die that it comes to, and waits while that
cut is delayed, but for a non-relaunchable party (R334). -/
def State.answerCrosses (s : State) (asid home die p : Nat) : State × Bool :=
  if home = die then (s, true)
  else
    let (t, ok) := s.stampOk asid die (s.epochOf asid home)
    (t, ok || s.exempts p)

/-- Part i of an operation has been performed at a home on a die, and its answer is an item. -/
def State.answerPart (s : State) (o : Op) (i : Nat) (p : Part) (home : Nat) : State :=
  let (s, ok) := s.answerCrosses o.asid.toNat home o.die o.party
  s.modOp o.id fun q => { q with parts := q.parts.set i { p with st := if ok then .fin else .answered } }

/-! When a part may be performed. -/

/-- Whether two byte ranges of places meet. -/
def meets (a : Place) (n : Nat) (b : Place) (m : Nat) : Bool :=
  a != .nowhere && b != .nowhere && overlap a.key n b.key m

/-- Bytes that a part touches: an atomic's lanes each touch a word. -/
def Part.touches (p q : Part) : Bool :=
  let ranges (x : Part) : List (Place × Nat) := if x.ats.isEmpty then [(x.place, x.len)] else x.ats.map fun a => (a.place, 4)
  (ranges p).any fun a => (ranges q).any fun b => meets a.1 a.2 b.1 b.2

def Part.open (p : Part) : Bool := p.st != .fin

/-- Whether an operation has been performed wholly. -/
def Op.performed (o : Op) : Bool := o.parts.all fun p => p.st == .fin

/-- The operations that a coach issued before one of them, and that are outstanding. -/
def State.olderOps (s : State) (o : Op) : List Op := s.ops.filter fun q => q.coach == o.coach && q.id < o.id

/-- Which later operations an outstanding acquire, atomic or fence holds (R232, R239, R241). A release store holds the acquire loads
behind it, so that synchronisation accesses keep their order (R233). -/
def blocks (e : OpKind) (later : OpKind) : Bool :=
  match e, later with
  | .load _ _ _ _ true, _ => true
  | .atomic _ _, _ => true
  | .store _ true, .load _ _ _ _ true => true
  | .fence 3, _ => true
  | .fence 1, .store _ _ => false
  | .fence 1, _ => true
  | .fence 2, .load _ _ _ _ _ => false
  | .fence 2, _ => true
  | _, _ => false

/-- Memory syllables: those that fences and acquires hold. -/
def OpKind.isMem : OpKind → Bool
  | .load _ _ _ _ _ => true
  | .store _ _ => true
  | .atomic _ _ => true
  | _ => false

/-- Whether no commit of a party that precedes an operation is still draining. -/
def State.drained (s : State) (p id : Nat) : Bool := !s.commits.any fun c => c.party == p && c.id < id

/-- Whether every source byte of a Courier command has been read (R243). -/
def Cmd.sourceRead (m : Cmd) : Bool :=
  match m.kind with
  | .seal => true
  | _ => (upto m.len).all fun j => m.got.any fun e => e.1 == j

/-- Extent of level k of a Drover's table (R302). -/
def extent (t : Sparse (Dbl × Dbl)) (k : Nat) : Nat := dbits (sget (0, 0) t k).2 47 32 + 1

/-- Iterations of the nest. -/
def iterations (t : Sparse (Dbl × Dbl)) : Nat := (upto 6).foldl (fun n k => n * extent t k) 1

/-- Whether what the engines read for a coach before a place in its order has been read: the sources of its Courier commands, and its
Drover walks, whose iterations all stand at their DGO, those still to be issued too (R243, R311). -/
def State.engineReads (s : State) (k id : Nat) : Bool :=
  ((s.core (coreOf k)).courier.all fun m => !(m.coach == k && Nat.blt m.id id) || m.sourceRead) &&
    (let d := (s.wing (wingOf k)).drover
     ((d.sa ++ d.q0 ++ d.q1).all fun b => b.here || !(b.coach == k && Nat.blt b.go id)) &&
       !(d.st == .running && d.coach == k && Nat.blt d.id id && Nat.blt d.pos (iterations d.active)))

/-- Whether every earlier access of the coach is performed (R240 item 2). -/
def State.accessesDone (s : State) (o : Op) : Bool :=
  ((s.olderOps o).all fun q => !q.kind.isMem || q.performed) && s.engineReads o.coach o.id

/-- Whether a commit's bytes must reach their homes before a direct write of its party (R338). -/
def State.afterCommit (s : State) (o : Op) (p : Part) : Bool :=
  !s.commits.any fun c => c.party == o.party && (c.id < o.id || c.after.contains o.id) &&
    c.bytes.any fun b => meets (.home b.pa b.enc) 1 p.place p.len

/-- Whether part i of an operation may be performed now. -/
def State.mayPerform (s : State) (o : Op) (i : Nat) (p : Part) : Bool :=
  let die := s.die (dieOf o.coach)
  p.st == .todo && !die.gated && o.cycle + 2 ≤ die.cycle && !s.ahead o.asid.toNat o.die o.stamp &&
    (s.olderOps o).all (fun q => !blocks q.kind o.kind && q.parts.all fun r => !(r.open && r.touches p)) &&
    (match o.kind with
      | .load _ _ _ _ _ => true
      | .store _ rel =>
        (o.parts.take i).all (fun r => !(r.open && r.touches p)) && s.afterCommit o p &&
          (!rel || (s.drained o.party o.id && s.accessesDone o)) &&
          (!p.place.outside || s.drained o.party o.id) &&
          (match p.place with | .home pa _ => o.held || s.cowReady o.asid.toNat pa | _ => true)
      | .atomic _ _ =>
        s.drained o.party o.id && s.accessesDone o &&
          (match p.place with | .home pa _ => s.cowReady o.asid.toNat pa | _ => true)
      | _ => true)

/-! Performing. -/

def Op.setPart (o : Op) (i : Nat) (p : Part) : Op := { o with parts := o.parts.set i p }

/-- A store of the bytes to which its own party's reads see them (R217, R221): bytes from memory, then the party's
commits still draining, then its held bytes. -/
def overlay (hs : List HeldByte) (pa : Nat) (bs : List Byte) : List Byte :=
  hs.foldl (fun bs h => if pa ≤ h.pa && h.pa < pa + bs.length then bs.set (h.pa - pa) h.b else bs) bs

/-- Bytes join a held-store area in the place of their store's issue (R338). -/
def joinHeld (held : List HeldByte) (op : Nat) (hs : List HeldByte) : List HeldByte :=
  held.takeWhile (fun h => h.op ≤ op) ++ hs ++ held.dropWhile fun h => h.op ≤ op

def State.ownBytes (s : State) (p : Nat) : List HeldByte :=
  (s.commits.filter fun c => c.party = p).flatMap (·.bytes) ++ (s.party p).held

/-- A number that names part i of an operation on a link. -/
def reqOf (o : Op) (i : Nat) : Nat := o.id * 2048 + i

/-- The I/O die through which a job's items for peers leave, and its first port there. -/
def State.wayOut (s : State) (asid : Nat) : Option (Nat × Nat) :=
  match s.jobPorts asid 8, s.jobPorts asid 9 with
  | p :: _, _ => some (8, p)
  | [], p :: _ => some (9, p)
  | [], [] => none

/-- An item of a job for a peer package reaches an I/O die with the epoch under which it left its own die, and leaves on a port with that
of the I/O die (R244, R332, R387): none while the I/O die's cut holds it (R334). An old one that writes is logged there (R336), by the
peer's addresses: the package, the addresses, and the records. -/
def State.sendItem (s : State) (asid stamp : Nat) (aims : List (Nat × Nat)) (log : State → List Byte) (b : LinkBody) : State × Bool :=
  match s.wayOut asid with
  | none => (s, true)
  | some (iod, port) =>
    let (s, ok) := s.stampOk asid iod stamp
    if !ok then (s, false)
    else
      let s := if !aims.isEmpty && s.isOld asid iod stamp then
          aims.foldl (fun s e => s.noteAway asid e.1 e.2) (s.logReceived asid iod (log s))
        else s
      ({ s with linkOut := s.linkOut ++ [(port, s.item asid (s.epochOf asid iod) b)] }, true)

/-- What an old write to a peer leaves in a log: where it belongs, and its record. -/
def Place.away (p : Place) : List (Nat × Nat) := match p with | .peer q pa => [(q, pa)] | _ => []
def State.awayWrite (asid : Nat) (p : Place) (bs : List Byte) (s : State) : List Byte :=
  match p with | .peer q pa => writeRecord (s.awayVa asid q pa) bs | _ => []

/-- Part i of an operation is asked of a peer; its core's L1 drops the words when it writes. -/
def State.askPeer (s : State) (o : Op) (i : Nat) (p : Part) (aims : List (Nat × Nat)) (log : State → List Byte) (ws : List Nat)
    (b : LinkBody) : State :=
  let (s, ok) := s.sendItem o.asid.toNat o.left aims log b
  if ok then (s.l1Drop (coreOf o.coach) ws).modOp o.id fun q => q.setPart i { p with st := .sent } else s

/-- An error met by an access is consumed by its coach's party (R357). -/
def State.consumeAt (s : State) (o : Op) (storage loc : Nat) : State := s.consume o.coach storage loc o.addr

/-- Whether scratchpad words hold an uncorrectable error. -/
def State.sramPoison (s : State) (core off n : Nat) : Bool :=
  s.poison.any fun p => match p with
    | .sram c w => c == core && 4 * w < off + n && off < 4 * w + 4
    | _ => false

/-- A load's part (R218, R220, R235). It sees what its own party holds or drains of the bytes also where their region is not live, of which R229
says zero and R217 and R221 the held byte (log 93). -/
def State.performLoad (s : State) (o : Op) (i : Nat) (p : Part) (acq : Bool) : State :=
  let core := coreOf o.coach
  let asid := o.asid.toNat
  let fin (s : State) (bs : List Byte) : State := s.modOp o.id fun q => q.setPart i { p with st := .fin, got := bs }
  let cached := !acq && (o.pol == .dflt || o.pol == .ro)
  let viaL1 := cached && s.l1Has core p.place p.len && s.pick 5000 2 == 0
  match p.place with
  | .nowhere => fin s (List.replicate p.len 0)
  | .sram c off =>
    if s.sramPoison c off p.len then s.consumeAt o 3 off else fin s (s.plainRead p.place p.len)
  | .peer _ pa =>
    if viaL1 then fin s (s.l1Bytes core p.place p.len)
    else s.askPeer o i p [] (fun _ => []) (l1Words p.place p.len) (.read (reqOf o i) pa p.len)
  | .host _ =>
    if viaL1 then fin s (s.l1Bytes core p.place p.len)
    else
      let (s, ok) := s.stampOk asid 8 o.left
      if !ok then s
      else
        let s := (s.countHost o p false).l1Drop core (l1Words p.place p.len)
        let q := { p with got := s.plainRead p.place p.len, asked := true }
        (if cached then s.l1Allocate core o q else s).answerPart o i q 8
  | .home pa enc =>
    if viaL1 then fin s (s.l1Bytes core p.place p.len)
    else
      let die := homeDie pa
      let (s, ok) := s.stampOk asid die (o.stampAt die)
      if !ok then s
      else
        let before := s
        let s := s.fill asid pa enc p.len p.va
        if s.poisoned pa p.len then s.consumeAt o 5 pa
        else
          let s := ((s.l1Drop core (l1Words p.place p.len)).markCross asid pa (o.stampAt die) (s.exempts o.party)).countDead pa
          let own := (s.ownBytes o.party).filter fun h => pa ≤ h.pa && h.pa < pa + p.len
          let q := { p with got := overlay own pa (s.physBytes pa p.len) }
          let s := if o.pol == .st then s.unallocate before pa p.len else s
          (if cached && own.isEmpty then s.l1Allocate core o q else s).answerPart o i q die

/-- A store at a home takes the copy of its words from its core, and their owner becomes the core, or none for .ST and for a held store
that a commit made direct (R220, R236). -/
def State.takeOwner (s : State) (o : Op) (p : Part) : State :=
  let core := coreOf o.coach
  let ws := l1Words p.place p.len
  if o.pol == .st || o.moved then { s with owner := ssetAll 0 s.owner (ws.map fun w => (w, 0)) }.l1Drop core ws
  else
    let s := { s with owner := ssetAll 0 s.owner (ws.map fun w => (w, core + 1)) }
    if o.pol == .nc then s.l1Drop core ws else s.l1Update core p.place p.data

/-- A direct store at a home (R220, R236): the bytes; the owner, whose predecessor must acknowledge; the core's copy. -/
def State.storeHome (s : State) (o : Op) (i : Nat) (p : Part) (pa : Nat) (enc : Bool) : State :=
  let core := coreOf o.coach
  let asid := o.asid.toNat
  let die := homeDie pa
  let stamp := o.stampAt die
  let (s, ok) := s.stampOk asid die stamp
  if !ok then s
  else
    let before := s
    let s := (s.fillEdges asid pa enc p.len p.va).markCross asid pa stamp (s.exempts o.party)
    let s := if s.isOld asid die stamp then s.logReceived asid die (writeRecord (s.mappedVa asid pa) p.data) else s
    let others := (l1Words p.place p.len).any fun w => let x := sget 0 s.owner w; x != 0 && x != core + 1
    let s := (s.homeWrite asid pa enc p.data).takeOwner o p
    let s := if o.pol == .st then (s.writeThrough pa p.len).unallocate before pa p.len else s
    if others then s.modOp o.id fun q => q.setPart i { p with st := .noticed } else s.answerPart o i p die

/-- A store's part (R219, R221). -/
def State.performStore (s : State) (o : Op) (i : Nat) (p : Part) : State :=
  let core := coreOf o.coach
  let asid := o.asid.toNat
  let fin (s : State) : State := s.modOp o.id fun q => q.setPart i { p with st := .fin }
  let ws := l1Words p.place p.len
  match p.place with
  | .nowhere => fin s
  | .sram _ _ => fin (s.plainWrite asid p.place p.data)
  | .peer _ pa =>
    s.askPeer o i p p.place.away (State.awayWrite asid p.place p.data) ws (.write (reqOf o i) pa ((upto p.len).map fun j => (j, nth p.data j 0)))
  | .host ha =>
    let (s, ok) := s.stampOk asid 8 o.left
    if !ok then s
    else (((s.countHost o p true).hostWrite ha p.data).l1Drop core ws).answerPart o i { p with asked := true } 8
  | .home pa enc =>
    if o.held then
      let (u, s) := s.freshId
      let hs : List HeldByte := (upto p.len).map fun j =>
        { pa := pa + j, enc := enc, va := p.va + j, page := p.page, b := nth p.data j 0, unit := u, st := o.pol == .st, op := o.id }
      let s := s.modParty o.party fun x => { x with held := joinHeld x.held o.id hs }
      fin (s.l1Drop core ws)
    else s.storeHome o i p pa enc

/-- An atomic's write of a word: its owner record ends, and the owner has yet to learn it (R236). -/
def State.atomWrite (s : State) (asid : Nat) (p : Place) (bs : List Byte) : State :=
  match p with
  | .home pa enc =>
    let t := s.homeWrite asid pa enc bs
    { t with owner := ssetAll 0 t.owner ((wordsTouched pa bs.length).map fun w => (w, 0)) }
  | x => s.plainWrite asid x bs

/-- The lanes of an atomic's part, one after another (R222): each lane's old value. -/
def State.atomLanes (s : State) (asid opc : Nat) (old : Bool) : List AtomLane → State × List AtomLane
  | [] => (s, [])
  | a :: as =>
    let m : Word := BitVec.ofNat 32 (leNat (s.plainRead a.place 4))
    let s1 := match a.place with
      | .home pa _ =>
        if old then s.logReceived asid (homeDie pa) (atomicRecord (s.mappedVa asid pa) opc a.v a.c) else s
      | _ => s
    let s2 := s1.atomWrite asid a.place (leBytes (atomOp opc m a.v a.c).toNat 4)
    let (s3, r) := s2.atomLanes asid opc old as
    (s3, { a with old := m } :: r)

/-- An atomic's part (R222, R223). -/
def State.performAtomic (s : State) (o : Op) (i : Nat) (p : Part) (opc : Nat) : State :=
  let core := coreOf o.coach
  let asid := o.asid.toNat
  let ws := p.ats.flatMap fun a => l1Words a.place 4
  match p.place with
  | .home pa enc =>
    let die := homeDie pa
    let stamp := o.stampAt die
    let (s, ok) := s.stampOk asid die stamp
    if !ok then s
    else
      let s := p.ats.foldl (fun s a => s.fill asid (a.place.key / 4 * 4) enc 4 a.va) (s.markCross asid pa stamp (s.exempts o.party))
      if s.isDead pa then
        (p.ats.foldl (fun s _ => (s.countElided pa).countElided pa) s).answerPart o i
          { p with ats := p.ats.map fun a => { a with old := 0 } } die
      else if p.ats.any fun a => s.poisoned (a.place.key / 4 * 4) 4 then s.consumeAt o 5 pa
      else
        let others := ws.any fun w => let x := sget 0 s.owner w; x != 0 && x != core + 1
        let (s, as) := s.atomLanes asid opc (s.isOld asid die stamp) p.ats
        let s := s.l1Drop core ws
        if others then s.modOp o.id fun q => q.setPart i { p with st := .noticed, ats := as } else s.answerPart o i { p with ats := as } die
  | .peer _ _ =>
    let lanes := p.ats.map fun a => (match a.place with | .peer _ pa => pa | _ => 0, a.v, a.c)
    s.askPeer o i p (p.ats.flatMap fun a => a.place.away)
      (fun s => p.ats.flatMap fun a => match a.place with | .peer q pa => atomicRecord (s.awayVa asid q pa) opc a.v a.c | _ => [])
      ws (.atomic (reqOf o i) opc lanes)
  | .host _ =>
    let (s, ok) := s.stampOk asid 8 o.left
    if !ok then s
    else
      let (s, as) := (s.countHost o p true).atomLanes asid opc false p.ats
      (s.l1Drop core ws).answerPart o i { p with ats := as, asked := true } 8
  | _ => s.modOp o.id fun q => q.setPart i { p with st := .fin }

/-! Completion. -/

/-- The bytes that a lane loaded. -/
def Op.laneBytes (o : Op) (l : Nat) : List Byte := (o.parts.filter fun p => p.lane == l).flatMap (·.got)

/-- Word j that a lane loaded, narrow sizes zero-extended (R218). -/
def Op.laneWord (o : Op) (j l : Nat) : Word := BitVec.ofNat 32 (leNat (((o.laneBytes l).drop (4 * j)).take 4))

/-- A lane's old value. -/
def Op.oldWord (o : Op) (l : Nat) : Word :=
  match o.parts.findSome? fun p => p.ats.find? fun a => a.lane == l with
  | some a => a.old
  | none => 0

/-- The values of W lanes. -/
def laneVals (w : Nat) (m : Lanes) (f : Nat → Word) : List Word := (upto w).map fun l => if m.getLsbD l then f l else 0

/-- What a performed load writes. -/
def loadWrites (o : Op) (w : Nat) (regs : List Nat) (rp : Option Nat) (absent : Lanes) : List Write :=
  (if regs.isEmpty then [.latV o.lanes (laneVals w o.lanes (o.laneWord 0))]
   else (upto regs.length).map fun j => .vec (nth regs j 0) o.lanes (laneVals w o.lanes (o.laneWord j))) ++
    (match rp with | some p => [.prd p o.lanes absent] | none => [])

/-- The lanes of an operation all of whose parts are performed. -/
def Op.madeLanes (o : Op) : Lanes :=
  lanesWhere 64 fun l => o.lanes.getLsbD l && o.parts.all fun p =>
    p.st == .fin || (p.lane != l && !(p.ats.any fun a => a.lane == l))

/-- What the performed parts of an operation have read may be seen too early by a later bundle (R48). -/
def State.noteMade (s : State) (o : Op) : State :=
  match o.fe with
  | none => s
  | some id =>
    let m := o.madeLanes
    let w := (s.coach o.coach).width
    let ws := match o.kind with
      | .load regs _ rp absent _ => loadWrites { o with lanes := m } w regs rp absent
      | .atomic _ r => [.vec r m (laneVals w m o.oldWord)]
      | _ => []
    if ws.isEmpty then s
    else s.modCoach o.coach fun c => { c with flags := c.flags.map fun e => if e.id = id then { e with made := ws } else e }

/-- An operation all of whose parts are performed is counted complete (R54, R218, R219, R222); an acquire, which every atomic is
(R232), first invalidates its core's L1 (R237, R239). -/
def State.settle (s : State) (id : Nat) : State :=
  match s.op? id with
  | none => s
  | some o =>
    if !o.performed then s.noteMade o
    else
      let w := (s.coach o.coach).width
      match o.kind with
      | .load regs _ rp absent acq =>
        let s := if acq then s.selfInvalidate (coreOf o.coach) else s
        (s.dropOp id).finishFlag o.coach o.fe (loadWrites o w regs rp absent) (laneVals w o.lanes (o.laneWord 0)) 0
      | .store _ _ => (s.dropOp id).finishFlag o.coach o.fe [] [] 0
      | .atomic _ r =>
        let vs := laneVals w o.lanes o.oldWord
        ((s.selfInvalidate (coreOf o.coach)).dropOp id).finishFlag o.coach o.fe [.vec r o.lanes vs] vs 0
      | _ => s

/-- Whether an access stays within the package's memory (R21). -/
def Part.inMemory (p : Part) : Bool :=
  match p.place with
  | .home pa _ => addressable pa p.len
  | _ => true

/-- Performs part i of a memory operation if it may be, and counts the operation if that was its last. -/
def State.performMem (s : State) (o : Op) (i : Nat) : Out :=
  if o.performed then .next (s.settle o.id).tickFree
  else
    match o.parts[i]? with
    | none => .next s
    | some p =>
      if p.st == .answered then
        .next ((s.answerPart o i p (match p.place with | .home pa _ => homeDie pa | _ => 8)).settle o.id).tickFree
      else if !s.mayPerform o i p then .next s
      else if !p.inMemory then .fault (.noMemory (match p.place with | .home pa _ => pa | _ => 0))
      else
        let t := match o.kind with
          | .load _ _ _ _ acq => s.performLoad o i p acq
          | .store _ _ => s.performStore o i p
          | .atomic opc _ => s.performAtomic o i p opc
          | _ => s
        .next (t.settle o.id).tickFree

/-- LOSS_NOTICE_ACK (R236): the previous owners clear their owned bits, and the parts of the store or atomic are performed. -/
def execLossNoticeAck (op : Nat) (s : State) : Out :=
  match s.op? op with
  | none => .next s
  | some o =>
    let ps := o.parts.filter fun p => p.st == .noticed
    if ps.isEmpty then .next s
    else
      let ws := ps.flatMap fun p => l1Words p.place p.len ++ p.ats.flatMap fun a => l1Words a.place 4
      let s := (tkeys s.cores).foldl (fun s c =>
        let lose (e : Nat × L1Word) : Nat × L1Word :=
          if ws.contains e.1 && sget 0 s.owner e.1 != c + 1 then (e.1, { e.2 with owned := false }) else e
        if c = coreOf o.coach then s else s.modCore c fun x => { x with l1 := x.l1.map lose }) s
      let t := (upto o.parts.length).foldl (fun s i => match o.parts[i]? with
        | some p => if p.st == .noticed then s.answerPart o i p (match p.place with | .home pa _ => homeDie pa | _ => 8) else s
        | none => s) s
      .next (t.settle op)

/-- A core's write of a peer's words is performed: what the core's L1 took of them meanwhile is dropped, and a load whose answer is still
on its way, which may be older, allocates none (R220, R236). -/
def State.peerWritten (s : State) (o : Op) (p : Part) : State :=
  let core := coreOf o.coach
  let s := s.l1Drop core (l1Words p.place p.len ++ p.ats.flatMap fun a => l1Words a.place 4)
  { s with ops := s.ops.map fun q =>
      let load : Bool := match q.kind with | .load _ _ _ _ _ => true | _ => false
      if load && coreOf q.coach == core && q.parts.any (fun r => r.st == .sent && r.touches p) then { q with pol := .nc } else q }

/-- A peer's answer to part i of an operation (R244): data, an acknowledgement or the lanes' old values. A default or .RO load may
allocate what it read (R220). -/
def State.peerAnswer (s : State) (req : Nat) (bs : List Byte) : State :=
  match s.op? (req / 2048) with
  | none => s
  | some o =>
    match o.parts[req % 2048]? with
    | none => s
    | some p =>
      if p.st != .sent then s
      else
        let ats := (p.ats.zip (chunks 4 bs ++ List.replicate p.ats.length [])).map fun e =>
          { e.1 with old := BitVec.ofNat 32 (leNat e.2) }
        let p := { p with st := .fin, got := (bs ++ List.replicate p.len 0).take p.len, ats := ats }
        let cached : Bool := match o.kind with
          | .load _ _ _ _ acq => !acq && (o.pol == .dflt || o.pol == .ro)
          | _ => false
        let s := if cached then s.l1Allocate (coreOf o.coach) o p else s
        let s := match o.kind with
          | .store _ _ => (s.wakeMonitors p.place.key p.len).peerWritten o p
          | .atomic _ _ => (s.wakeMonitors (p.place.key / 128 * 128) 128).peerWritten o p
          | _ => s
        (s.modOp o.id fun q => q.setPart (req % 2048) p).settle o.id

end Sys2Proof.Machine
end

