-- ==== Sys2Proof/Machine/Ordering.lean ====
section
/-! DEFINITION. Fences (R238, R241), barrier objects (R247 to R255), supersteps (R256, R257), and the completion of
every outstanding operation (R54). -/

namespace Sys2Proof.Machine

/-! Fences. -/

/-- FENCE (R232, R241): 1 acquire, 2 release, 3 both. A release commits first (R240). -/
def issueFence (kind : Nat) (o : MFence) (s : State) : Out :=
  onCoach s fun k c =>
    if s.active c o.g = 0 then .next s
    else if kind != 1 && s.holdsHard c.party then hold s k
    else
      let s := if kind == 1 then s else s.commitHard c.party
      let (c1, fe) := c.openFlag o.f s.cur.seq [] none
      let (id, s1) := (s.putCoach k c1).freshId
      .next (s1.addOp (s1.newOp k c id (.fence kind) (some fe)))

def execFenceAcq (o : MFence) (s : State) : Out := issueFence 1 o s
def execFenceRel (o : MFence) (s : State) : Out := issueFence 2 o s
def execFenceFull (o : MFence) (s : State) : Out := issueFence 3 o s

/-- Whether a fence's conditions hold (R241); what the engines read for the coach counts among its loads (R243, R311). -/
def State.fenceReady (s : State) (o : Op) (kind : Nat) : Bool :=
  (kind == 2 || (s.engineReads o.coach o.id && (s.olderOps o).all fun q => match q.kind with
    | .load _ _ _ _ _ => false
    | .atomic _ _ => q.performed
    | _ => true)) &&
    (kind == 1 || (s.drained o.party o.id && s.accessesDone o))

/-! Barrier objects (R247). -/

/-- A barrier object. -/
structure Bar where
  phase : Bool
  armed : Bool
  stray : Bool
  expected : Nat
  arrivals : Nat
  pending : Int
  fault : Nat
  deriving DecidableEq, Repr

/-- The object in its two doubles. -/
def Bar.decode (lo hi : Nat) : Bar :=
  { phase := tbit lo 0, armed := tbit lo 1, stray := tbit lo 2, expected := bits lo 17 3, arrivals := bits lo 32 18,
    pending := (BitVec.ofNat 56 hi).toInt, fault := bits hi 63 56 }

/-- Its bytes; the reserved bits are written 0. -/
def Bar.bytes (b : Bar) : List Byte :=
  leBytes (bnat b.phase + 2 * bnat b.armed + 4 * bnat b.stray + 8 * b.expected + 2 ^ 18 * b.arrivals) 8 ++
    leBytes ((BitVec.ofInt 56 b.pending).toNat + 2 ^ 56 * b.fault) 8

def State.bar (s : State) (core addr : Nat) : Bar :=
  let bs := mgets (s.core core).sram addr 16
  Bar.decode (leNat (bs.take 8)) (leNat (bs.drop 8))

def State.putBar (s : State) (core addr : Nat) (b : Bar) : State := s.plainWrite 0 (.sram core addr) b.bytes

/-- A failed operation (R247). -/
def Bar.fail (b : Bar) (code : Nat) : Bar := { b with stray := true, fault := code }

/-- BARINIT at the unit (R250). -/
def Bar.init (b : Bar) (n : Nat) : Bar :=
  { b with armed := true, stray := false, fault := 0, expected := n, arrivals := n, pending := 0 }

/-- An arrival of c at the unit (R251). -/
def Bar.arrive (b : Bar) (c : Nat) : Bar :=
  if b.stray then b
  else if !b.armed then b.fail 4
  else if c = 0 ∨ b.arrivals < c then b.fail 2
  else { b with arrivals := b.arrivals - c }

/-- A credit or debit of bytes: BEXPECT fails with code 4 when unarmed, a delivery with code 1 (R253, R254). -/
def Bar.credit (b : Bar) (e : Int) (unarmed : Nat) : Bar :=
  if b.stray then b
  else if !b.armed then b.fail unarmed
  else if b.pending + e < -(2 ^ 55) ∨ 2 ^ 55 - 1 < b.pending + e then b.fail 3
  else { b with pending := b.pending + e }

/-- Whether both gauges stand at zero on an armed object that has not strayed (R248). -/
def Bar.opens (b : Bar) : Bool := !b.stray && b.armed && b.arrivals == 0 && b.pending == 0

/-- The flip. -/
def Bar.flip (b : Bar) : Bar := { b with phase := !b.phase, arrivals := b.expected }

/-- Ends the stops of the coaches of a party that wait on object n for the phase that a flip ended: an acquire of
their core (R248, R252). -/
def State.wakeBarrier (s : State) (p n : Nat) (phase : Bool) : State :=
  (s.party p).coaches.foldl (fun s k =>
    if (s.coach k).stops.contains (.barrier n (!phase)) then
      (s.modCoach k fun c =>
        { c.unstop (· == .barrier n (!phase)) with next := max c.next (s.now k + 1) }).selfInvalidate (coreOf k)
    else s) s

/-- An operation applied at the barrier unit of a core on object n of party p: the object, then its evaluation
(R248). -/
def State.atUnit (s : State) (p n : Nat) (f : Bar → Bar) : State :=
  let x := s.party p
  let addr := x.base + 16 * n
  let b := f (s.bar x.core addr)
  if b.opens then (s.putBar x.core addr b.flip).wakeBarrier p n b.flip.phase
  else if b = s.bar x.core addr then s
  else s.putBar x.core addr b

/-- Whether object n lies wholly inside a party's allocation (R250). -/
def State.barInside (s : State) (p n : Nat) : Bool := 16 * n + 16 ≤ (s.party p).size

/-- A barrier syllable whose object is outside: SPGUARD is recorded, nothing else happens (R250). -/
def barOutside (s : State) (k : Nat) (c : Coach) (n : Nat) : Out :=
  .next (s.putCoach k (c.touch (guardInfo (s.party c.party).base (16 * n))))

/-- The bytes of an object as a part, so that accesses and barrier operations of one coach keep their order. -/
def barPart (s : State) (p n : Nat) : Part :=
  Part.make 0 0 (.sram (s.party p).core ((s.party p).base + 16 * n)) 0 16 []

/-- A barrier operation that counts on a flag. -/
def issueBar (s : State) (k : Nat) (c : Coach) (n f : Nat) (kind : OpKind) (ws : List Write) (lat : Option Nat) : Out :=
  let (c1, fe) := c.openFlag f s.cur.seq ws lat
  let (id, s1) := (s.putCoach k c1).freshId
  .next (s1.addOp { s1.newOp k c id kind (some fe) with parts := [barPart s1 c.party n] })

/-- BARINIT (R250). -/
def execBarinit (o : MBar) (s : State) : Out :=
  onCoach s fun k c =>
    if s.active c o.g = 0 then .next s
    else if !s.barInside c.party o.k then barOutside s k c o.k
    else
      let n := (s.rdS c o.a).toNat
      if n = 0 ∨ 32767 < n then raise s k (illegal 1 3 n) else issueBar s k c o.k o.f (.barinit o.k n) [] none

/-- BEXPECT (R253). -/
def execBexpect (o : MBar) (s : State) : Out :=
  onCoach s fun k c =>
    if s.active c o.g = 0 then .next s
    else if !s.barInside c.party o.k then barOutside s k c o.k
    else issueBar s k c o.k o.f (.bexpect o.k (s.rdS c o.a).toInt) [] none

/-- What ARRIVE writes: a scalar register or its latch alone. -/
def arriveWrite (c : Coach) (d : SDst) (z : Dbl) : Write :=
  match d with
  | .reg n => if n = 0 then .latC z else .scl (c.renS n) z
  | .latch => .latC z

/-- ARRIVE (R251). Its result enters the M latches, in every lane. -/
def execArrive (o : MArrive) (s : State) : Out :=
  onCoach s fun k c =>
    if s.active c o.g = 0 then skipM s k c
    else if !s.barInside c.party o.k then
      .next (s.putCoach k ((c.enter .m s.cur.seq true [] 0).1.touch (guardInfo (s.party c.party).base (16 * o.k))))
    else
      let (c1, lat) := c.enter .m s.cur.seq false (List.replicate c.width 0) 0
      issueBar s k c1 o.k o.f (.arrive o.k (s.rdS c o.a) (match o.d with | .reg n => .reg (c.renS n) | .latch => .latch))
        [arriveWrite c o.d 0] (some lat)

/-- Whether every earlier access and barrier operation of a coach is performed, and its party's commits have drained, so that an
arrival may reach the unit (R240, R251). -/
def State.quiet (s : State) (k : Nat) : Bool :=
  s.drained (s.coach k).party s.nextId && s.engineReads k s.nextId && !s.ops.any fun q => q.coach == k && (q.kind.isMem || match q.kind with
    | .barinit _ _ => true
    | .arrive _ _ _ => true
    | .bexpect _ _ => true
    | _ => false)

/-- BARLOST (R250): the record of a BARINIT that clears a set STRAY. -/
def State.barLost (s : State) (o : Op) (k : Nat) : State :=
  let x := s.party o.party
  let b := s.bar x.core (x.base + 16 * k)
  if b.stray then s.record o.coach 1 0x40 o.addr (dnat (k + 256 * b.fault)) else s

/-- A barrier operation is applied at the unit and counted. -/
def State.applyBar (s : State) (o : Op) : State :=
  match o.kind with
  | .barinit k n =>
    (((s.barLost o k).atUnit o.party k fun b => b.init n).dropOp o.id).finishFlag o.coach o.fe [] [] 0
  | .bexpect k e => ((s.atUnit o.party k fun b => b.credit e 4).dropOp o.id).finishFlag o.coach o.fe [] [] 0
  | .arrive k c d =>
    let x := s.party o.party
    let addr := x.base + 16 * k
    let q := (s.bar x.core addr).phase
    let t := s.atUnit o.party k fun b => b.arrive c.toNat
    let z : Dbl := dnat (bnat q + 2 * bnat ((t.bar x.core addr).phase != q))
    let w : Write := match d with | .reg n => if n = 0 then .latC z else .scl n z | .latch => .latC z
    (t.dropOp o.id).finishFlag o.coach o.fe [w] (List.replicate (s.coach o.coach).width (z.setWidth 32)) z
  | _ => s

/-- Whether a barrier operation may be applied: earlier operations of the coach on the object's bytes are done, and an
arrival is a release (R251). -/
def State.barReady (s : State) (o : Op) : Bool :=
  (s.olderOps o).all (fun q => q.parts.all fun r => !(r.open && o.parts.any fun p => r.touches p)) &&
    (match o.kind with
      | .arrive _ _ _ => s.drained o.party o.id && s.accessesDone o
      | _ => true)

/-- BARSTRAY (R251, R252). -/
def barStray (k : Nat) : Trap := mkTrap 0x12 1 (dnat (16 * k))

/-- A BARINIT of the party that is on its way may reach the unit between an arrival that set STRAY and the return of the unit's answer,
which then finds STRAY clear (R251, R395); whether it does is free. -/
def State.overtaken (s : State) (p n : Nat) : State :=
  let init (o : Op) : Bool := o.party == p && (match o.kind with | .barinit k _ => k == n | _ => false) && s.barReady o
  match s.ops.find? init with
  | some o => if s.pick 5210 2 = 1 then s.applyBar o else s
  | none => s

/-- ARRIVEW (R251): the bundle waits for the coach's earlier accesses; the arrival is applied, and reported or
awaited. -/
def execArrivew (o : MBarW) (s : State) : Out :=
  onCoach s fun k c =>
    if s.active c o.g = 0 then .next s
    else if !s.barInside c.party o.k then barOutside s k c o.k
    else if !s.quiet k then hold s k
    else
      let addr (s : State) : Nat := (s.party c.party).base + 16 * o.k
      let core := (s.party c.party).core
      let q := (s.bar core (addr s)).phase
      let t := s.atUnit c.party o.k fun b => b.arrive (s.rdS c o.a).toNat
      let t := if (t.bar core (addr s)).stray then t.overtaken c.party o.k else t
      let b := t.bar core (addr s)
      if b.stray then raise t k (barStray o.k)
      else if b.phase != q then .next (t.selfInvalidate (coreOf k))
      else .next (t.modCoach k fun c => c.stopOn (.barrier o.k q))

/-- BWAIT (R252). -/
def execBwait (o : MBarW) (s : State) : Out :=
  onCoach s fun k c =>
    if s.active c o.g = 0 then .next s
    else if !s.barInside c.party o.k then barOutside s k c o.k
    else if s.ops.any fun q => q.coach == k && q.parts.any fun r => r.open && r.touches (barPart s c.party o.k) then hold s k
    else
      let b := s.bar (s.party c.party).core ((s.party c.party).base + 16 * o.k)
      let q := (s.rdS c o.a).getLsbD 0
      if b.stray then raise s k (barStray o.k)
      else if b.phase != q then .next (s.selfInvalidate (coreOf k))
      else .next (s.modCoach k fun c => c.stopOn (.barrier o.k q))

/-! Supersteps. -/

/-- Whether a level index names a D or C level at or inside SLEV (R256). -/
def sstepLevelOk (kn : Kernel) (n : Nat) : Bool :=
  match kn.levels[n]? with
  | some .d => kn.slev ≤ n
  | some .c => kn.slev ≤ n
  | _ => false

/-- SSTEP (R256). A relaunched party's first supersteps complete at once (R329). A second one of a coach while the party's is pending is held,
of which R256 says nothing (log 95). -/
def execSstep (o : MSstep) (s : State) : Out :=
  onCoach s fun k c =>
    if s.active c o.g = 0 then .next s
    else
      let p := c.party
      let x := s.party p
      let n := (s.rdS c o.a).toNat
      if !sstepLevelOk (s.launch x.launch).kernel n then raise s k (illegal 1 3 n)
      else
        let cur := x.sstep.getD { level := n, coaches := [], arrived := false }
        if cur.level ≠ n then raise s k (illegal 1 3 n)
        else if cur.coaches.contains k then hold s k
        else
          let next : SstepState := { cur with coaches := cur.coaches ++ [k] }
          if x.skip ≠ 0 then
            .next (((s.putCoach k (c.openDone o.f s.cur.seq [])).putParty p { x with sstep := some next }).tryArrive p)
          else
            let (c1, fe) := c.openFlag o.f s.cur.seq [] none
            let s1 := (s.putCoach k c1).putParty p { x with sstep := some next }
            let (id, s2) := s1.freshId
            .next ((s2.addOp (s2.newOp k c id (.sstep n) (some fe))).tryArrive p)

/-- The parties of a launch that share a superstep group: all of them at a D level or an outermost C level, those of
one D coordinate at a C level inside D (R257). -/
def State.groupOf (s : State) (launch group level : Nat) : List Nat :=
  let l := s.launch launch
  match l.kernel.levels[level]? with
  | some .c => if l.kernel.levels.contains .d then l.parties.filter fun p => (s.party p).d == group else l.parties
  | some .d => l.parties
  | _ => []

/-- Whether everything that a party issued before it arrived is performed or delivered (R257): what a coach issued before its SSTEP,
and all that a coach which has ended issued. A walk that an ended party left serves nobody, and is not awaited. -/
def State.arrivedClean (s : State) (p : Nat) : Bool :=
  let step (k : Nat) : Nat := match s.ops.find? fun o => o.coach == k && (match o.kind with | .sstep _ => true | _ => false) with
    | some o => o.id
    | none => s.nextId
  (s.ops.all fun o => !(o.party == p && o.kind.isMem && Nat.blt o.id (step o.coach))) &&
    (!s.commits.any fun c => c.party == p) &&
    ((s.core (s.party p).core).courier.all fun m => !(m.party == p && Nat.blt m.id (step m.coach))) &&
    ((s.party p).st == .ended || (s.party p).coaches.all fun k => s.engineReads k (step k))

/-- The parties of a group that wait at the superstep that is to complete: those that have arrived at the level, but for
one that is further on, because it had arrived at another's superstep before a relaunch (R257, R329). -/
def State.waiters (s : State) (ps : List Nat) (level : Nat) : List Nat :=
  let at_ := ps.filter fun p => (s.party p).st == .running && ((s.party p).sstep.any fun t => t.arrived && t.level == level)
  at_.filter fun q => at_.all fun p => Nat.blt (s.party q).past (s.party p).ssteps

/-- Whether a party has arrived at the superstep of the waiting parties: it waits there with everything performed, it has
ended, or it had arrived there before a relaunch (R257, R329). -/
def State.arrivedAt (s : State) (ws : List Nat) (q : Nat) : Bool :=
  let x := s.party q
  if x.st == .ended then s.arrivedClean q
  else (if ws.contains q then s.arrivedClean q else ws.all fun p => Nat.ble (s.party p).ssteps x.past)

/-- The dies of the parties that a superstep releases learn of its completion by items from the dies of all that arrived (R246, R332): a
die that has not cut cuts first, and the completion waits while that cut is delayed. -/
def State.superstepItems (s : State) (ps ws : List Nat) : State × Bool :=
  (dedup (ws.map fun p => (s.party p).die)).foldl (fun (r : State × Bool) die =>
    let asid := (s.launch (s.party (ws.headD 0)).launch).asid.toNat
    (dedup (ps.map fun q => (s.party q).die)).foldl (fun (r : State × Bool) from_ =>
      if from_ = die then r
      else
        let (t, ok) := r.1.stampOk asid die (s.epochOf asid from_)
        (t, r.2 && ok)) r) (s, true)

/-- SUPERSTEP_COMPLETE (R257). -/
def execSuperstepComplete (launch group level : Nat) (s : State) : Out :=
  let ps := s.groupOf launch group level
  let ws := s.waiters ps level
  if ws.isEmpty || !ps.all (s.arrivedAt ws) then .next s
  else
    let (s, ok) := s.superstepItems ps ws
    if !ok then .next s.tickFree
    else
    let s1 := ws.foldl (fun s p =>
      let s := (s.selfInvalidate (s.party p).core).modParty p fun x => { x with sstep := none }
      (s.ops.filter fun o => o.party == p && (match o.kind with | .sstep _ => true | _ => false)).foldl (fun s o =>
        (s.dropOp o.id).finishFlag o.coach o.fe [] [] 0) s) s
    .next s1.tickFree

/-! Completion of any outstanding operation. -/

/-- Whether the coach's bundle is beyond the reach of a table mismatch (R160). -/
def State.settled (s : State) (o : Op) : Bool :=
  let die := s.die (dieOf o.coach)
  !die.gated && o.cycle + 2 ≤ die.cycle

/-! Reconvergence entries beyond the 32 that the wing holds (R122). -/

/-- A stack entry in four doubles, lowest first (R121). -/
def StackEntry.image (e : StackEntry) : List Dbl :=
  [e.mask, dnat (bnat e.pending * 2 ^ 63 + bnat e.dcall * 2 ^ 62 + e.pc.toNat), e.rpc.setWidth 64, e.dret.setWidth 64]

/-- The address of spilled entry j of a coach, from the bottom of its stack: in its spill area, behind the party's upper guard, in coach
order (R224, log 83). -/
def State.spillAddr (s : State) (k j : Nat) : Nat :=
  let c := s.coach k
  let x := s.party c.party
  x.base + x.size + 256 + 32 * c.spill * c.num + 32 * j

/-- Entries that the stack of a coach has pushed below the top 32, or that changed there, are spilled; those that come up again are filled
back, which reads them for use (R122, R357). `before` is the stack as it was. -/
def State.settleSpill (s : State) (k : Nat) (before : List StackEntry) : State :=
  let c := s.coach k
  let core := coreOf k
  let below (st : List StackEntry) : List StackEntry := st.reverse.take (st.length - 32)
  let (old, new) := (below before, below c.stack)
  if old = new then s
  else
    let s := (upto new.length).foldl (fun s j => match new[j]? with
      | some e => if old[j]? = some e then s
          else s.plainWrite c.asid.toNat (.sram core (s.spillAddr k j)) (bytesOfDbls e.image)
      | none => s) s
    let back := (upto (old.length - new.length)).map (· + new.length)
    match back.find? fun j => s.sramPoison core (s.spillAddr k j) 32 with
    | some j => s.consume k 3 (s.spillAddr k j) s.cur.pc
    | none => s

end Sys2Proof.Machine
end

