-- ==== Sys2Proof/Machine/Courier.lean ====
section
/-! DEFINITION. The Courier (R258 to R275): TDESC, the copies, batches, and how accepted commands run (R271). -/

namespace Sys2Proof.Machine

/-- Whether the Courier of a coach's core can take a command (R258). -/
def State.courierFull (s : State) (k : Nat) : Bool := 64 ≤ (s.core (coreOf k)).courier.length

/-- What all Courier syllables share: they wait for a queue entry. -/
def onCourier (g : Guard) (s : State) (f : Nat → Coach → Lanes → Out) : Out :=
  onCoach s fun k c =>
    let m := s.active c g
    if m = 0 then .next s else if s.courierFull k then hold s k else f k c m

/-- ILLEGAL of a Courier syllable: field and code (R263). -/
def courierIllegal (s : State) (k field code : Nat) : Out := raise s k (illegal 2 field code)

/-- HOVERRUN at an offset (R263, R267). -/
def courierOverrun (lane : Nat) (off : Int) : Trap := hoverrun 2 lane (off % 2 ^ 56).toNat

/-- The window test of a shape's bounds against a handle (R263). -/
def checkBounds (lane : Nat) (h : Handle) (lo hi : Int) : Chk :=
  if lo < 0 || (pageBytes h.size : Int) < hi || (h.st == .valid && (lo < h.lo.toNat || (h.hi.toNat : Int) < hi)) then
    .trap (courierOverrun lane (if lo < 0 then lo else hi))
  else .ok

/-- Step 6 of R198 for a handle. -/
def checkKey (s : State) (c : Coach) (n : Nat) (h : Handle) : Chk :=
  if h.st == .valid && !s.keyOk c h then .trap (protTrap 2 n 0x80) else .ok

/-- Step 7 of R198 for a handle. -/
def checkRights (n : Nat) (need : BitVec 4) (h : Handle) : Chk :=
  if h.st == .valid && missing need h.rights ≠ 0 then .trap (protTrap 2 n (missing need h.rights)) else .ok

/-- Whether an operation may write: all but a load. -/
def OpKind.writes : OpKind → Bool
  | .load _ _ _ _ _ => false
  | _ => true

/-- Whether a store of an earlier bundle of the coach to the scratchpad has not reached these bytes. -/
def State.spBusy (s : State) (k core addr n : Nat) : Bool :=
  s.ops.any fun q => q.coach == k && q.kind.writes && decide (q.seq < s.cur.seq) &&
    q.parts.any fun r => r.open && r.touches (Part.make 0 0 (.sram core addr) 0 n [])

/-- TDESC (R263). -/
def execTdesc (o : XTdesc) (s : State) : Out :=
  onCourier o.g s fun k c m =>
    let x := s.party c.party
    let off := (s.rdS c o.a).toNat
    let lane := electedLane c.width m
    if off % 64 ≠ 0 ∨ x.size < off + 64 then courierIllegal s k 3 1
    else if s.spBusy k x.core (x.base + off) 64 then hold s k
    else if s.sramPoison x.core (x.base + off) 64 then .next (s.consume k 3 (x.base + off) s.cur.pc)
    else
      let d := dblsOfBytes (s.plainRead (.sram x.core (x.base + off)) 64)
      let g := Geo.read d
      let h := s.readH c o.h
      if g.check ≠ 0 then courierIllegal s k 3 g.check
      else
        withChk s k ((checkState 2 o.h h).orElse ((checkKey s c o.h h).orElse (checkBounds lane h g.bounds.1 g.bounds.2)))
          (let sh : Shape := { valid := true, desc := d, h := o.h, lo := g.bounds.1.toNat, hi := g.bounds.2.toNat }
           .next (s.putParty c.party { x with shapes := sset Shape.blank x.shapes o.k sh }))

/-! Coordinates and the delivery word. -/

/-- The coordinates of a box from registers n upward, or none if one lies beyond s63 (R267). -/
def State.coords (s : State) (c : Coach) (n ndim : Nat) : Option (List Nat) :=
  if n = 0 then some [0, 0, 0, 0, 0]
  else if 63 < n + (ndim - 1) / 2 then none
  else
    some ((upto 5).map fun i =>
      if i < ndim then dbits (s.readS c (c.renS (n + i / 2))) (32 * (i % 2) + 31) (32 * (i % 2)) else 0)

/-- The check of a box against its extents (R267); the record's bounds are checked with the handle. -/
def checkBox (lane : Nat) (sh : Shape) (co : List Nat) : Chk :=
  let g := Geo.read sh.desc
  match g.firstOutside co with
  | some j => .trap (courierOverrun lane (g.at co (g.indices j)))
  | none => .ok

/-- The check of a LAYOUT's page at a copy (R266): local HBM in the device half. -/
def layoutPage (sh : Shape) (h : Handle) : Bool := (Geo.read sh.desc).layout != 0 && (h.peer || !tbit h.vbase.toNat 56)

/-- The check of a LAYOUT's tiles at a copy (R266), once the coordinates are known. -/
def layoutTiles (sh : Shape) (co : List Nat) : Bool := (Geo.read sh.desc).layout != 0 && !(Geo.read sh.desc).tilesAligned co

/-- Steps 1 to 7 of R198 for a handle that a copy uses (R270): steps 4 and 5 are those of the bytes that its shape reaches, as its record
bounds them (R267). -/
def checkUse (s : State) (c : Coach) (lane n : Nat) (need : BitVec 4) (sh : Shape) : Chk :=
  let h := s.readH c n
  (checkState 2 n h).orElse ((checkBounds lane h sh.lo sh.hi).orElse ((checkKey s c n h).orElse (checkRights n need h)))

/-- Absence, and WB for a write (R258, R270). -/
def checkHere (s : State) (c : Coach) (n : Nat) (write : Bool) : Chk :=
  let h := s.readH c n
  if h.st == .absent then .trap (mkTrap 0x0A 2 (dnat n)) else if write && h.wb then .hold else .ok

/-- A delivery word's fields (R268). -/
def dwMask (b : Dbl) : Nat := dbits b 35 32
def dwBar (b : Dbl) : Bool := tbit b.toNat 28
def dwKb (b : Dbl) : Nat := dbits b 27 24
def dwOff (b : Dbl) : Nat := dbits b 19 0

/-- Whether a delivery word is refused (R268): for CPY.LD, CPY.ST and CPYM. -/
def dwBad (kind : CmdKind) (b : Dbl) : Bool :=
  dbits b 63 36 != 0 || dbits b 31 29 != 0 || dbits b 23 20 != 0 || dwOff b % 16 != 0 || (kind == .st && dwBar b) ||
    (if kind == .m then dwMask b == 0 else dwMask b != 0)

/-- The destination scratchpads of a delivery of n bytes, with the touch that it records first (R226, R254, R268). -/
def State.deliver (s : State) (c : Coach) (members : List Nat) (b : Dbl) (n : Nat) : List SpDest × Option Dbl :=
  members.foldl (fun (r : List SpDest × Option Dbl) K =>
    let touch (i : Dbl) : List SpDest × Option Dbl := (r.1, r.2.or (some i))
    match s.member? c.party K with
    | none => touch guardNoMember
    | some q =>
      let x := s.party q
      if x.size < dwOff b + n then touch (guardInfo x.base (dwOff b))
      else
        let d : SpDest := { party := q, core := x.core, addr := x.base + dwOff b, bar := none }
        if !dwBar b then (r.1 ++ [d], r.2)
        else if s.barInside q (dwKb b) then (r.1 ++ [{ d with bar := some (dwKb b) }], r.2)
        else (r.1 ++ [d], r.2.or (some (guardInfo x.base (16 * dwKb b))))) ([], none)

/-! Acceptance. -/

/-- A command enters a queue behind those that are there, but for those of the same cycle from a higher wing (R258). -/
def Cmd.join (m : Cmd) (q : List Cmd) : List Cmd :=
  let above (x : Cmd) : Bool := x.cycle == m.cycle && decide (wingOf m.coach < wingOf x.coach)
  q.takeWhile (fun x => !above x) ++ m :: q.dropWhile fun x => !above x

/-- A command of coach k, which is c, enters its core's queue. -/
def State.enqueue (s : State) (k : Nat) (c : Coach) (kind : CmdKind) (fe : Option Nat) (len : Nat) (src dst : Side)
    (sps : List SpDest) : State :=
  let x := s.party c.party
  let (id, s1) := s.freshId
  let m : Cmd :=
    { id := id, coach := k, party := c.party, asid := c.asid, addr := s.cur.pc, cycle := s.cur.cycle, kind := kind,
      batch := c.nb, src := src, dst := dst, sps := sps, len := len, got := [], sent := [], flying := [], fe := fe,
      held := x.launch != 0 && x.relaunchable, stamp := s.stampNow c.asid.toNat (dieOf k) c.party,
      left := s.stampNow c.asid.toNat (dieOf k) c.party, die := dieOf k }
  s1.modCore (coreOf k) fun y => { y with courier := m.join y.courier }

/-- A command is accepted: it is outstanding on its flag, and enters the queue. -/
def State.accept (s : State) (k : Nat) (kind : CmdKind) (f len : Nat) (src dst : Side) (sps : List SpDest) : State :=
  let c := s.coach k
  let (c1, fe) := c.openFlag f s.cur.seq [] none
  (s.putCoach k c1).enqueue k c kind (some fe) len src dst sps

/-- A command that is complete at once: its flag counts. -/
def State.acceptEmpty (s : State) (k f : Nat) : State := s.modCoach k fun c => c.openDone f s.cur.seq []

/-- A command whose writes go to memory: the party commits first if it must (R270). -/
def acceptWrite (s : State) (k : Nat) (kind : CmdKind) (f len : Nat) (src dst : Side) : Out :=
  let p := (s.coach k).party
  let x := s.party p
  let places := (upto len).map (s.sidePlace dst)
  let pas := places.filterMap fun q => match q with | .home pa _ => some pa | _ => none
  let hard := places.any Place.outside || (x.launch != 0 && x.relaunchable && heldLimit < s.heldSectors p pas)
  if hard && s.holdsHard p then hold s k
  else .next ((if hard then s.commitHard p else s).accept k kind f len src dst [])

/-- A slot's record. -/
def State.shape (s : State) (c : Coach) (n : Nat) : Shape := sget Shape.blank (s.party c.party).shapes n

/-- The members that a mask names, in ascending order. -/
def maskMembers (m : Nat) : List Nat := (upto 4).filter m.testBit

/-- CPY and CPYM (R269, R270). Code 11 is reported against field D (log 34). -/
def copyBox (kind : CmdKind) (o : XCopy) (s : State) : Out :=
  onCourier o.g s fun k c m =>
    let sh := s.shape c o.k
    let g := Geo.read sh.desc
    let lane := electedLane c.width m
    let st := kind == .st
    if !sh.valid then courierIllegal s k 2 8
    else if st && !g.wr then courierIllegal s k 2 9
    else
      let h := s.readH c sh.h
      withChk s k ((checkUse s c lane sh.h (if st then 2#4 else 1#4) sh).orElse (checkHere s c sh.h st))
        (if layoutPage sh h then courierIllegal s k 2 11
         else match s.coords c o.a g.ndim with
         | none => courierIllegal s k 3 13
         | some co =>
           if layoutTiles sh co then courierIllegal s k 2 11
           else
             withChk s k (checkBox lane sh co)
               (let b := s.rdS c o.b
                if dwBad kind b then courierIllegal s k 4 10
                else
                  let x := s.party c.party
                  let box : Side := .box sh co h
                  if st then
                    if x.size < dwOff b + g.bytes then
                      .next ((s.putCoach k (c.touch (guardInfo x.base (dwOff b)))).acceptEmpty k o.f)
                    else acceptWrite s k .st o.f g.bytes (.sp x.core (x.base + dwOff b)) box
                  else
                    let (ds, t) := s.deliver c (if kind == .m then maskMembers (dwMask b) else [x.k]) b g.bytes
                    let s := match t with | some i => s.putCoach k (c.touch i) | none => s
                    .next (s.accept k kind o.f g.bytes box .nothing ds)))

def execCpyLd (o : XCopy) (s : State) : Out := copyBox .ld o s
def execCpySt (o : XCopy) (s : State) : Out := copyBox .st o s
def execCpym (o : XCopy) (s : State) : Out := copyBox .m o s

/-- CPYG (R269, R270). A source slot operand with a bit of [63:4] set names no valid slot. The fields of codes 11 and 12, which R269 does not
name, are B here, and D for code 11 of the other copies (log 34). -/
def execCpyg (o : XCopy) (s : State) : Out :=
  onCourier o.g s fun k c m =>
    let b := s.rdS c o.b
    let dsh := s.shape c o.k
    let ssh := s.shape c (dbits b 3 0)
    let dg := Geo.read dsh.desc
    let sg := Geo.read ssh.desc
    let lane := electedLane c.width m
    if !dsh.valid then courierIllegal s k 2 8
    else if !ssh.valid || dbits b 63 4 != 0 then courierIllegal s k 4 8
    else if !dg.wr then courierIllegal s k 2 9
    else
      let sh := s.readH c ssh.h
      let dh := s.readH c dsh.h
      withChk s k ((checkUse s c lane ssh.h 1#4 ssh).orElse ((checkUse s c lane dsh.h 2#4 dsh).orElse
          ((checkHere s c ssh.h false).orElse (checkHere s c dsh.h true))))
        (if layoutPage ssh sh then courierIllegal s k 4 11
         else if o.a = 0 ∨ 58 < o.a then courierIllegal s k 3 13
         else
           match s.coords c o.a sg.ndim, s.coords c (o.a + 3) dg.ndim with
           | some sc, some dc =>
             if layoutTiles ssh sc then courierIllegal s k 4 11
             else
               withChk s k ((checkBox lane ssh sc).orElse (checkBox lane dsh dc))
                 (if sg.esize ≠ dg.esize ∨ sg.count ≠ dg.count then courierIllegal s k 4 12
                  else acceptWrite s k .g o.f sg.bytes (.box ssh sc sh) (.box dsh dc dh))
           | _, _ => courierIllegal s k 3 13)

/-- CPYP (R269, R270): nothing where a read would fault or hold. -/
def execCpyp (o : XPrefetch) (s : State) : Out :=
  onCourier o.g s fun k c m =>
    let sh := s.shape c o.k
    let g := Geo.read sh.desc
    if !sh.valid then courierIllegal s k 2 8
    else
      let h := s.readH c sh.h
      match s.coords c o.a g.ndim with
      | none => .next (s.acceptEmpty k o.f)
      | some co =>
        let lane := electedLane c.width m
        let chk := (checkUse s c lane sh.h 1#4 sh).orElse ((checkHere s c sh.h false).orElse (checkBox lane sh co))
        if chk ≠ .ok || layoutPage sh h || layoutTiles sh co then .next (s.acceptEmpty k o.f)
        else .next (s.accept k .p o.f g.bytes (.box sh co h) .nothing [])

/-! Batches. -/

/-- SEAL (R273): a queue entry; sd lands when it has been entered. -/
def execSeal (o : XSeal) (s : State) : Out :=
  onCourier o.g s fun k c _ =>
    let v : Dbl := c.nb.setWidth 64
    let w : List Write := if o.d = 0 then [] else [.scl (c.renS o.d) v]
    let s1 := s.enqueue k c .seal none 0 .nothing .nothing []
    .next (s1.putCoach k { c.openDone o.f s.cur.seq w with nb := c.nb + 1 })

/-- Whether batch n is at or before batch m (R273). -/
def batchLe (n m : Word) : Bool := (m - n).toNat < 2 ^ 31

/-- CWAIT (R274). -/
def execCwait (o : XCwait) (s : State) : Out :=
  onCourier o.g s fun k c _ =>
    let n : Word := (s.rdS c o.a).setWidth 32
    if !batchLe n (c.nb - 1) then courierIllegal s k 3 14
    else if batchLe n c.cb then .next s
    else .next (s.putCoach k (c.stopOn (.cwait n)))

/-! Commands in progress. -/

/-- The command with a number, its core, and whether it is among the eight that run (R258). -/
def State.cmd? (s : State) (id : Nat) : Option (Nat × Cmd × Bool) :=
  (tkeys s.cores).findSome? fun core =>
    let q := (s.core core).courier
    (q.find? fun m => m.id == id).map fun m => (core, m, (q.take 8).any fun x => x.id == id)

def State.putCmd (s : State) (core : Nat) (m : Cmd) : State :=
  s.modCore core fun c => { c with courier := c.courier.map fun x => if x.id = m.id then m else x }

/-- Changes the command with a number. -/
def State.modCmd (s : State) (core id : Nat) (f : Cmd → Cmd) : State :=
  s.modCore core fun c => { c with courier := c.courier.map fun x => if x.id = id then f x else x }

/-- The epoch that an access of a command carries to a home on a die (R332): that of its issue, or of the commit that made it durable,
on its own die and for its writes; else that with which its reads left. -/
def Cmd.stampAt (m : Cmd) (home : Nat) (write : Bool) : Nat := if home = m.die || write then m.stamp else m.left

/-- A command's access to a home on a die, and its answer, are items: either may be new where it arrives (R333). The access waits while
a delayed cut holds one of them (R334, log 40). -/
def State.cmdTravel (s : State) (m : Cmd) (home : Nat) (write : Bool) : State × Bool :=
  let (s, ok) := s.stampOk m.asid.toNat home (m.stampAt home write)
  if !ok then (s, false) else s.answerCrosses m.asid.toNat home m.die m.party

/-- Whether the command's die runs, its bundle is beyond the reach of a table mismatch (R160), and no cut that it follows is still to be
taken (R349). -/
def State.cmdSettled (s : State) (m : Cmd) : Bool :=
  !(s.die m.die).gated && m.cycle + 2 ≤ (s.die m.die).cycle && !s.ahead m.asid.toNat m.die m.stamp

/-- A byte of memory or scratchpad as a part. -/
def bytePart (p : Place) : Part := Part.make 0 0 p 0 1 []

/-- Whether the coach's earlier accesses let a command touch a byte: none that it precedes there, and no fence or acquire, which every
atomic is, holds it (R232, R237, R239, R241, R243). -/
def State.cmdClear (s : State) (m : Cmd) (p : Place) : Bool :=
  s.ops.all fun q => !(q.coach == m.coach && q.party == m.party && q.id < m.id &&
    ((match q.kind with
      | .fence _ => true
      | .load _ _ _ _ true => true
      | .atomic _ _ => true
      | _ => false) || q.parts.any fun r => r.open && r.touches (bytePart p)))

/-- A number that names a byte of a command on a link: reads below 2^18, writes above. -/
def cmdReq (m : Cmd) (j : Nat) : Nat := 2 ^ 63 + m.id * 2 ^ 19 + j

/-- The Courier's first request to the host for a line counts (R207). -/
def State.cmdHost (s : State) (m : Cmd) (side : Side) (seen : List Nat) (j : Nat) (write : Bool) : State :=
  let line (i : Nat) : Nat := (s.sidePlace side i).key / 128
  if seen.any fun i => line i == line j then s else s.hostRequest m.asid.toNat (side.va j) write

/-- A command's errors in staging go with it, or with the word that is written. -/
def State.healStaging (s : State) (gone : Nat → Nat → Bool) : State :=
  if s.poison.isEmpty then s
  else { s with poison := s.poison.filter fun p => match p with | .staging c w => !gone c w | _ => true }

/-- The flag counts a command once every source byte has been read (R272). -/
def State.cmdRead (s : State) (core : Nat) (m : Cmd) (j : Nat) (b : Byte) : State :=
  let upd (m : Cmd) : Cmd := { m with got := m.got ++ [(j, b)], flying := m.flying.filter (· ≠ j) }
  let s := s.healStaging fun c w => c == m.id && w == j / 4
  if m.got.length + 1 < m.len then s.modCmd core m.id upd
  else (s.modCmd core m.id fun m => { upd m with fe := none }).finishFlag m.coach m.fe [] [] 0

/-- COURIER_SOURCE_READ (R271): byte j of the stream is read, as a load by the issuing coach. -/
def execCourierSourceRead (cmd part : Nat) (s : State) : Out :=
  match s.cmd? cmd with
  | none => .next s
  | some (core, m, runs) =>
    let p := s.sidePlace m.src part
    if !runs || m.len ≤ part || (m.got.any fun e => e.1 == part) || m.flying.contains part || !s.cmdSettled m ||
        !s.cmdClear m p then .next s
    else
      match p with
      | .home pa enc =>
        if !addressable pa 1 then .fault (.noMemory pa)
        else
          let (s, ok) := s.cmdTravel m (homeDie pa) false
          if !ok then .next s.tickFree
          else
            let s := s.fill m.asid.toNat pa enc 1 (m.src.va part)
            if s.poisoned pa 1 then .next (s.consumeFor m.coach m.party m.asid.toNat 5 pa m.addr).tickFree
            else
              let s := (s.markCross m.asid.toNat pa (m.stampAt (homeDie pa) false) (s.exempts m.party)).countDead pa
              let bs := overlay ((s.ownBytes m.party).filter fun h => h.pa == pa) pa (s.physBytes pa 1)
              .next (s.cmdRead core m part (nth bs 0 0)).tickFree
      | .peer _ pa =>
        let (s, ok) := s.sendItem m.asid.toNat m.left [] (fun _ => []) (.read (cmdReq m part) pa 1)
        .next (if ok then s.modCmd core m.id fun m => { m with flying := m.flying ++ [part] } else s)
      | .host ha =>
        let (s, ok) := s.cmdTravel m 8 false
        .next (if ok then (s.cmdHost m m.src (m.got.map (·.1)) part false).cmdRead core m part (mget s.host ha) else s)
      | .sram c off =>
        if s.sramPoison c off 1 then .next (s.consumeFor m.coach m.party m.asid.toNat 3 off m.addr).tickFree
        else .next (s.cmdRead core m part (mget (s.core c).sram off))
      | .nowhere => .next (s.cmdRead core m part 0)

/-- Whether staging holds an error among n bytes of a command from byte j on (R356). -/
def State.stagingPoison (s : State) (m : Cmd) (j n : Nat) : Bool :=
  s.poison.any fun p => match p with | .staging c w => c == m.id && decide (4 * w < j + n) && decide (j < 4 * w + 4) | _ => false

/-- A command's party consumes an error of its staging (R357). -/
def State.consumeStaging (s : State) (m : Cmd) (j : Nat) : Out :=
  .next ((s.consumeFor m.coach m.party m.asid.toNat 3 (j / 4 * 4) m.addr).healStaging fun c _ => c == m.id).tickFree

/-- Byte j of the stream, if it has been read. -/
def Cmd.byte? (m : Cmd) (j : Nat) : Option Byte := (m.got.find? fun e => e.1 == j).map (·.2)

/-- Chunks of a box in one scratchpad (R271). -/
def Cmd.nchunks (m : Cmd) : Nat := (m.len + 1023) / 1024

/-- The bytes that chunk i covers: position and length. -/
def Cmd.chunkLen (m : Cmd) (i : Nat) : Nat := min 1024 (m.len - 1024 * i)

/-- Whether a command has still to write a byte in [addr, addr + n) of a core's scratchpad. -/
def Cmd.owesSp (m : Cmd) (core addr n : Nat) : Bool :=
  (upto m.sps.length).any fun d =>
    match m.sps[d]? with
    | none => false
    | some t => t.core == core && (upto m.nchunks).any fun i =>
        !m.sent.contains (d * m.nchunks + i) && overlap (t.addr + 1024 * i) (m.chunkLen i) addr n

/-- Whether a command has still to write the byte at a place of memory, before position j. -/
def State.owesMem (s : State) (m : Cmd) (j : Nat) (p : Place) : Bool :=
  match m.dst with
  | .box _ _ _ => (upto j).any fun i => !m.sent.contains i && s.sidePlace m.dst i == p
  | _ => false

/-- The coach's earlier commands of a core's queue. -/
def State.earlierCmds (s : State) (core : Nat) (m : Cmd) : List Cmd :=
  (s.core core).courier.filter fun x => x.coach == m.coach && x.party == m.party && x.id < m.id

/-- A chunk is written, and then counted (R254, R271). -/
def State.deliverChunk (s : State) (core : Nat) (m : Cmd) (d i : Nat) (t : SpDest) (bs : List Byte) : State :=
  let s := s.plainWrite m.asid.toNat (.sram t.core (t.addr + 1024 * i)) bs
  let s := match t.bar with
    | some n => s.atUnit t.party n fun b => b.credit (-(bs.length : Int)) 1
    | none => s
  s.putCmd core { m with sent := m.sent ++ [d * m.nchunks + i] }

/-- A byte of a command reaches memory (R271): held for the party, or performed at its home without an owner. -/
def State.deliverByte (s : State) (core : Nat) (m : Cmd) (j : Nat) (p : Place) (b : Byte) : Out :=
  let asid := m.asid.toNat
  let ws := l1Words p 1
  let va := m.dst.va j
  let fin (s : State) : State := (s.l1Drop core ws).modCmd core m.id fun m => { m with sent := m.sent ++ [j] }
  match p with
  | .home pa enc =>
    if !addressable pa 1 then .fault (.noMemory pa)
    else if m.held then
      let (u, s) := s.freshId
      let hb : HeldByte := { pa := pa, enc := enc, va := va, page := m.dst.page, b := b, unit := u, st := false, op := m.id }
      .next (fin (s.modParty m.party fun x => { x with held := joinHeld x.held m.id [hb] }))
    else if (s.commits.any fun c => c.party == m.party && (c.id < m.id || c.after.contains m.id) &&
        c.bytes.any fun x => x.pa == pa) || !s.cowReady asid pa then
      .next s
    else
      let stamp := m.stampAt (homeDie pa) true
      let (s, ok) := s.cmdTravel m (homeDie pa) true
      if !ok then .next s.tickFree
      else
        let s := s.markCross asid pa stamp (s.exempts m.party)
        let s := if s.isOld asid (homeDie pa) stamp then
            s.logReceived asid (homeDie pa) (writeRecord (s.mappedVa asid pa) [b]) else s
        .next (fin (s.sharedWrite asid p va [b])).tickFree
  | .host _ =>
    if !s.drained m.party m.id then .next s
    else
      let (s, ok) := s.cmdTravel m 8 true
      .next (if ok then fin ((s.cmdHost m m.dst m.sent j true).plainWrite asid p [b]) else s)
  | .peer _ pa =>
    if !s.drained m.party m.id then .next s
    else
      let (s, ok) := s.sendItem asid (m.stampAt 8 true) p.away (State.awayWrite asid p [b]) (.write (cmdReq m (2 ^ 18 + j)) pa [(0, b)])
      .next (if ok then (s.l1Drop core ws).modCmd core m.id fun m => { m with flying := m.flying ++ [m.len + j] } else s)
  | _ => .next (fin s)

/-- COURIER_CHUNK_DELIVERY (R254, R265, R271): chunk number `chunk` of a delivery to scratchpad, numbered through the
destinations, or byte `chunk` of a write to memory. The chunks of a multicast arrive in stream order. -/
def execCourierChunkDelivery (cmd chunk : Nat) (s : State) : Out :=
  match s.cmd? cmd with
  | none => .next s
  | some (core, m, runs) =>
    if !runs || m.sent.contains chunk || !s.cmdSettled m then .next s
    else if m.kind == .ld || m.kind == .m then
      let d := chunk / m.nchunks
      let i := chunk % m.nchunks
      let bs := (upto (m.chunkLen i)).filterMap fun j => m.byte? (1024 * i + j)
      match m.sps[d]? with
      | none => .next s
      | some t =>
        let first := m.kind == .ld || (upto i).all fun x => m.sent.contains (d * m.nchunks + x)
        let busy := (s.earlierCmds core m).any fun x => x.owesSp t.core (t.addr + 1024 * i) (m.chunkLen i)
        let clear := (upto (m.chunkLen i)).all fun j => s.cmdClear m (.sram t.core (t.addr + 1024 * i + j))
        if bs.length < m.chunkLen i || !first || busy || !clear then .next s
        else if s.stagingPoison m (1024 * i) (m.chunkLen i) then s.consumeStaging m (1024 * i)
        else .next (s.deliverChunk core m d i t bs)
    else
      match m.dst, m.byte? chunk with
      | .box _ _ _, some b =>
        let p := s.sidePlace m.dst chunk
        if m.flying.contains (m.len + chunk) || s.owesMem m chunk p || !s.cmdClear m p ||
            (s.earlierCmds core m).any fun x => s.owesMem x x.len p then .next s
        else if s.stagingPoison m chunk 1 then s.consumeStaging m chunk
        else s.deliverByte core m chunk p b
      | _, _ => .next s

/-- A peer's answer to a byte of a command. -/
def State.cmdAnswer (s : State) (req : Nat) (bs : List Byte) : State :=
  let n := req - 2 ^ 63
  let j := n % 2 ^ 18
  match s.cmd? (n / 2 ^ 19) with
  | none => s
  | some (core, m, _) =>
    if n / 2 ^ 18 % 2 = 0 then (if m.flying.contains j then s.cmdRead core m j (nth bs 0 0) else s)
    else if m.flying.contains (m.len + j) then
      (s.modCmd core m.id fun m => { m with flying := m.flying.filter (· ≠ m.len + j), sent := m.sent ++ [j] }).wakeMonitors
        (s.sidePlace m.dst j).key 1
    else s

/-- Whether a command is complete (R272). -/
def Cmd.done (m : Cmd) : Bool :=
  m.got.length == m.len && m.flying.isEmpty &&
    m.sent.length == (match m.dst with | .box _ _ _ => m.len | _ => m.sps.length * m.nchunks)

/-- COURIER_COMMAND_COMPLETE (R272): the entry leaves the queue. -/
def execCourierCommandComplete (cmd : Nat) (s : State) : Out :=
  match s.cmd? cmd with
  | none => .next s
  | some (core, m, runs) =>
    if runs && m.done && s.cmdSettled m then
      .next ((s.healStaging fun c _ => c == cmd).modCore core fun c => { c with courier := c.courier.filter fun x => x.id ≠ cmd })
    else .next s

/-- BATCH_COMPLETE (R273, R274): the next batch, sealed and with no command left, is complete; a stop that it covers
ends. -/
def execBatchComplete (coach : Nat) (s : State) : Out :=
  let c := s.coach coach
  let b := c.cb + 1
  if !c.present || !batchLe b (c.nb - 1) ||
      (s.core (coreOf coach)).courier.any fun m => m.coach == coach && m.party == c.party && m.batch == b then .next s
  else
    let c := { c with cb := b }
    let ended (t : Stop) : Bool := match t with
      | .cwait n => batchLe n b
      | _ => false
    .next (s.putCoach coach
      (if c.stops.any ended then { c.unstop ended with next := max c.next (s.now coach + 1) } else c))

end Sys2Proof.Machine
end

