-- ==== Sys2Proof/Machine/Drover.lean ====
section
/-! DEFINITION. The Drover (R300 to R315): its tables, the start of a walk, iterations, beats, pops and status. Streams
are numbered as their table entries: 6 SA, 7 SV0, 8 SV1. -/

namespace Sys2Proof.Machine

/-- The party that a wing's Drover serves (R300): its placement names it, for a matrix owner's party too. -/
def State.droverParty (s : State) (w : Nat) : Option Nat := (s.wing w).drover.party

/-- ILLEGAL of a Drover syllable: field and code (R300, R305, R306). -/
def droverIllegal (s : State) (k field code : Nat) : Out := raise s k (illegal 2 field code)

/-- What Drover syllables share: the coach's party must be served. -/
def onDrover (g : Guard) (s : State) (f : Nat → Coach → Lanes → Out) : Out :=
  onCoach s fun k c =>
    let m := s.active c g
    if m = 0 then .next s
    else if s.droverParty (wingOf k) == some c.party then f k c m
    else droverIllegal s k 0 40

/-! Tables. -/

/-- A table entry. -/
def entry (t : Sparse (Dbl × Dbl)) (k : Nat) : Dbl × Dbl := sget (0, 0) t k

/-- Byte step of a stream at level k (R302). -/
def stepOf (t : Sparse (Dbl × Dbl)) (k st : Nat) : Int :=
  signed32 (if st = 6 then dbits (entry t k).1 31 0 else if st = 7 then dbits (entry t k).1 63 32 else dbits (entry t k).2 31 0)

/-- Fields of a stream entry (R303). -/
def streamOn (t : Sparse (Dbl × Dbl)) (st : Nat) : Bool := tbit (entry t st).1.toNat 40
def streamPol (t : Sparse (Dbl × Dbl)) (st : Nat) : Nat := dbits (entry t st).1 42 41
def streamLvl (t : Sparse (Dbl × Dbl)) (st : Nat) : Nat := dbits (entry t st).1 39 37
def streamMem (t : Sparse (Dbl × Dbl)) (st : Nat) : Bool := tbit (entry t st).1.toNat 36
def streamHnd (t : Sparse (Dbl × Dbl)) (st : Nat) : Nat := dbits (entry t st).1 35 32
def streamBase (t : Sparse (Dbl × Dbl)) (st : Nat) : Nat := dbits (entry t st).1 31 0

/-- The enabled streams. -/
def streams (t : Sparse (Dbl × Dbl)) : List Nat := [6, 7, 8].filter (streamOn t)

/-- The levels that a stream uses. -/
def streamLevels (t : Sparse (Dbl × Dbl)) (st : Nat) : List Nat := (upto 6).filter fun k => streamLvl t st ≤ k

/-- Bytes of a beat (R303). -/
def beatSize (w st : Nat) : Nat := if st = 6 then 384 else 4 * w

/-- The bounds of a stream (R307). -/
def streamBounds (t : Sparse (Dbl × Dbl)) (w st : Nat) : Int × Int :=
  let sum (f : Int → Int) : Int :=
    (streamLevels t st).foldl (fun a k => a + f (stepOf t k st * ((extent t k : Int) - 1))) (streamBase t st)
  (sum (min 0), sum (max 0) + beatSize w st)

/-- DTAB (R305). -/
def execDtab (o : XDtab) (s : State) : Out :=
  onDrover o.g s fun k c _ =>
    let lo := s.rdS c o.a
    let hi := s.rdS c o.b
    if 8 < o.k then droverIllegal s k 2 41
    else if 6 ≤ o.k && dbits lo 63 43 != 0 then droverIllegal s k 3 41
    else if (if o.k < 6 then dbits hi 63 48 != 0 else hi != 0) then droverIllegal s k 4 41
    else if 6 ≤ o.k && 5 < dbits lo 39 37 then droverIllegal s k 3 41
    else
      .next (s.modWing (wingOf k) fun x =>
        let d := x.drover
        let d := { d with shadow := sset (0, 0) d.shadow o.k (lo, hi) }
        { x with drover := if d.went then d else { d with coach := k, issued := true } })

/-! Starting a walk. -/

/-- Whether the table breaks a rule of R306 under code 42. -/
def tableBad (t : Sparse (Dbl × Dbl)) : Bool :=
  let es := streams t
  let unaligned (st : Nat) (n : Int) : Bool :=
    (streamBase t st : Int) % n != 0 || (streamLevels t st).any fun k => stepOf t k st % n != 0
  es.isEmpty || 2 ^ 32 ≤ iterations t ||
    (es.contains 6 && (unaligned 6 16 || ((streamLevels t 6).foldl (fun n k => n * extent t k) 1) % 16 != 0)) ||
    ([7, 8].any fun st => es.contains st && unaligned st 4) ||
    es.any fun st => !streamMem t st && (streamPol t st != 0 || streamHnd t st != 0)

/-- The handle checks of a walk (R306): R198 steps 1 to 7, then absence, stream by stream. Steps 4 and 5 are the check of the bounds, which
R306 puts last. -/
def checkStreams (s : State) (c : Coach) (t : Sparse (Dbl × Dbl)) : Chk :=
  let hs := (streams t).filter (streamMem t)
  let use (n : Nat) : Chk :=
    let h := s.readH c n
    (checkState 2 n h).orElse ((checkKey s c n h).orElse (checkRights n 1#4 h))
  Chk.orElse (hs.foldl (fun (r : Chk) st => r.orElse (use (streamHnd t st))) .ok)
    (hs.foldl (fun (r : Chk) st => r.orElse (checkHere s c (streamHnd t st) false)) .ok)

/-- DGO and DGO.RS (R306): the first stream outside its bounds decides, in stream order. -/
def startWalk (rs : Bool) (o : XDgo) (s : State) : Out :=
  onDrover o.g s fun k c m =>
    let w := wingOf k
    let d := (s.wing w).drover
    if d.st = .running then hold s k
    else if rs && d.st != .suspended then droverIllegal s k 0 43
    else
      let t := if rs then d.active else d.shadow
      if tableBad t then droverIllegal s k 2 42
      else
        let es := streams t
        let x := s.party c.party
        let lane := electedLane c.width m
        let bound (st : Nat) : Chk :=
          if streamMem t st then
            let b := streamBounds t c.width st
            checkBounds lane (s.readH c (streamHnd t st)) b.1 b.2
          else .ok
        let outside (st : Nat) : Bool :=
          !streamMem t st && (let b := streamBounds t c.width st; decide (b.1 < 0) || decide ((x.size : Int) < b.2))
        let first := es.find? fun st => bound st != .ok || outside st
        withChk s k ((checkStreams s c t).orElse ((first.map bound).getD .ok))
          (match first with
           | some st => .next (s.putCoach k (c.touch (guardInfo x.base (streamBounds t c.width st).1)))
           | none =>
             let (c1, fe) := c.openFlag o.f s.cur.seq [] none
             let (id, s1) := (s.putCoach k c1).freshId
             let hs := (es.filter (streamMem t)).map fun st => (st, s.readH c (streamHnd t st))
             .next (s1.modWing w fun x =>
               let d := { d with
                 active := t, pos := if rs then d.pos else 0, st := .running, coach := k, issued := true, went := true, fe := some fe,
                 old := d.old ++ (match d.fe with | some e => [(d.coach, e, d.id)] | none => []),
                 f := o.f, id := id, addr := s.cur.pc, cycle := s.cur.cycle,
                 hs := ssetAll Handle.blank [] hs, next := s.cur.cycle }
               { x with drover := d }))

def execDgo (o : XDgo) (s : State) : Out := startWalk false o s
def execDgoRs (o : XDgo) (s : State) : Out := startWalk true o s

/-! The walk. -/

/-- The queue of a stream, and its capacity (R309). -/
def Drover.queue (d : Drover) (st : Nat) : List Beat := if st = 6 then d.sa else if st = 7 then d.q0 else d.q1
def queueCap (st : Nat) : Nat := if st = 6 then 64 else 16

def Drover.setQueue (d : Drover) (st : Nat) (q : List Beat) : Drover :=
  if st = 6 then { d with sa := q } else if st = 7 then { d with q0 := q } else { d with q1 := q }

/-- The indices of iteration n, i0 first (R308). -/
def indicesOf (t : Sparse (Dbl × Dbl)) (n : Nat) : List Nat :=
  ((upto 6).foldl (fun (r : List Nat × Nat) k => (r.1 ++ [r.2 % extent t k], r.2 / extent t k)) ([], n)).1

/-- The streams that read in an iteration (R303, R308). -/
def Drover.reads (d : Drover) (is : List Nat) : List Nat :=
  (streams d.active).filter fun st => (upto (streamLvl d.active st)).all fun k => nth is k 0 == 0

/-- The offset that a stream reads (R308). -/
def streamAddr (t : Sparse (Dbl × Dbl)) (st : Nat) (is : List Nat) : Nat :=
  ((streamLevels t st).foldl (fun a k => a + (nth is k 0 : Nat) * stepOf t k st) (streamBase t st : Int)).toNat

/-- No beat. -/
def Beat.blank : Beat :=
  { id := 0, len := 0, here := false, bytes := [], place := .nowhere, va := 0, asked := false, cached := false, stamp := 0, left := 0,
    page := 1, coach := 0, go := 0, line := none }

/-- A beat whose read is issued. -/
def State.newBeat (s : State) (d : Drover) (st addr : Nat) : Beat × State :=
  let (id, s1) := s.freshId
  let c := s.coach d.coach
  let x := s.party c.party
  let h := sget Handle.blank d.hs st
  let mem := streamMem d.active st
  let pol := streamPol d.active st
  let place := if mem then s.handlePlace h addr else .sram x.core (x.base + addr)
  let epoch := s.stampNow c.asid.toNat (dieOf d.coach) c.party
  ({ id := id, len := beatSize c.width st, here := false, bytes := [], place := place,
     va := if mem then h.vbase.toNat + addr else 0, asked := false, cached := mem && pol ≤ 1,
     stamp := epoch, left := epoch, page := if mem then pageBytes h.size else 1, coach := d.coach,
     go := d.id, line := none, noalloc := mem && pol == 3 }, s1)

/-- Whether a Drover's walk goes on: its party is neither halted nor saved, or it has ended with the walk outstanding (R126, R308). -/
def State.walkLives (s : State) (d : Drover) : Bool :=
  let p := (s.party (s.coach d.coach).party).st
  p == .running || p == .ended

/-- DROVER_ITERATION (R308 to R310). -/
def execDroverIteration (wing : Nat) (s : State) : Out :=
  let d := (s.wing wing).drover
  let die := s.die (dieOfCore (coreOfWing wing))
  let is := indicesOf d.active d.pos
  let sts := d.reads is
  if d.st != .running || iterations d.active ≤ d.pos || die.gated || die.cycle < max d.next (d.cycle + 2) ||
      !s.walkLives d || sts.any fun st => queueCap st ≤ (d.queue st).length then .next s
  else
    let (d1, s1) := sts.foldl (fun (r : Drover × State) st =>
      let (b, t) := r.2.newBeat d st (streamAddr d.active st is)
      (r.1.setQueue st (r.1.queue st ++ [b]), t)) (d, s)
    .next (s1.modWing wing fun x => { x with drover := { d1 with pos := d.pos + 1, next := die.cycle + 1 } })

/-- The beat of a Drover with a number, and its stream. -/
def Drover.beat? (d : Drover) (id : Nat) : Option (Nat × Beat) :=
  [6, 7, 8].findSome? fun st => ((d.queue st).find? fun b => b.id == id).map fun b => (st, b)

def State.putBeat (s : State) (wing st : Nat) (b : Beat) : State :=
  s.modWing wing fun x =>
    { x with drover := x.drover.setQueue st ((x.drover.queue st).map fun y => if y.id = b.id then b else y) }

/-- Bytes join a beat; it has arrived once they all have. -/
def Beat.join (b : Beat) (bs : List Byte) : Beat :=
  let all := b.bytes ++ bs
  { b with bytes := all, here := decide (b.len ≤ all.length), asked := false }

/-- Whether the issuing coach's earlier accesses let a beat's bytes be read: as a load of that coach in the place of its DGO
(R311). -/
def State.walkClear (s : State) (b : Beat) (p : Place) (n : Nat) : Bool :=
  s.ops.all fun q => !(q.coach == b.coach && q.id < b.go &&
    (blocks q.kind (.load [] 0 none 0 false) || q.parts.any fun r => r.open && r.touches (Part.make 0 0 p 0 n [])))

/-- The Drover keeps the last 128 sectors that it fetched (R310). -/
def Drover.keep (d : Drover) (secs : List Nat) : Drover :=
  { d with sectors := (secs.reverse ++ d.sectors.filter fun x => !secs.contains x).take 128 }

/-- A sector that the Drover does not keep is fetched, and kept; the reads that its beats make of one 128-byte line are one request,
whichever streams they serve (R310). -/
def State.sectorRequest (s : State) (wing : Nat) (b : Beat) (p : Place) (req : State → State) : State × Beat :=
  let d := (s.wing wing).drover
  let sec := p.key / 32
  let line := p.key / 128
  if d.sectors.contains sec then (s, b)
  else
    let t := s.modWing wing fun x => { x with drover := x.drover.keep [sec] }
    let merged := b.line == some line || (d.sa ++ d.q0 ++ d.q1).any fun x => !x.here && x.line == some line
    if merged then (t, { b with line := some line }) else (req t, { b with line := some line })

/-- The epoch that a beat's read carries to a home on a die (R332). -/
def Beat.stampAt (b : Beat) (home : Nat) : Nat := if home = dieOf b.coach then b.stamp else b.left

/-- A beat's read and its answer travel as those of a command do (R333, R334). -/
def State.beatTravel (s : State) (b : Beat) (home : Nat) : State × Bool :=
  let asid := (s.coach b.coach).asid.toNat
  let (s, ok) := s.stampOk asid home (b.stampAt home)
  if !ok then (s, false) else s.answerCrosses asid home (dieOf b.coach) (s.coach b.coach).party

/-- DROVER_BEAT_ARRIVAL (R308, R310, R311): the next bytes of a beat, up to an 8-byte boundary, are read as a load of the
coach that issued DGO. -/
def execDroverBeatArrival (wing beat : Nat) (s : State) : Out :=
  let d := (s.wing wing).drover
  match d.beat? beat with
  | none => .next s
  | some (st, b) =>
    let off := b.bytes.length
    let p := b.place.plus off
    let n := min (b.len - off) (8 - p.key % 8)
    let die := s.die (dieOf b.coach)
    let c := s.coach b.coach
    let asid := c.asid.toNat
    if b.here || b.asked || die.gated || die.cycle < d.cycle + 2 || s.ahead asid (dieOf b.coach) b.stamp || !s.walkClear b p n then .next s
    else if b.cached && s.l1Has (coreOf b.coach) p n && s.pick 5200 2 == 0 then
      .next (s.putBeat wing st (b.join (s.l1Bytes (coreOf b.coach) p n))).tickFree
    else
      match p with
      | .home pa enc =>
        if !addressable pa n then .fault (.noMemory pa)
        else
          let stamp := b.stampAt (homeDie pa)
          let (s, ok) := s.beatTravel b (homeDie pa)
          if !ok then .next s.tickFree
          else
            let before := s
            let s := s.fill asid pa enc n (b.va + off)
            if s.poisoned pa n then .next (s.consume b.coach 5 pa d.addr).tickFree
            else
              let (s, b) := (s.markCross asid pa stamp (s.exempts c.party)).sectorRequest wing b p (fun s => s.countDead pa)
              let s := if b.noalloc then s.unallocate before pa n else s
              let own := (s.ownBytes c.party).filter fun h => pa ≤ h.pa && h.pa < pa + n
              .next (s.putBeat wing st (b.join (overlay own pa (s.physBytes pa n)))).tickFree
      | .host ha =>
        let (s, ok) := s.beatTravel b 8
        if !ok then .next s.tickFree
        else
          let (s, b) := s.sectorRequest wing b p (fun s => s.hostRequest asid (b.va + off) false)
          .next (s.putBeat wing st (b.join (mgets s.host ha n))).tickFree
      | .peer _ pa =>
        let (s, ok) := s.sendItem asid b.left [] (fun _ => []) (.read (2 ^ 62 + beat) pa (b.len - off))
        .next (if ok then s.putBeat wing st { b with asked := true } else s).tickFree
      | .sram core o =>
        if s.sramPoison core o n then .next (s.consume b.coach 3 o d.addr).tickFree
        else .next (s.putBeat wing st (b.join (mgets (s.core core).sram o n)))
      | .nowhere => .next (s.putBeat wing st (b.join (List.replicate n 0)))

/-- A peer's answer to a beat's read. -/
def State.beatAnswer (s : State) (req : Nat) (bs : List Byte) : State :=
  match (tkeys s.wings).findSome? fun w => ((s.wing w).drover.beat? (req - 2 ^ 62)).map fun e => (w, e) with
  | some (w, st, b) =>
    if b.asked then
      let n := b.len - b.bytes.length
      let first := (b.place.plus b.bytes.length).key
      (s.modWing w fun x => { x with drover := x.drover.keep (sectorsOf first n) }).putBeat w st
        (b.join ((bs ++ List.replicate b.len 0).take n))
    else s
  | none => s

/-- Whether every reserved beat has arrived. -/
def Drover.arrived (d : Drover) : Bool := (d.sa ++ d.q0 ++ d.q1).all (·.here)

/-- Whether a walk's flag is about to be counted (R308, R315). -/
def Drover.ends (d : Drover) : Bool :=
  !d.old.isEmpty || (d.fe.isSome && (d.st == .suspended || (d.st == .running && iterations d.active ≤ d.pos)))

/-- DROVER_WALK_END (R308, R315): a finished walk becomes idle; a suspended one, or one that a later DGO abandoned, has its flag
counted once its beats have arrived. -/
def execDroverWalkEnd (wing : Nat) (s : State) : Out :=
  let d := (s.wing wing).drover
  let beats := d.sa ++ d.q0 ++ d.q1
  match d.old.find? fun e => beats.all fun b => b.here || b.go != e.2.2 with
  | some e =>
    .next ((s.modWing wing fun x => { x with drover := { d with old := d.old.erase e } }).finishFlag e.1 (some e.2.1) [] [] 0)
  | none =>
    let done := d.st == .running && iterations d.active ≤ d.pos
    if !(d.arrived && d.fe.isSome && (done || d.st == .suspended)) then .next s
    else
      let s1 := s.modWing wing fun x =>
        { x with drover := { d with st := if done then .idle else d.st, fe := none } }
      .next (s1.finishFlag d.coach d.fe [] [] 0)

/-! Pops and status. -/

/-- A result of the X slot that lands, and is counted, at a cycle (R313, R314). -/
def Coach.flagLater (c : Coach) (due seq f : Nat) (w : Write) : Coach :=
  let (c, fe) := c.openFlag f seq [w] none
  let l : Landing := { id := c.fresh, due := due, early := due, seq := seq, w := w, lat := none, fe := some fe }
  { c with inflight := c.inflight ++ [l], fresh := c.fresh + 1 }

/-- DPOP (R313). -/
def execDpop (o : XDpop) (s : State) : Out :=
  onDrover o.g s fun k c m =>
    let w := wingOf k
    let d := (s.wing w).drover
    match d.queue (7 + o.q) with
    | [] =>
      match d.st with
      | .idle => droverIllegal s k 3 45
      | .suspended => raise s k (mkTrap 0x0D 2 (dnat d.shnd))
      | .running => hold s k
    | b :: bs =>
      if !b.here then hold s k
      else if s.poison.any fun p => match p with | .beat v q i => v == w && q == 1 + o.q && i == b.id | _ => false then
        .next (s.consume k 7 b.id s.cur.pc)
      else
        let ws := wordsOfBytes b.bytes
        let s1 := s.modWing w fun x => { x with drover := d.setQueue (7 + o.q) bs }
        .next (s1.putCoach k (c.flagLater (s.cur.cycle + 4) s.cur.seq o.f (.vec (c.renV o.d) m (maskVals m ws))))

/-- Beats at the head of a queue that are visible. -/
def visible : List Beat → Nat
  | [] => 0
  | b :: bs => if b.here then visible bs + 1 else 0

/-- The status double (R314). -/
def Drover.status (d : Drover) : Dbl :=
  let st := match d.st with | .idle => 0 | .running => 1 | .suspended => 2
  let left := if d.st = .idle then 0 else iterations d.active - d.pos
  fld64 st 62 ||| fld64 d.shnd 56 ||| fld64 (visible d.sa / 16) 53 ||| fld64 (visible d.q0) 48 ||| fld64 (visible d.q1) 43 |||
    dnat (left % 2 ^ 32)

/-- DSTAT (R314): it reaches the Drover 2 cycles after issue. -/
def execDstat (o : XDstat) (s : State) : Out :=
  onDrover o.g s fun k c _ =>
    let d := if o.d = 0 then 0 else c.renS o.d
    let w : Write := if d = 0 then .latC 0 else .scl d 0
    let (c1, fe) := c.openFlag o.f s.cur.seq [w] none
    let (id, s1) := (s.putCoach k c1).freshId
    .next (s1.addOp (s1.newOp k c id (.dstat d) (some fe)))

/-- DSTAT reaches the Drover: the status will land 4 cycles after issue. -/
def State.sampleDstat (s : State) (o : Op) (d : Nat) : State :=
  let v := (s.wing (wingOf o.coach)).drover.status
  let w : Write := if d = 0 then .latC v else .scl d v
  (s.dropOp o.id).modCoach o.coach fun c =>
    let l : Landing := { id := c.fresh, due := o.cycle + 4, early := o.cycle + 4, seq := o.seq, w := w, lat := none, fe := o.fe }
    { c with inflight := c.inflight ++ [l], fresh := c.fresh + 1 }

end Sys2Proof.Machine
end

