-- ==== Sys2Proof/WellFormed.lean ====
section
/-! DEFINITION. Which terms of Instr are instructions: operand numbers in range and modifiers that the opcode
defines (R36, R40, R164, R194, R214, R215, R238, R249, R263, R279, R304, R109, R150, R324, R327, R348, R367, R374).
Events carry no encoding and are all well formed. -/

namespace Sys2Proof

def Guard.wf : Guard → Bool
  | .always => true
  | .pred n _ => n < 12

def VSrc.wf : VSrc → Bool
  | .reg n => n < 192
  | .vb k => 1 ≤ k && k ≤ 4
  | .mb k => 1 ≤ k && k ≤ 4
  | .cb k => 1 ≤ k && k ≤ 4
  | .const k => k < 16
  | .bcast k => k < 16
  | .lit _ => true

def VDst.wf : VDst → Bool
  | .reg n => n < 192
  | .latch => true

def SSrc.wf : SSrc → Bool
  | .reg n => n < 64
  | .cb k => 1 ≤ k && k ≤ 4
  | .const k => k < 16
  | .lit _ => true
  | .lit64 _ => true

def SDst.wf : SDst → Bool
  | .reg n => n < 64
  | .latch => true

/-- Not a constant code: the E4M3 and E5M2 sources of R175. -/
def VSrc.notConst : VSrc → Bool
  | .const _ => false
  | _ => true

/-- A data register of R215: any code when `al` is 1, else a register that is a multiple of it. -/
def VSrc.aligned (al : Nat) : VSrc → Bool
  | .reg n => n % al == 0
  | _ => al == 1

def VDst.aligned (al : Nat) : VDst → Bool
  | .reg n => n % al == 0
  | .latch => al == 1

def wfVBin (dupOk mOk : Bool) (o : VBin) : Bool :=
  o.g.wf && o.d.wf && o.a.wf && o.b.wf && (dupOk || !o.dup) && (mOk || !o.m)
def wfVUn (dupOk mOk constOk : Bool) (o : VUn) : Bool :=
  o.g.wf && o.d.wf && o.a.wf && (constOk || o.a.notConst) && (dupOk || !o.dup) && (mOk || !o.m)
def wfVTri (mOk : Bool) (o : VTri) : Bool :=
  o.g.wf && o.d.wf && o.a.wf && o.b.wf && o.c.wf && (mOk || !o.m)
def wfVSel (o : VSel) : Bool := o.g.wf && o.d.wf && o.a.wf && o.b.wf && o.pc < 12
def wfVLane (o : VLane) : Bool := o.g.wf && o.d.wf
def wfVCmp (ccMax : Nat) (o : VCmp) : Bool :=
  o.g.wf && o.pd < 12 && o.cc.toNat < ccMax && o.a.wf && o.b.wf
def wfVChk (o : VChk) : Bool := o.g.wf && o.a.wf && o.b.wf
def VoteSrc.wf : VoteSrc → Bool
  | .vec a => a.wf
  | .prd n => n < 12
def wfVVote (o : VVote) : Bool := o.g.wf && o.pd < 12 && o.a.wf
def wfVBallot (o : VBallot) : Bool := o.g.wf && o.d.wf && o.pa < 12

def wfMXlate (o : MXlate) : Bool := o.g.wf && o.hd < 16 && o.a.wf && o.b.wf
def wfMHrel (o : MHrel) : Bool := o.g.wf && o.hd < 16
def wfMPreq (o : MPreq) : Bool := o.g.wf && o.ha < 16 && o.f < 16
def wfMLoad (al : Nat) (polOk : Bool) (o : MLoad) : Bool :=
  o.g.wf && o.d.wf && o.d.aligned al && o.a.wf && o.h < 16 && o.f < 16 && (!o.rp || o.f < 12) &&
    (polOk || o.pol == .dflt)
def wfMStore (al : Nat) (polOk : Bool) (o : MStore) : Bool :=
  o.g.wf && o.a.wf && o.b.wf && o.b.aligned al && o.h < 16 && o.f < 16 && o.pol != .ro && (polOk || o.pol == .dflt)
def wfMSpLoad (al : Nat) (o : MSpLoad) : Bool := o.g.wf && o.d.wf && o.d.aligned al && o.a.wf && o.f < 16
def wfMSpStore (al : Nat) (o : MSpStore) : Bool := o.g.wf && o.a.wf && o.b.wf && o.b.aligned al && o.f < 16
def wfMCvLoad (o : MCvLoad) : Bool := o.g.wf && o.d.wf && o.a.wf && o.k < 4 && o.f < 16
def wfMCvStore (o : MCvStore) : Bool := o.g.wf && o.a.wf && o.b.wf && o.k < 4 && o.f < 16
def wfMGath (o : MGath) : Bool := o.g.wf && o.d.wf && o.a.wf && o.f < 16 && (!o.rp || o.f < 12)
def wfMAtom (o : MAtom) : Bool := o.g.wf && o.d < 192 && o.a.wf && o.h < 16 && o.f < 16
def wfMCas (o : MCas) : Bool := o.g.wf && o.d < 192 && o.a.wf && o.c.wf && o.h < 16 && o.f < 16
def wfMFence (o : MFence) : Bool := o.g.wf && o.f < 16
def wfMBar (o : MBar) : Bool := o.g.wf && o.a.wf && o.k < 16 && o.f < 16
def wfMArrive (o : MArrive) : Bool := o.g.wf && o.d.wf && o.a.wf && o.k < 16 && o.f < 16
def wfMBarW (o : MBarW) : Bool := o.g.wf && o.a.wf && o.k < 16
def wfMSstep (o : MSstep) : Bool := o.g.wf && o.a.wf && o.f < 16

def wfXTdesc (o : XTdesc) : Bool := o.g.wf && o.k < 16 && o.a.wf && o.h < 16
def wfXCopy (o : XCopy) : Bool := o.g.wf && o.k < 16 && o.f < 16 && o.a < 64 && o.b.wf
def wfXPrefetch (o : XPrefetch) : Bool := o.g.wf && o.k < 16 && o.f < 16 && o.a < 64
def wfXSeal (o : XSeal) : Bool := o.g.wf && o.d < 64 && o.f < 16
def wfXCwait (o : XCwait) : Bool := o.g.wf && o.a.wf
def wfXLodge (o : XLodge) : Bool := o.g.wf && o.f < 16 && o.a < 192
def wfXStream (o : XStream) : Bool := o.g.wf && o.acc < 4 && o.f < 16
def wfXScale (o : XScale) : Bool := o.g.wf && o.f < 16 && o.a < 192 && o.b.wf
def wfXMzero (o : XMzero) : Bool := o.g.wf && o.acc < 4 && o.f < 16
def wfXMrd (o : XMrd) : Bool := o.g.wf && o.d < 192 && o.acc < 4 && o.f < 16 && o.b.wf
def wfXMwr (o : XMwr) : Bool := o.g.wf && o.acc < 4 && o.f < 16 && o.a < 192 && o.b.wf
def wfXDtab (o : XDtab) : Bool := o.g.wf && o.k < 16 && o.a.wf && o.b.wf
def wfXDgo (o : XDgo) : Bool := o.g.wf && o.f < 16
def wfXDpop (o : XDpop) : Bool := o.g.wf && o.d < 192 && o.q < 2 && o.f < 16
def wfXDstat (o : XDstat) : Bool := o.g.wf && o.d < 64 && o.f < 16

/-- `mMax` is the largest MOD that the opcode defines (R109). -/
def wfCBin (mMax : Nat) (o : CBin) : Bool := o.g.wf && o.d.wf && o.a.wf && o.b.wf && o.m.toNat ≤ mMax
def wfCUn (o : CUn) : Bool := o.g.wf && o.d.wf && o.a.wf
def wfCCmp (o : CCmp) : Bool := o.g.wf && o.pd < 12 && o.a.wf && o.b.wf && o.cc.toNat < 6
def wfCPredBin (o : CPredBin) : Bool := o.g.wf && o.pd < 12 && o.pa < 12 && o.pb < 12
def wfCPnot (o : CPnot) : Bool := o.g.wf && o.pd < 12 && o.pa < 12
def wfCP2s (o : CP2s) : Bool := o.g.wf && o.d.wf && o.pa < 12
def wfCS2p (o : CS2p) : Bool := o.g.wf && o.pd < 12 && o.a.wf
def ChkSrc.wf : ChkSrc → Bool
  | .scalars a b => a.wf && b.wf
  | .preds pa pb => pa < 12 && pb < 12
def wfCChk (o : CChk) : Bool := o.g.wf && o.s.wf
def Target.wf : Target → Bool
  | .rel _ => true
  | .abs a => a.wf
def wfCBra (o : CBra) : Bool := o.g.wf && o.t.wf
def wfCCall (o : CCall) : Bool := o.g.wf && o.d.wf && o.t.wf
def wfCSrc (o : CSrc) : Bool := o.g.wf && o.a.wf
def wfCSrc2 (o : CSrc2) : Bool := o.g.wf && o.a.wf && o.b.wf
def wfCJtab (o : CJtab) : Bool := o.a.wf && (o.call.map SDst.wf).getD true
def wfCSplit (o : CSplit) : Bool := o.p < 12
def wfCGuard (o : CGuard) : Bool := o.g.wf
def wfCLsetup (o : CLsetup) : Bool := o.a.wf && o.b.wf
def wfCWait (o : CWait) : Bool := o.g.wf && o.f < 16 && o.b.wf
def wfCMon (o : CMon) : Bool := o.g.wf && o.h < 16 && o.b.wf
def wfCMwait (o : CMwait) : Bool := o.g.wf && o.d.wf && o.a.wf
def wfCSysrd (o : CSysrd) : Bool := o.g.wf && o.d.wf
def wfCSyswr (o : CSyswr) : Bool := o.g.wf && o.b.wf
def wfCMem (o : CMem) : Bool := o.g.wf && o.d < 64 && o.h < 16 && o.f < 16 && o.b.wf
def wfCSnap (o : CSnap) : Bool := o.g.wf && o.d < 64 && o.h < 16 && o.f < 16 && o.b.wf
def wfCNextTile (o : CNextTile) : Bool := o.g.wf && 48 ≤ o.d && o.d < 64 && o.p < 8 && o.p % 2 == 0
def wfCCommit (o : CCommit) : Bool := o.g.wf && o.a.wf && o.f < 16
def wfCSnapq (o : CSnapq) : Bool := o.g.wf && o.d < 64 && o.f < 16
def wfCTick (o : CTick) : Bool := o.g.wf && o.d < 64
def wfCStatq (o : CStatq) : Bool := o.g.wf && o.d < 64 && o.k < 4 && o.f < 16

/-- Well-formed instructions and events. -/
def Instr.wf : Instr → Bool
  | .nop _ _ => true
  | .rot => true
  | .lend => true
  | .iaddI32 o => wfVBin true true o
  | .isubI32 o => wfVBin true true o
  | .imulI32 o => wfVBin true false o
  | .imulhI32 o => wfVBin true false o
  | .imulhN32 o => wfVBin true false o
  | .imadI32 o => wfVTri false o
  | .iminI32 o => wfVBin true false o
  | .imaxI32 o => wfVBin true false o
  | .iminN32 o => wfVBin true false o
  | .imaxN32 o => wfVBin true false o
  | .vAnd o => wfVBin true false o
  | .vOr o => wfVBin true false o
  | .vXor o => wfVBin true false o
  | .vShl o => wfVBin true false o
  | .shrN32 o => wfVBin true false o
  | .shrI32 o => wfVBin true false o
  | .vPopc o => wfVUn true false true o
  | .vClz o => wfVUn true false true o
  | .vBfx o => wfVBin true true o
  | .sel o => wfVSel o
  | .vMov o => wfVUn true false true o
  | .idp4I8 o => wfVTri true o
  | .idp4N8 o => wfVTri true o
  | .laneid o => wfVLane o
  | .icmpI32 o => wfVCmp 6 o
  | .icmpN32 o => wfVCmp 6 o
  | .chkV o => wfVChk o
  | .faddF32 o => wfVBin true true o
  | .fsubF32 o => wfVBin true true o
  | .fmulF32 o => wfVBin true true o
  | .ffmaF32 o => wfVTri true o
  | .fminF32 o => wfVBin true false o
  | .fmaxF32 o => wfVBin true false o
  | .fcmpF32 o => wfVCmp 8 o
  | .frndF32 o => wfVUn true true true o
  | .faddF16x2 o => wfVBin true true o
  | .fmulF16x2 o => wfVBin true true o
  | .ffmaF16x2 o => wfVTri true o
  | .faddB16x2 o => wfVBin true true o
  | .fmulB16x2 o => wfVBin true true o
  | .ffmaB16x2 o => wfVTri true o
  | .cvtF32I32 o => wfVUn true true true o
  | .cvtF32N32 o => wfVUn true true true o
  | .cvtI32F32 o => wfVUn true true true o
  | .cvtN32F32 o => wfVUn true true true o
  | .cvtF16x2F32 o => wfVBin true true o
  | .cvtB16x2F32 o => wfVBin true true o
  | .cvtF32F16 o => wfVUn true false true o
  | .cvtF32B16 o => wfVUn true false true o
  | .cvtE4m3x2F32 o => wfVBin true true o
  | .cvtE5m2x2F32 o => wfVBin true true o
  | .cvtF32E4m3 o => wfVUn true false false o
  | .cvtF32E5m2 o => wfVUn true false false o
  | .rcpF32 o => wfVUn false false true o
  | .rsqF32 o => wfVUn false false true o
  | .sqrtF32 o => wfVUn false false true o
  | .exp2F32 o => wfVUn false false true o
  | .log2F32 o => wfVUn false false true o
  | .sinF32 o => wfVUn false false true o
  | .cosF32 o => wfVUn false false true o
  | .tanhF32 o => wfVUn false false true o
  | .shflIdx o => wfVBin false false o
  | .shflUp o => wfVBin false false o
  | .shflDn o => wfVBin false false o
  | .shflXor o => wfVBin false false o
  | .voteAny o => wfVVote o
  | .voteAll o => wfVVote o
  | .ballot o => wfVBallot o
  | .redIadd o => wfVUn false false true o
  | .redFaddF32 o => wfVUn false true true o
  | .scanIadd o => wfVUn false true true o
  | .blkqD8 o => wfVUn false true true o
  | .blkqD4 o => wfVUn false true true o
  | .xlate o => wfMXlate o
  | .hrel o => wfMHrel o
  | .preq o => wfMPreq o
  | .ldN8 o => wfMLoad 1 true o
  | .ldN16 o => wfMLoad 1 true o
  | .ldW o => wfMLoad 1 true o
  | .ldD o => wfMLoad 2 true o
  | .ldQ o => wfMLoad 4 true o
  | .stB o => wfMStore 1 true o
  | .stH o => wfMStore 1 true o
  | .stW o => wfMStore 1 true o
  | .stD o => wfMStore 2 true o
  | .stQ o => wfMStore 4 true o
  | .ldsW o => wfMSpLoad 1 o
  | .ldsQ o => wfMSpLoad 4 o
  | .stsW o => wfMSpStore 1 o
  | .stsQ o => wfMSpStore 4 o
  | .ldcW o => wfMCvLoad o
  | .stcW o => wfMCvStore o
  | .gathW o => wfMGath o
  | .ldaW o => wfMLoad 1 false o
  | .stlW o => wfMStore 1 false o
  | .fenceAcq o => wfMFence o
  | .fenceRel o => wfMFence o
  | .fenceFull o => wfMFence o
  | .aaddI32 o => wfMAtom o
  | .aaddF32 o => wfMAtom o
  | .aminI32 o => wfMAtom o
  | .amaxI32 o => wfMAtom o
  | .aand o => wfMAtom o
  | .aor o => wfMAtom o
  | .axchg o => wfMAtom o
  | .acas o => wfMCas o
  | .barinit o => wfMBar o
  | .arrive o => wfMArrive o
  | .arrivew o => wfMBarW o
  | .bwait o => wfMBarW o
  | .bexpect o => wfMBar o
  | .sstep o => wfMSstep o
  | .tdesc o => wfXTdesc o
  | .cpyLd o => wfXCopy o
  | .cpySt o => wfXCopy o
  | .cpym o => wfXCopy o
  | .cpyg o => wfXCopy o
  | .cpyp o => wfXPrefetch o
  | .seal o => wfXSeal o
  | .cwait o => wfXCwait o
  | .mlodge o => wfXLodge o
  | .mstream o => wfXStream o
  | .mscale o => wfXScale o
  | .mzero o => wfXMzero o
  | .mrd o => wfXMrd o
  | .mwr o => wfXMwr o
  | .dtab o => wfXDtab o
  | .dgo o => wfXDgo o
  | .dgoRs o => wfXDgo o
  | .dpop o => wfXDpop o
  | .dstat o => wfXDstat o
  | .add o => wfCBin 2 o
  | .sub o => wfCBin 2 o
  | .mul o => wfCBin 0 o
  | .mulhI64 o => wfCBin 0 o
  | .mulhN64 o => wfCBin 0 o
  | .cAnd o => wfCBin 0 o
  | .cOr o => wfCBin 0 o
  | .cXor o => wfCBin 0 o
  | .cShl o => wfCBin 0 o
  | .shrN64 o => wfCBin 0 o
  | .shrI64 o => wfCBin 0 o
  | .minI64 o => wfCBin 0 o
  | .maxI64 o => wfCBin 0 o
  | .minN64 o => wfCBin 0 o
  | .maxN64 o => wfCBin 0 o
  | .cMov o => wfCUn o
  | .cPopc o => wfCUn o
  | .cClz o => wfCUn o
  | .cBfx o => wfCBin 1 o
  | .scmpI64 o => wfCCmp o
  | .scmpN64 o => wfCCmp o
  | .pand o => wfCPredBin o
  | .por o => wfCPredBin o
  | .pxor o => wfCPredBin o
  | .pnot o => wfCPnot o
  | .p2s o => wfCP2s o
  | .s2p o => wfCS2p o
  | .chkS o => wfCChk o
  | .bra o => wfCBra o
  | .call o => wfCCall o
  | .ret o => wfCSrc o
  | .jtab o => wfCJtab o
  | .split o => wfCSplit o
  | .join => true
  | .exit o => wfCGuard o
  | .kill o => wfCSrc o
  | .lsetup o => wfCLsetup o
  | .wait o => wfCWait o
  | .mon o => wfCMon o
  | .mwait o => wfCMwait o
  | .yield o => wfCSrc o
  | .trap o => wfCSrc o
  | .rett => true
  | .sysrd o => wfCSysrd o
  | .syswr o => wfCSyswr o
  | .brk o => wfCSrc o
  | .brkStep o => wfCSrc o
  | .brkBset o => wfCSrc2 o
  | .brkWset o => wfCSrc2 o
  | .launch o => wfCMem o
  | .nexttile o => wfCNextTile o
  | .commit o => wfCCommit o
  | .snap o => wfCSnap o
  | .snapq o => wfCSnapq o
  | .rollin o => wfCMem o
  | .tick o => wfCTick o
  | .statq o => wfCStatq o
  | .resultLanding _ _ => true
  | .waitEnd _ => true
  | .mwaitWake _ => true
  | .mwaitTimeout _ => true
  | .yieldExpire _ => true
  | .stepTrap _ => true
  | .walkEnd _ => true
  | .memoryAccessComplete _ _ => true
  | .lossNoticeAck _ => true
  | .pageResponse _ _ => true
  | .commitDrainComplete _ _ => true
  | .preemptRequest _ => true
  | .preemptSave _ => true
  | .partyRestore _ => true
  | .tableMismatch _ => true
  | .partyPlace _ => true
  | .priorityPromote _ => true
  | .coachRelease _ => true
  | .launchDone _ => true
  | .tileChunkDeal _ _ => true
  | .superstepComplete _ _ _ => true
  | .courierChunkDelivery _ _ => true
  | .courierSourceRead _ _ => true
  | .courierCommandComplete _ => true
  | .batchComplete _ => true
  | .matrixOpStart _ => true
  | .mlodgeRendezvous _ => true
  | .matrixOpComplete _ _ => true
  | .mstarve _ => true
  | .droverIteration _ => true
  | .droverBeatArrival _ _ => true
  | .droverWalkEnd _ => true
  | .tcqTake => true
  | .context => true
  | .inval _ => true
  | .wbset _ => true
  | .presp => true
  | .release _ => true
  | .tcqCommandComplete => true
  | .atsInvalidation _ _ _ => true
  | .hostBarAccess _ => true
  | .refresh _ => true
  | .refreshAlert _ => true
  | .livegenWrite => true
  | .scrub _ => true
  | .waymarkArrival _ _ => true
  | .linkItemArrival _ _ => true
  | .cutDelayTimeout _ _ => true
  | .granuleDrain _ => true
  | .packageReport _ => true
  | .verdict _ => true
  | .rollbackNotice _ _ => true
  | .auth => true
  | .stopat => true
  | .dieStop _ => true
  | .scan => true
  | .resume => true
  | .dbgen => true
  | .lantern => true
  | .injrd => true
  | .injwr => true
  | .grantExpiry => true
  | .lanternSample _ => true
  | .lanternRecord _ => true
  | .injectorFire _ => true
  | .linkDown _ => true
  | .boot _ => true
  | .recoveryImageWrite _ _ => true
  | .negotiate => true
  | .configWrite _ _ => true
  | .kmqTake => true
  | .kgen => true
  | .kseal => true
  | .kimport => true
  | .kclear => true
  | .currentLimit _ _ => true
  | .thermalLimit _ => true
  | .junctionLimit _ => true
  | .ualinkTraining _ => true
  | .heartbeatTimeout _ _ => true
  | .wingReturnToService _ => true
  | .stewardRestart _ => true
  | .barProgramming _ _ _ _ => true

end Sys2Proof
end

