-- ==== Sys2Proof/Decode.lean ====
section
/-! DEFINITION. The decoder and the encoder of bundles (R29 to R43, R58 to R64 and the encoding tables of each
chapter). Decoding is total: each slot gives an instruction, a malformed field, or a gated opcode. -/

namespace Sys2Proof

/-- The fields of a syllable (R35). -/
structure RawSyl where
  opc : Nat
  grd : Nat
  d : Nat
  a : Nat
  b : Nat
  mod : Nat
  deriving DecidableEq, Repr

/-- A syllable with the literal words that are its own (R43). -/
structure RawOp where
  opc : Nat
  grd : Nat
  d : Nat
  a : Nat
  b : Nat
  mod : Nat
  dup : Bool
  ext : Word
  la : Word × Word
  lb : Word × Word
  lc : Word × Word
  deriving DecidableEq, Repr

/-- A malformed field: its TINFO number (R142) and its value. -/
structure Bad where
  field : Nat
  value : Nat
  deriving DecidableEq, Repr

/-- What one slot decodes to. -/
inductive SlotRes where
  | ok (i : Instr)
  | bad (e : Bad)
  /-- A gated opcode whose feature bit is clear (R63). -/
  | gated (bit : Nat)
  deriving DecidableEq, Repr

/-- A decoded bundle (R31): `hdrBad` when the header has a cause of its own. -/
structure Decoded where
  hdr : Word
  gap : Nat
  litc : Nat
  rot : Bool
  lend : Bool
  hdrBad : Bool
  v : SlotRes
  m : SlotRes
  x : SlotRes
  c : SlotRes
  deriving DecidableEq, Repr

/-- The syllable in the low 40 bits of n (R35). -/
def rawOfBits (n : Nat) : RawSyl :=
  { opc := n / 2 ^ 32 % 256, grd := n / 2 ^ 27 % 32, d := n / 2 ^ 19 % 256, a := n / 2 ^ 11 % 256,
    b := n / 8 % 256, mod := n % 8 }

/-- The 40 bits of a syllable. -/
def RawSyl.bits (r : RawSyl) : Nat :=
  r.opc * 2 ^ 32 + r.grd * 2 ^ 27 + r.d * 2 ^ 19 + r.a * 2 ^ 11 + r.b * 8 + r.mod

/-- The 192 bits of the first six words, word 0 lowest (R29). -/
def bundleBits : List Word → Nat
  | [] => 0
  | w :: ws => w.toNat + 2 ^ 32 * bundleBits ws

/-- R36. -/
def guardOf? (g : Nat) : Option Guard :=
  if g = 15 then some .always
  else if g % 16 < 12 ∧ g < 32 then some (.pred (g % 16) (16 ≤ g))
  else none

/-- R40, vector source; `l` is its literal. -/
def vsrcOf? (c : Nat) (l : Word × Word) : Option VSrc :=
  if c < 0xC0 then some (.reg c)
  else if c < 0xC4 then some (.vb (c - 0xBF))
  else if c < 0xC8 then some (.mb (c - 0xC3))
  else if c < 0xCC then some (.cb (c - 0xC7))
  else if 0xD0 ≤ c ∧ c < 0xE0 then some (.const (c - 0xD0))
  else if 0xE0 ≤ c ∧ c < 0xF0 then some (.bcast (c - 0xE0))
  else if c = 0xFE then some (.lit l.1)
  else none

/-- R40, vector destination. -/
def vdstOf? (c : Nat) : Option VDst :=
  if c < 0xC0 then some (.reg c) else if c = 0xFD then some .latch else none

/-- R40, scalar source. -/
def ssrcOf? (c : Nat) (l : Word × Word) : Option SSrc :=
  if c < 0x40 then some (.reg c)
  else if 0xC8 ≤ c ∧ c < 0xCC then some (.cb (c - 0xC7))
  else if 0xD0 ≤ c ∧ c < 0xE0 then some (.const (c - 0xD0))
  else if c = 0xFE then some (.lit l.1)
  else if c = 0xFF then some (.lit64 (l.2 ++ l.1))
  else none

/-- R40, scalar destination. -/
def sdstOf? (c : Nat) : Option SDst :=
  if c < 0x40 then some (.reg c) else if c = 0xFD then some .latch else none

/-- A number below n. -/
def below? (n c : Nat) : Option Nat := if c < n then some c else none

/-- A packed field: the number below n in [3:0], and the flag in [7:4] (R214). -/
def packed? (n c : Nat) : Option (Nat × Nat) :=
  if c % 16 < n ∧ c < 256 then some (c % 16, c / 16) else none

/-- A field that must hold this value. -/
def fixed? (v c : Nat) : Option Unit := if c = v then some () else none

def policyOf? (n : Nat) : Option Policy :=
  match n with
  | 0 => some .dflt
  | 1 => some .ro
  | 2 => some .nc
  | 3 => some .st
  | _ => none

/-- Takes a field in order: the first that fails is reported. -/
def fld {α : Type} (n v : Nat) (o : Option α) (k : α → SlotRes) : SlotRes :=
  match o with
  | some x => k x
  | none => .bad ⟨n, v⟩

/-- A guard, then D, A and B left to the caller. -/
def grdFld (r : RawOp) (k : Guard → SlotRes) : SlotRes := fld 1 r.grd (guardOf? r.grd) k

def zeroFld (n v : Nat) (k : SlotRes) : SlotRes := fld n v (fixed? 0 v) fun _ => k

/-- The MOD of V syllables (R39): window and bit 0, which must be 0 unless `mOk`. -/
def vmod (mOk : Bool) (r : RawOp) (k : BitVec 2 → Bool → SlotRes) : SlotRes :=
  fld 5 r.mod (if mOk || r.mod % 2 == 0 then some () else none)
    fun _ => k (BitVec.ofNat 2 (r.mod / 2)) (r.mod % 2 == 1)

def decVBin (mk : VBin → Instr) (_dupOk mOk : Bool) (r : RawOp) : SlotRes :=
  grdFld r fun g => fld 2 r.d (vdstOf? r.d) fun d => fld 3 r.a (vsrcOf? r.a r.la) fun a =>
  fld 4 r.b (vsrcOf? r.b r.lb) fun b => vmod mOk r fun w m => .ok (mk ⟨g, r.dup, w, d, a, b, m⟩)

def decVUn (mk : VUn → Instr) (_dupOk mOk constOk : Bool) (r : RawOp) : SlotRes :=
  grdFld r fun g => fld 2 r.d (vdstOf? r.d) fun d =>
  fld 3 r.a ((vsrcOf? r.a r.la).bind fun a => if constOk || a.notConst then some a else none) fun a =>
  zeroFld 4 r.b <| vmod mOk r fun w m => .ok (mk ⟨g, r.dup, w, d, a, m⟩)

/-- The c code of an extension word (R43). -/
def extFld (r : RawOp) (k : Nat → SlotRes) : SlotRes :=
  fld 6 r.ext.toNat (below? 256 r.ext.toNat) k

def decVTri (mk : VTri → Instr) (mOk : Bool) (r : RawOp) : SlotRes :=
  grdFld r fun g => fld 2 r.d (vdstOf? r.d) fun d => fld 3 r.a (vsrcOf? r.a r.la) fun a =>
  fld 4 r.b (vsrcOf? r.b r.lb) fun b => vmod mOk r fun w m => extFld r fun e =>
  fld 6 r.ext.toNat (vsrcOf? e r.lc) fun c => .ok (mk ⟨g, r.dup, w, d, a, b, c, m⟩)

def decVSel (mk : VSel → Instr) (r : RawOp) : SlotRes :=
  grdFld r fun g => fld 2 r.d (vdstOf? r.d) fun d => fld 3 r.a (vsrcOf? r.a r.la) fun a =>
  fld 4 r.b (vsrcOf? r.b r.lb) fun b => vmod true r fun w m => extFld r fun e =>
  fld 6 r.ext.toNat (below? 12 e) fun c => .ok (mk ⟨g, r.dup, w, d, a, b, c, m⟩)

def decVLane (mk : VLane → Instr) (r : RawOp) : SlotRes :=
  grdFld r fun g => fld 2 r.d (vdstOf? r.d) fun d => zeroFld 3 r.a <| zeroFld 4 r.b <|
  vmod false r fun w _ => .ok (mk ⟨g, r.dup, w, d⟩)

/-- The packed D of R165. -/
def decVCmp (mk : VCmp → Instr) (ccMax : Nat) (r : RawOp) : SlotRes :=
  grdFld r fun g =>
  fld 2 r.d (if r.d % 16 < 12 ∧ r.d / 16 < ccMax then some () else none) fun _ =>
  fld 3 r.a (vsrcOf? r.a r.la) fun a => fld 4 r.b (vsrcOf? r.b r.lb) fun b =>
  vmod false r fun w _ => .ok (mk ⟨g, r.dup, w, r.d % 16, BitVec.ofNat 3 (r.d / 16), a, b⟩)

def decVChk (mk : VChk → Instr) (r : RawOp) : SlotRes :=
  grdFld r fun g => zeroFld 2 r.d <| fld 3 r.a (vsrcOf? r.a r.la) fun a => fld 4 r.b (vsrcOf? r.b r.lb) fun b =>
  vmod false r fun w _ => .ok (mk ⟨g, w, a, b⟩)

def decVVote (mk : VVote → Instr) (r : RawOp) : SlotRes :=
  grdFld r fun g => fld 2 r.d (below? 12 r.d) fun d =>
  fld 3 r.a (if r.mod % 2 = 1 then (below? 12 r.a).map .prd else (vsrcOf? r.a r.la).map .vec) fun a =>
  zeroFld 4 r.b <| vmod true r fun w _ => .ok (mk ⟨g, w, d, a⟩)

def decVBallot (mk : VBallot → Instr) (r : RawOp) : SlotRes :=
  grdFld r fun g => fld 2 r.d (vdstOf? r.d) fun d => fld 3 r.a (below? 12 r.a) fun a =>
  zeroFld 4 r.b <| vmod true r fun w m => .ok (mk ⟨g, w, d, a, m⟩)

def modFld (v : Nat) (r : RawOp) (k : SlotRes) : SlotRes := fld 5 r.mod (fixed? v r.mod) fun _ => k

def decMXlate (mk : MXlate → Instr) (r : RawOp) : SlotRes :=
  grdFld r fun g => fld 2 r.d (below? 16 r.d) fun d => fld 3 r.a (ssrcOf? r.a r.la) fun a =>
  fld 4 r.b (ssrcOf? r.b r.lb) fun b => modFld 0 r <| .ok (mk ⟨g, d, a, b⟩)

def decMHrel (mk : MHrel → Instr) (r : RawOp) : SlotRes :=
  grdFld r fun g => fld 2 r.d (below? 16 r.d) fun d => zeroFld 3 r.a <| zeroFld 4 r.b <| modFld 0 r <| .ok (mk ⟨g, d⟩)

def decMPreq (mk : MPreq → Instr) (r : RawOp) : SlotRes :=
  grdFld r fun g => zeroFld 2 r.d <| fld 3 r.a (below? 16 r.a) fun a => fld 4 r.b (below? 16 r.b) fun b =>
  fld 5 r.mod (if r.mod % 4 = 0 then some () else none) fun _ => .ok (mk ⟨g, a, b, r.mod / 4 == 1⟩)

/-- The policy in MOD[1:0] and, where `m2` allows it, the bit in MOD[2] (R39). -/
def mmod (m2 roOk polOk : Bool) (r : RawOp) (k : Bool → Policy → SlotRes) : SlotRes :=
  fld 5 r.mod ((policyOf? (r.mod % 4)).bind fun p =>
    if (m2 || r.mod < 4) && (roOk || p != .ro) && (polOk || p == .dflt) then some p else none)
    fun p => k (r.mod / 4 == 1) p

/-- A data register of R215. -/
def alignV (al : Nat) (o : Option VSrc) : Option VSrc := o.bind fun a => if a.aligned al then some a else none
def alignD (al : Nat) (o : Option VDst) : Option VDst := o.bind fun a => if a.aligned al then some a else none

def decMLoad (mk : MLoad → Instr) (al : Nat) (polOk : Bool) (r : RawOp) : SlotRes :=
  grdFld r fun g => fld 2 r.d (alignD al (vdstOf? r.d)) fun d => fld 3 r.a (vsrcOf? r.a r.la) fun a =>
  fld 4 r.b ((packed? 16 r.b).bind fun p => if r.mod < 4 ∨ p.2 < 12 then some p else none) fun p =>
  mmod true true polOk r fun rp pol => .ok (mk ⟨g, d, a, p.1, p.2, rp, pol⟩)

def decMStore (mk : MStore → Instr) (al : Nat) (polOk : Bool) (r : RawOp) : SlotRes :=
  grdFld r fun g => fld 2 r.d (packed? 16 r.d) fun p => fld 3 r.a (vsrcOf? r.a r.la) fun a =>
  fld 4 r.b (alignV al (vsrcOf? r.b r.lb)) fun b =>
  mmod false false polOk r fun _ pol => .ok (mk ⟨g, a, b, p.1, p.2, pol⟩)

def decMSpLoad (mk : MSpLoad → Instr) (al : Nat) (r : RawOp) : SlotRes :=
  grdFld r fun g => fld 2 r.d (alignD al (vdstOf? r.d)) fun d => fld 3 r.a (vsrcOf? r.a r.la) fun a =>
  fld 4 r.b (packed? 1 r.b) fun p => modFld 0 r <| .ok (mk ⟨g, d, a, p.2⟩)

def decMSpStore (mk : MSpStore → Instr) (al : Nat) (r : RawOp) : SlotRes :=
  grdFld r fun g => fld 2 r.d (packed? 1 r.d) fun p => fld 3 r.a (vsrcOf? r.a r.la) fun a =>
  fld 4 r.b (alignV al (vsrcOf? r.b r.lb)) fun b => modFld 0 r <| .ok (mk ⟨g, a, b, p.2⟩)

def decMCvLoad (mk : MCvLoad → Instr) (r : RawOp) : SlotRes :=
  grdFld r fun g => fld 2 r.d (vdstOf? r.d) fun d => fld 3 r.a (vsrcOf? r.a r.la) fun a =>
  fld 4 r.b (packed? 4 r.b) fun p => modFld 0 r <| .ok (mk ⟨g, d, a, p.1, p.2⟩)

def decMCvStore (mk : MCvStore → Instr) (r : RawOp) : SlotRes :=
  grdFld r fun g => fld 2 r.d (packed? 4 r.d) fun p => fld 3 r.a (vsrcOf? r.a r.la) fun a =>
  fld 4 r.b (vsrcOf? r.b r.lb) fun b => modFld 0 r <| .ok (mk ⟨g, a, b, p.1, p.2⟩)

def decMGath (mk : MGath → Instr) (r : RawOp) : SlotRes :=
  grdFld r fun g => fld 2 r.d (vdstOf? r.d) fun d => fld 3 r.a (vsrcOf? r.a r.la) fun a =>
  fld 4 r.b ((packed? 1 r.b).bind fun p => if r.mod < 4 ∨ p.2 < 12 then some p else none) fun p =>
  mmod true true true r fun rp pol => .ok (mk ⟨g, d, a, p.2, rp, pol⟩)

def decMAtom (mk : MAtom → Instr) (r : RawOp) : SlotRes :=
  grdFld r fun g => fld 2 r.d (below? 192 r.d) fun d => fld 3 r.a (vsrcOf? r.a r.la) fun a =>
  fld 4 r.b (packed? 16 r.b) fun p => modFld 0 r <| .ok (mk ⟨g, d, a, p.1, p.2⟩)

def decMCas (mk : MCas → Instr) (r : RawOp) : SlotRes :=
  grdFld r fun g => fld 2 r.d (below? 192 r.d) fun d => fld 3 r.a (vsrcOf? r.a r.la) fun a =>
  fld 4 r.b (packed? 16 r.b) fun p => modFld 0 r <| extFld r fun e =>
  fld 6 r.ext.toNat (vsrcOf? e r.lc) fun c => .ok (mk ⟨g, d, a, c, p.1, p.2⟩)

/-- FENCE: the kind in D[1:0] (R238). -/
def decFence (r : RawOp) : SlotRes :=
  grdFld r fun g => fld 2 r.d (if r.d = 1 ∨ r.d = 2 ∨ r.d = 3 then some () else none) fun _ => zeroFld 3 r.a <|
  fld 4 r.b (packed? 1 r.b) fun p => modFld 0 r <|
  .ok (if r.d = 1 then .fenceAcq ⟨g, p.2⟩ else if r.d = 2 then .fenceRel ⟨g, p.2⟩ else .fenceFull ⟨g, p.2⟩)

def decMBar (mk : MBar → Instr) (r : RawOp) : SlotRes :=
  grdFld r fun g => zeroFld 2 r.d <| fld 3 r.a (ssrcOf? r.a r.la) fun a =>
  fld 4 r.b (packed? 16 r.b) fun p => modFld 0 r <| .ok (mk ⟨g, a, p.1, p.2⟩)

def decMArrive (mk : MArrive → Instr) (r : RawOp) : SlotRes :=
  grdFld r fun g => fld 2 r.d (sdstOf? r.d) fun d => fld 3 r.a (ssrcOf? r.a r.la) fun a =>
  fld 4 r.b (packed? 16 r.b) fun p => modFld 0 r <| .ok (mk ⟨g, d, a, p.1, p.2⟩)

def decMBarW (mk : MBarW → Instr) (r : RawOp) : SlotRes :=
  grdFld r fun g => zeroFld 2 r.d <| fld 3 r.a (ssrcOf? r.a r.la) fun a => fld 4 r.b (below? 16 r.b) fun k =>
  modFld 0 r <| .ok (mk ⟨g, a, k⟩)

def decMSstep (mk : MSstep → Instr) (r : RawOp) : SlotRes :=
  grdFld r fun g => zeroFld 2 r.d <| fld 3 r.a (ssrcOf? r.a r.la) fun a => fld 4 r.b (packed? 1 r.b) fun p =>
  modFld 0 r <| .ok (mk ⟨g, a, p.2⟩)

def decXTdesc (mk : XTdesc → Instr) (r : RawOp) : SlotRes :=
  grdFld r fun g => fld 2 r.d (below? 16 r.d) fun d => fld 3 r.a (ssrcOf? r.a r.la) fun a =>
  fld 4 r.b (below? 16 r.b) fun b => modFld 0 r <| .ok (mk ⟨g, d, a, b⟩)

def decCopyWith (mk : XCopy → Instr) (r : RawOp) (k : SlotRes → SlotRes) : SlotRes :=
  grdFld r fun g => fld 2 r.d (packed? 16 r.d) fun p => fld 3 r.a (below? 64 r.a) fun a =>
  fld 4 r.b (ssrcOf? r.b r.lb) fun b => k (.ok (mk ⟨g, p.1, p.2, a, b⟩))

/-- CPY: MOD[0] is 0 for .LD and 1 for .ST (R269). -/
def decCpy (r : RawOp) : SlotRes :=
  if r.mod = 1 then decCopyWith .cpySt r (modFld 1 r) else decCopyWith .cpyLd r (modFld 0 r)

def decXCopy (mk : XCopy → Instr) (r : RawOp) : SlotRes := decCopyWith mk r (modFld 0 r)

def decXPrefetch (mk : XPrefetch → Instr) (r : RawOp) : SlotRes :=
  grdFld r fun g => fld 2 r.d (packed? 16 r.d) fun p => fld 3 r.a (below? 64 r.a) fun a => zeroFld 4 r.b <|
  modFld 0 r <| .ok (mk ⟨g, p.1, p.2, a⟩)

def decXSeal (mk : XSeal → Instr) (r : RawOp) : SlotRes :=
  grdFld r fun g => fld 2 r.d (below? 64 r.d) fun d => zeroFld 3 r.a <| fld 4 r.b (packed? 1 r.b) fun p =>
  modFld 0 r <| .ok (mk ⟨g, d, p.2⟩)

def decXCwait (mk : XCwait → Instr) (r : RawOp) : SlotRes :=
  grdFld r fun g => zeroFld 2 r.d <| fld 3 r.a (ssrcOf? r.a r.la) fun a => zeroFld 4 r.b <| modFld 0 r <|
  .ok (mk ⟨g, a⟩)

def decXLodge (mk : XLodge → Instr) (r : RawOp) : SlotRes :=
  grdFld r fun g => fld 2 r.d (packed? 16 r.d) fun p => fld 3 r.a (below? 192 r.a) fun a => zeroFld 4 r.b <|
  modFld 0 r <| .ok (mk ⟨g, BitVec.ofNat 4 p.1, p.2, a⟩)

def decXStream (mk : XStream → Instr) (r : RawOp) : SlotRes :=
  grdFld r fun g => fld 2 r.d (packed? 4 r.d) fun p => fld 3 r.a (below? 16 r.a) fun a => zeroFld 4 r.b <|
  fld 5 r.mod (below? 4 r.mod) fun m =>
  .ok (mk ⟨g, p.1, p.2, BitVec.ofNat 4 a, m % 2 == 1, m / 2 == 1⟩)

def decXScale (mk : XScale → Instr) (r : RawOp) : SlotRes :=
  grdFld r fun g => fld 2 r.d (packed? 1 r.d) fun p => fld 3 r.a (below? 192 r.a) fun a =>
  fld 4 r.b (ssrcOf? r.b r.lb) fun b => modFld 0 r <| .ok (mk ⟨g, p.2, a, b⟩)

def decXMzero (mk : XMzero → Instr) (r : RawOp) : SlotRes :=
  grdFld r fun g => fld 2 r.d (packed? 4 r.d) fun p => zeroFld 3 r.a <| zeroFld 4 r.b <| modFld 0 r <|
  .ok (mk ⟨g, p.1, p.2⟩)

def decXMrd (mk : XMrd → Instr) (r : RawOp) : SlotRes :=
  grdFld r fun g => fld 2 r.d (below? 192 r.d) fun d => fld 3 r.a (packed? 4 r.a) fun p =>
  fld 4 r.b (ssrcOf? r.b r.lb) fun b => fld 5 r.mod (below? 2 r.mod) fun m =>
  .ok (mk ⟨g, d, p.1, p.2, b, m == 1⟩)

def decXMwr (mk : XMwr → Instr) (r : RawOp) : SlotRes :=
  grdFld r fun g => fld 2 r.d (packed? 4 r.d) fun p => fld 3 r.a (below? 192 r.a) fun a =>
  fld 4 r.b (ssrcOf? r.b r.lb) fun b => modFld 0 r <| .ok (mk ⟨g, p.1, p.2, a, b⟩)

def decXDtab (mk : XDtab → Instr) (r : RawOp) : SlotRes :=
  grdFld r fun g => fld 2 r.d (below? 16 r.d) fun d => fld 3 r.a (ssrcOf? r.a r.la) fun a =>
  fld 4 r.b (ssrcOf? r.b r.lb) fun b => modFld 0 r <| .ok (mk ⟨g, d, a, b⟩)

/-- DGO: MOD[0] is .RS (R304). -/
def decDgo (r : RawOp) : SlotRes :=
  grdFld r fun g => fld 2 r.d (packed? 1 r.d) fun p => zeroFld 3 r.a <| zeroFld 4 r.b <|
  fld 5 r.mod (below? 2 r.mod) fun m => .ok (if m = 1 then .dgoRs ⟨g, p.2⟩ else .dgo ⟨g, p.2⟩)

def decXDpop (mk : XDpop → Instr) (r : RawOp) : SlotRes :=
  grdFld r fun g => fld 2 r.d (below? 192 r.d) fun d => fld 3 r.a (packed? 2 r.a) fun p => zeroFld 4 r.b <|
  modFld 0 r <| .ok (mk ⟨g, d, p.1, p.2⟩)

def decXDstat (mk : XDstat → Instr) (r : RawOp) : SlotRes :=
  grdFld r fun g => fld 2 r.d (below? 64 r.d) fun d => zeroFld 3 r.a <| fld 4 r.b (packed? 1 r.b) fun p =>
  modFld 0 r <| .ok (mk ⟨g, d, p.2⟩)

def decCBin (mk : CBin → Instr) (mMax : Nat) (r : RawOp) : SlotRes :=
  grdFld r fun g => fld 2 r.d (sdstOf? r.d) fun d => fld 3 r.a (ssrcOf? r.a r.la) fun a =>
  fld 4 r.b (ssrcOf? r.b r.lb) fun b => fld 5 r.mod (below? (mMax + 1) r.mod) fun m =>
  .ok (mk ⟨g, r.dup, d, a, b, BitVec.ofNat 3 m⟩)

def decCUn (mk : CUn → Instr) (r : RawOp) : SlotRes :=
  grdFld r fun g => fld 2 r.d (sdstOf? r.d) fun d => fld 3 r.a (ssrcOf? r.a r.la) fun a => zeroFld 4 r.b <|
  modFld 0 r <| .ok (mk ⟨g, r.dup, d, a⟩)

def decCCmp (mk : CCmp → Instr) (r : RawOp) : SlotRes :=
  grdFld r fun g => fld 2 r.d (below? 12 r.d) fun d => fld 3 r.a (ssrcOf? r.a r.la) fun a =>
  fld 4 r.b (ssrcOf? r.b r.lb) fun b => fld 5 r.mod (below? 6 r.mod) fun m =>
  .ok (mk ⟨g, r.dup, d, a, b, BitVec.ofNat 3 m⟩)

def decCPredBin (mk : CPredBin → Instr) (r : RawOp) : SlotRes :=
  grdFld r fun g => fld 2 r.d (below? 12 r.d) fun d => fld 3 r.a (below? 12 r.a) fun a =>
  fld 4 r.b (below? 12 r.b) fun b => fld 5 r.mod (below? 4 r.mod) fun m =>
  .ok (mk ⟨g, d, a, b, m % 2 == 1, m / 2 == 1⟩)

def decCPnot (mk : CPnot → Instr) (r : RawOp) : SlotRes :=
  grdFld r fun g => fld 2 r.d (below? 12 r.d) fun d => fld 3 r.a (below? 12 r.a) fun a => zeroFld 4 r.b <|
  modFld 0 r <| .ok (mk ⟨g, d, a⟩)

def decCP2s (mk : CP2s → Instr) (r : RawOp) : SlotRes :=
  grdFld r fun g => fld 2 r.d (sdstOf? r.d) fun d => fld 3 r.a (below? 12 r.a) fun a => zeroFld 4 r.b <|
  modFld 0 r <| .ok (mk ⟨g, d, a⟩)

def decCS2p (mk : CS2p → Instr) (r : RawOp) : SlotRes :=
  grdFld r fun g => fld 2 r.d (below? 12 r.d) fun d => fld 3 r.a (ssrcOf? r.a r.la) fun a => zeroFld 4 r.b <|
  modFld 0 r <| .ok (mk ⟨g, d, a⟩)

def decCChk (mk : CChk → Instr) (r : RawOp) : SlotRes :=
  grdFld r fun g => zeroFld 2 r.d <|
  if r.mod % 2 = 1 then
    fld 3 r.a (below? 12 r.a) fun a => fld 4 r.b (below? 12 r.b) fun b => modFld 1 r <| .ok (mk ⟨g, .preds a b⟩)
  else
    fld 3 r.a (ssrcOf? r.a r.la) fun a => fld 4 r.b (ssrcOf? r.b r.lb) fun b => modFld 0 r <|
    .ok (mk ⟨g, .scalars a b⟩)

/-- The A of BRA and CALL: 0xFE and a REL32 literal, or a scalar under .ABS (R109). -/
def targetOf? (r : RawOp) : Option Target :=
  if r.mod % 2 = 1 then (ssrcOf? r.a r.la).map .abs else (fixed? 0xFE r.a).map fun _ => .rel r.la.1

def decCBra (mk : CBra → Instr) (r : RawOp) : SlotRes :=
  grdFld r fun g => zeroFld 2 r.d <| fld 3 r.a (targetOf? r) fun t => zeroFld 4 r.b <|
  fld 5 r.mod (below? 4 r.mod) fun m => .ok (mk ⟨g, t, m / 2 == 1⟩)

def decCCall (mk : CCall → Instr) (r : RawOp) : SlotRes :=
  grdFld r fun g => fld 2 r.d (sdstOf? r.d) fun d => fld 3 r.a (targetOf? r) fun t => zeroFld 4 r.b <|
  fld 5 r.mod (below? 2 r.mod) fun _ => .ok (mk ⟨g, d, t⟩)

def decCSrc (mk : CSrc → Instr) (r : RawOp) : SlotRes :=
  grdFld r fun g => zeroFld 2 r.d <| fld 3 r.a (ssrcOf? r.a r.la) fun a => zeroFld 4 r.b <| modFld 0 r <|
  .ok (mk ⟨g, a⟩)

/-- BRK: the form in MOD (R367). -/
def decBrk (r : RawOp) : SlotRes :=
  grdFld r fun g => zeroFld 2 r.d <| fld 3 r.a (ssrcOf? r.a r.la) fun a =>
  if r.mod = 2 ∨ r.mod = 3 then
    fld 4 r.b (ssrcOf? r.b r.lb) fun b => .ok (if r.mod = 2 then .brkBset ⟨g, a, b⟩ else .brkWset ⟨g, a, b⟩)
  else
    zeroFld 4 r.b <| fld 5 r.mod (below? 2 r.mod) fun m => .ok (if m = 1 then .brkStep ⟨g, a⟩ else .brk ⟨g, a⟩)

/-- The opcodes that take the always guard only (R109, R150). -/
def alwaysFld (r : RawOp) (k : SlotRes) : SlotRes := fld 1 r.grd (fixed? 15 r.grd) fun _ => k

def decCJtab (mk : CJtab → Instr) (r : RawOp) : SlotRes :=
  alwaysFld r <|
  fld 2 r.d (if r.mod % 2 = 1 then (sdstOf? r.d).map some else (fixed? 0 r.d).map fun _ => none) fun d =>
  fld 3 r.a (vsrcOf? r.a r.la) fun a => zeroFld 4 r.b <| fld 5 r.mod (below? 2 r.mod) fun _ => .ok (mk ⟨a, d⟩)

def decCSplit (mk : CSplit → Instr) (r : RawOp) : SlotRes :=
  alwaysFld r <| fld 2 r.d (below? 12 r.d) fun d => fld 3 r.a (fixed? 0xFE r.a) fun _ =>
  fld 4 r.b (fixed? 0xFE r.b) fun _ => fld 5 r.mod (below? 2 r.mod) fun m =>
  .ok (mk ⟨d, m == 1, r.la.1, r.lb.1⟩)

/-- JOIN and RETT: nothing but the opcode and the always guard. -/
def decAlone (i : Instr) (r : RawOp) : SlotRes :=
  alwaysFld r <| zeroFld 2 r.d <| zeroFld 3 r.a <| zeroFld 4 r.b <| modFld 0 r <| .ok i

def decCGuard (mk : CGuard → Instr) (r : RawOp) : SlotRes :=
  grdFld r fun g => zeroFld 2 r.d <| zeroFld 3 r.a <| zeroFld 4 r.b <| modFld 0 r <| .ok (mk ⟨g⟩)

def decCLsetup (mk : CLsetup → Instr) (r : RawOp) : SlotRes :=
  alwaysFld r <| zeroFld 2 r.d <| fld 3 r.a (ssrcOf? r.a r.la) fun a => fld 4 r.b (ssrcOf? r.b r.lb) fun b =>
  modFld 0 r <| .ok (mk ⟨a, b⟩)

def decCWait (mk : CWait → Instr) (r : RawOp) : SlotRes :=
  grdFld r fun g => zeroFld 2 r.d <| fld 3 r.a (below? 16 r.a) fun a => fld 4 r.b (ssrcOf? r.b r.lb) fun b =>
  modFld 0 r <| .ok (mk ⟨g, a, b⟩)

def decCMon (mk : CMon → Instr) (r : RawOp) : SlotRes :=
  grdFld r fun g => zeroFld 2 r.d <| fld 3 r.a (below? 16 r.a) fun a => fld 4 r.b (ssrcOf? r.b r.lb) fun b =>
  modFld 0 r <| .ok (mk ⟨g, a, b⟩)

def decCMwait (mk : CMwait → Instr) (r : RawOp) : SlotRes :=
  grdFld r fun g => fld 2 r.d (sdstOf? r.d) fun d => fld 3 r.a (ssrcOf? r.a r.la) fun a => zeroFld 4 r.b <|
  modFld 0 r <| .ok (mk ⟨g, d, a⟩)

def decCSysrd (mk : CSysrd → Instr) (r : RawOp) : SlotRes :=
  grdFld r fun g => fld 2 r.d (sdstOf? r.d) fun d => fld 3 r.a (fixed? 0xFE r.a) fun _ => zeroFld 4 r.b <|
  modFld 0 r <| .ok (mk ⟨g, d, r.la.1⟩)

def decCSyswr (mk : CSyswr → Instr) (r : RawOp) : SlotRes :=
  grdFld r fun g => zeroFld 2 r.d <| fld 3 r.a (fixed? 0xFE r.a) fun _ => fld 4 r.b (ssrcOf? r.b r.lb) fun b =>
  modFld 0 r <| .ok (mk ⟨g, r.la.1, b⟩)

def decCMem (mk : CMem → Instr) (r : RawOp) : SlotRes :=
  grdFld r fun g => fld 2 r.d (below? 64 r.d) fun d => fld 3 r.a (packed? 16 r.a) fun p =>
  fld 4 r.b (ssrcOf? r.b r.lb) fun b => modFld 0 r <| .ok (mk ⟨g, d, p.1, p.2, b⟩)

def decCSnap (mk : CSnap → Instr) (r : RawOp) : SlotRes :=
  grdFld r fun g => fld 2 r.d (below? 64 r.d) fun d => fld 3 r.a (packed? 16 r.a) fun p =>
  fld 4 r.b (ssrcOf? r.b r.lb) fun b => fld 5 r.mod (below? 2 r.mod) fun m =>
  .ok (mk ⟨g, d, p.1, p.2, b, m == 1⟩)

def decCNextTile (mk : CNextTile → Instr) (r : RawOp) : SlotRes :=
  grdFld r fun g => fld 2 r.d (if 48 ≤ r.d ∧ r.d < 64 then some r.d else none) fun d =>
  fld 3 r.a (if r.a < 8 ∧ r.a % 2 = 0 then some r.a else none) fun a => zeroFld 4 r.b <| modFld 0 r <|
  .ok (mk ⟨g, d, a⟩)

def decCCommit (mk : CCommit → Instr) (r : RawOp) : SlotRes :=
  grdFld r fun g => zeroFld 2 r.d <| fld 3 r.a (ssrcOf? r.a r.la) fun a => fld 4 r.b (below? 16 r.b) fun b =>
  modFld 0 r <| .ok (mk ⟨g, a, b⟩)

def decCSnapq (mk : CSnapq → Instr) (r : RawOp) : SlotRes :=
  grdFld r fun g => fld 2 r.d (below? 64 r.d) fun d => zeroFld 3 r.a <| fld 4 r.b (below? 16 r.b) fun b =>
  modFld 0 r <| .ok (mk ⟨g, d, b⟩)

def decCTick (mk : CTick → Instr) (r : RawOp) : SlotRes :=
  grdFld r fun g => fld 2 r.d (below? 64 r.d) fun d => zeroFld 3 r.a <| zeroFld 4 r.b <| modFld 0 r <|
  .ok (mk ⟨g, d⟩)

def decCStatq (mk : CStatq → Instr) (r : RawOp) : SlotRes :=
  grdFld r fun g => fld 2 r.d (below? 64 r.d) fun d => fld 3 r.a (below? 4 r.a) fun k =>
  fld 4 r.b (below? 16 r.b) fun b => fld 5 r.mod (below? 2 r.mod) fun m => .ok (mk ⟨g, d, k, b, m == 1⟩)

/-- NOP (R38): its guard is ignored. -/
def decNop (s : Slot) (r : RawOp) : SlotRes :=
  zeroFld 2 r.d <| zeroFld 3 r.a <| zeroFld 4 r.b <| modFld 0 r <| .ok (.nop s (BitVec.ofNat 5 r.grd))

/-- The V map (R58). -/
def decodeV (r : RawOp) : SlotRes :=
  match r.opc with
  | 0x00 => decNop .v r
  | 0x01 => decVBin .iaddI32 true true r
  | 0x02 => decVBin .isubI32 true true r
  | 0x03 => decVBin .imulI32 true false r
  | 0x04 => decVBin .imulhI32 true false r
  | 0x05 => decVBin .imulhN32 true false r
  | 0x06 => decVTri .imadI32 false r
  | 0x07 => decVBin .iminI32 true false r
  | 0x08 => decVBin .imaxI32 true false r
  | 0x09 => decVBin .iminN32 true false r
  | 0x0A => decVBin .imaxN32 true false r
  | 0x0B => decVBin .vAnd true false r
  | 0x0C => decVBin .vOr true false r
  | 0x0D => decVBin .vXor true false r
  | 0x0E => decVBin .vShl true false r
  | 0x0F => decVBin .shrN32 true false r
  | 0x10 => decVBin .shrI32 true false r
  | 0x11 => decVUn .vPopc true false true r
  | 0x12 => decVUn .vClz true false true r
  | 0x13 => decVBin .vBfx true true r
  | 0x14 => decVSel .sel r
  | 0x15 => decVUn .vMov true false true r
  | 0x16 => decVTri .idp4I8 true r
  | 0x17 => decVTri .idp4N8 true r
  | 0x18 => decVLane .laneid r
  | 0x19 => decVCmp .icmpI32 6 r
  | 0x1A => decVCmp .icmpN32 6 r
  | 0x1B => decVChk .chkV r
  | 0x20 => decVBin .faddF32 true true r
  | 0x21 => decVBin .fsubF32 true true r
  | 0x22 => decVBin .fmulF32 true true r
  | 0x23 => decVTri .ffmaF32 true r
  | 0x24 => decVBin .fminF32 true false r
  | 0x25 => decVBin .fmaxF32 true false r
  | 0x26 => decVCmp .fcmpF32 8 r
  | 0x27 => decVUn .frndF32 true true true r
  | 0x28 => decVBin .faddF16x2 true true r
  | 0x29 => decVBin .fmulF16x2 true true r
  | 0x2A => decVTri .ffmaF16x2 true r
  | 0x2B => decVBin .faddB16x2 true true r
  | 0x2C => decVBin .fmulB16x2 true true r
  | 0x2D => decVTri .ffmaB16x2 true r
  | 0x30 => decVUn .cvtF32I32 true true true r
  | 0x31 => decVUn .cvtF32N32 true true true r
  | 0x32 => decVUn .cvtI32F32 true true true r
  | 0x33 => decVUn .cvtN32F32 true true true r
  | 0x34 => decVBin .cvtF16x2F32 true true r
  | 0x35 => decVBin .cvtB16x2F32 true true r
  | 0x36 => decVUn .cvtF32F16 true false true r
  | 0x37 => decVUn .cvtF32B16 true false true r
  | 0x38 => decVBin .cvtE4m3x2F32 true true r
  | 0x39 => decVBin .cvtE5m2x2F32 true true r
  | 0x3A => decVUn .cvtF32E4m3 true false false r
  | 0x3B => decVUn .cvtF32E5m2 true false false r
  | 0x40 => decVUn .rcpF32 false false true r
  | 0x41 => decVUn .rsqF32 false false true r
  | 0x42 => decVUn .sqrtF32 false false true r
  | 0x43 => decVUn .exp2F32 false false true r
  | 0x44 => decVUn .log2F32 false false true r
  | 0x45 => decVUn .sinF32 false false true r
  | 0x46 => decVUn .cosF32 false false true r
  | 0x47 => decVUn .tanhF32 false false true r
  | 0x50 => decVBin .shflIdx false false r
  | 0x51 => decVBin .shflUp false false r
  | 0x52 => decVBin .shflDn false false r
  | 0x53 => decVBin .shflXor false false r
  | 0x54 => decVVote .voteAny r
  | 0x55 => decVVote .voteAll r
  | 0x56 => decVBallot .ballot r
  | 0x57 => decVUn .redIadd false false true r
  | 0x58 => decVUn .redFaddF32 false true true r
  | 0x59 => decVUn .scanIadd false true true r
  | 0x5A => decVUn .blkqD8 false true true r
  | 0x5B => decVUn .blkqD4 false true true r
  | o => .bad ⟨0, o⟩

/-- The M map (R60). -/
def decodeM (r : RawOp) : SlotRes :=
  match r.opc with
  | 0x00 => decNop .m r
  | 0x01 => decMXlate .xlate r
  | 0x02 => decMHrel .hrel r
  | 0x03 => decMPreq .preq r
  | 0x08 => decMLoad .ldN8 1 true r
  | 0x09 => decMLoad .ldN16 1 true r
  | 0x0A => decMLoad .ldW 1 true r
  | 0x0B => decMLoad .ldD 2 true r
  | 0x0C => decMLoad .ldQ 4 true r
  | 0x10 => decMStore .stB 1 true r
  | 0x11 => decMStore .stH 1 true r
  | 0x12 => decMStore .stW 1 true r
  | 0x13 => decMStore .stD 2 true r
  | 0x14 => decMStore .stQ 4 true r
  | 0x18 => decMSpLoad .ldsW 1 r
  | 0x19 => decMSpLoad .ldsQ 4 r
  | 0x1A => decMSpStore .stsW 1 r
  | 0x1B => decMSpStore .stsQ 4 r
  | 0x1C => decMCvLoad .ldcW r
  | 0x1D => decMCvStore .stcW r
  | 0x1E => decMGath .gathW r
  | 0x20 => decMLoad .ldaW 1 false r
  | 0x21 => decMStore .stlW 1 false r
  | 0x28 => decFence r
  | 0x30 => decMAtom .aaddI32 r
  | 0x31 => decMAtom .aaddF32 r
  | 0x32 => decMAtom .aminI32 r
  | 0x33 => decMAtom .amaxI32 r
  | 0x34 => decMAtom .aand r
  | 0x35 => decMAtom .aor r
  | 0x36 => decMAtom .axchg r
  | 0x37 => decMCas .acas r
  | 0x40 => decMBar .barinit r
  | 0x41 => decMArrive .arrive r
  | 0x42 => decMBarW .arrivew r
  | 0x43 => decMBarW .bwait r
  | 0x44 => decMBar .bexpect r
  | 0x45 => decMSstep .sstep r
  | o => .bad ⟨0, o⟩

/-- The X map (R61). -/
def decodeX (r : RawOp) : SlotRes :=
  match r.opc with
  | 0x00 => decNop .x r
  | 0x01 => decXTdesc .tdesc r
  | 0x02 => decCpy r
  | 0x03 => decXCopy .cpym r
  | 0x04 => decXCopy .cpyg r
  | 0x05 => decXPrefetch .cpyp r
  | 0x06 => decXSeal .seal r
  | 0x07 => decXCwait .cwait r
  | 0x10 => decXLodge .mlodge r
  | 0x11 => decXStream .mstream r
  | 0x12 => decXScale .mscale r
  | 0x13 => decXMzero .mzero r
  | 0x14 => decXMrd .mrd r
  | 0x15 => decXMwr .mwr r
  | 0x20 => decXDtab .dtab r
  | 0x21 => decDgo r
  | 0x22 => decXDpop .dpop r
  | 0x23 => decXDstat .dstat r
  | o => .bad ⟨0, o⟩

/-- The C map (R62). -/
def decodeC (r : RawOp) : SlotRes :=
  match r.opc with
  | 0x00 => decNop .c r
  | 0x01 => decCBin .add 2 r
  | 0x02 => decCBin .sub 2 r
  | 0x03 => decCBin .mul 0 r
  | 0x04 => decCBin .mulhI64 0 r
  | 0x05 => decCBin .mulhN64 0 r
  | 0x06 => decCBin .cAnd 0 r
  | 0x07 => decCBin .cOr 0 r
  | 0x08 => decCBin .cXor 0 r
  | 0x09 => decCBin .cShl 0 r
  | 0x0A => decCBin .shrN64 0 r
  | 0x0B => decCBin .shrI64 0 r
  | 0x0C => decCBin .minI64 0 r
  | 0x0D => decCBin .maxI64 0 r
  | 0x0E => decCBin .minN64 0 r
  | 0x0F => decCBin .maxN64 0 r
  | 0x10 => decCUn .cMov r
  | 0x11 => decCUn .cPopc r
  | 0x12 => decCUn .cClz r
  | 0x13 => decCBin .cBfx 1 r
  | 0x14 => decCCmp .scmpI64 r
  | 0x15 => decCCmp .scmpN64 r
  | 0x18 => decCPredBin .pand r
  | 0x19 => decCPredBin .por r
  | 0x1A => decCPredBin .pxor r
  | 0x1B => decCPnot .pnot r
  | 0x1C => decCP2s .p2s r
  | 0x1D => decCS2p .s2p r
  | 0x1E => decCChk .chkS r
  | 0x20 => decCBra .bra r
  | 0x21 => decCCall .call r
  | 0x22 => decCSrc .ret r
  | 0x23 => decCJtab .jtab r
  | 0x24 => decCSplit .split r
  | 0x25 => decAlone .join r
  | 0x26 => decCGuard .exit r
  | 0x27 => decCSrc .kill r
  | 0x2C => decCLsetup .lsetup r
  | 0x30 => decCWait .wait r
  | 0x31 => decCMon .mon r
  | 0x32 => decCMwait .mwait r
  | 0x33 => decCSrc .yield r
  | 0x38 => decCSrc .trap r
  | 0x39 => decAlone .rett r
  | 0x3A => decCSysrd .sysrd r
  | 0x3B => decCSyswr .syswr r
  | 0x3C => decBrk r
  | 0x40 => decCMem .launch r
  | 0x41 => decCNextTile .nexttile r
  | 0x42 => decCCommit .commit r
  | 0x48 => decCSnap .snap r
  | 0x49 => decCSnapq .snapq r
  | 0x4A => decCMem .rollin r
  | 0x50 => decCTick .tick r
  | 0x51 => decCStatq .statq r
  | o => .bad ⟨0, o⟩

def decodeSlot : Slot → RawOp → SlotRes
  | .v, r => decodeV r
  | .m, r => decodeM r
  | .x, r => decodeX r
  | .c, r => decodeC r

/-- The feature bit that gates an opcode (R63). -/
def gateBit : Slot → Nat → Option Nat
  | .v, o => if o = 0x5B then some 9 else if 0x60 ≤ o ∧ o < 0x70 then some (256 + (o - 0x60)) else none
  | .m, o => if 0x60 ≤ o ∧ o < 0x70 then some (272 + (o - 0x60)) else none
  | .x, o => if 0x60 ≤ o ∧ o < 0x70 then some (288 + (o - 0x60)) else none
  | .c, o => if 0x48 ≤ o ∧ o < 0x4B then some 24 else if 0x70 ≤ o ∧ o < 0x80 then some (304 + (o - 0x70)) else none

/-- Opcodes that may be duplicates (R59, R62). -/
def dupOk : Slot → Nat → Bool
  | .v, o => (1 ≤ o && o ≤ 0x1A) || (0x20 ≤ o && o ≤ 0x2D) || (0x30 ≤ o && o ≤ 0x3B)
  | .c, o => 1 ≤ o && o ≤ 0x15
  | _, _ => false

/-- Opcodes with an extension word (R43): V three-source opcodes and ACAS. -/
def hasExt : Slot → Nat → Bool
  | .v, o => o == 0x06 || o == 0x14 || o == 0x16 || o == 0x17 || o == 0x23 || o == 0x2A || o == 0x2D
  | .m, o => o == 0x37
  | _, _ => false

/-- Extension words whose c is of vector kind: all but SEL's. -/
def extVec (s : Slot) (o : Nat) : Bool := hasExt s o && !(s == .v && o == 0x14)

/-- Whether A is a field that can require literal words (R43). -/
def litA : Slot → Nat → Nat → Bool
  | .v, o, m =>
    (1 ≤ o && o ≤ 0x1B && o != 0x18) || (0x20 ≤ o && o ≤ 0x2D) || (0x30 ≤ o && o ≤ 0x3B) || (0x40 ≤ o && o ≤ 0x47) ||
      (0x50 ≤ o && o ≤ 0x53) || ((o == 0x54 || o == 0x55) && m % 2 == 0) || (0x57 ≤ o && o ≤ 0x5B)
  | .m, o, _ =>
    o == 1 || (0x08 ≤ o && o ≤ 0x0C) || (0x10 ≤ o && o ≤ 0x14) || (0x18 ≤ o && o ≤ 0x1E) || o == 0x20 || o == 0x21 ||
      (0x30 ≤ o && o ≤ 0x37) || (0x40 ≤ o && o ≤ 0x45)
  | .x, o, _ => (1 ≤ o && o ≤ 5) || o == 7 || o == 0x10 || o == 0x12 || o == 0x15 || o == 0x20
  | .c, o, m =>
    (1 ≤ o && o ≤ 0x15) || o == 0x1D || (o == 0x1E && m % 2 == 0) || (0x20 ≤ o && o ≤ 0x24) || o == 0x27 ||
      o == 0x2C || o == 0x32 || o == 0x33 || o == 0x38 || (0x3A ≤ o && o ≤ 0x3C) || o == 0x42

/-- Whether B is a field that can require literal words (R43). -/
def litB : Slot → Nat → Nat → Bool
  | .v, o, _ =>
    (1 ≤ o && o ≤ 0x10) || o == 0x13 || o == 0x14 || o == 0x16 || o == 0x17 || (0x19 ≤ o && o ≤ 0x1B) ||
      (0x20 ≤ o && o ≤ 0x26) || (0x28 ≤ o && o ≤ 0x2D) || (0x34 ≤ o && o ≤ 0x35) || (0x38 ≤ o && o ≤ 0x39) ||
      (0x50 ≤ o && o ≤ 0x53)
  | .m, o, _ => o == 1 || (0x10 ≤ o && o ≤ 0x14) || o == 0x1A || o == 0x1B || o == 0x1D || o == 0x21
  | .x, o, _ => (2 ≤ o && o ≤ 4) || o == 0x12 || o == 0x14 || o == 0x15 || o == 0x20
  | .c, o, m =>
    (1 ≤ o && o ≤ 0x0F) || (0x13 ≤ o && o ≤ 0x15) || (o == 0x1E && m % 2 == 0) || o == 0x24 || o == 0x2C ||
      o == 0x30 || o == 0x31 || o == 0x3B || (o == 0x3C && (m == 2 || m == 3)) || o == 0x40 || o == 0x48 || o == 0x4A

/-- Words that a field holding code c requires. -/
def codeWords (lit : Bool) (c : Nat) : Nat :=
  if lit then (if c = 0xFE then 1 else if c = 0xFF then 2 else 0) else 0

/-- The words of a syllable, split off the literal area: extension word, A, B, c; the rest; and their number. An absent
gated opcode without an entry in the maps takes none (the model's choice, log 87). -/
def takeLits (s : Slot) (r : RawSyl) (dup : Bool) (ws : List Word) : RawOp × List Word × Nat :=
  let e := if hasExt s r.opc then 1 else 0
  let ext := if hasExt s r.opc then ws.headD 0 else 0
  let na := codeWords (litA s r.opc r.mod) r.a
  let nb := codeWords (litB s r.opc r.mod) r.b
  let nc := codeWords (extVec s r.opc) (ext.toNat % 256)
  let w (k : Nat) : Word := ws.getD k 0
  ({ opc := r.opc, grd := r.grd, d := r.d, a := r.a, b := r.b, mod := r.mod, dup := dup, ext := ext,
     la := (w e, w (e + 1)), lb := (w (e + na), w (e + na + 1)), lc := (w (e + na + nb), w (e + na + nb + 1)) },
   ws.drop (e + na + nb + nc), e + na + nb + nc)

/-- A slot, with its gate (R63): a gated syllable's other fields are not checked. -/
def slotRes (feat : Nat → Bool) (s : Slot) (r : RawOp) : SlotRes :=
  match gateBit s r.opc with
  | some b => if feat b then decodeSlot s r else .gated b
  | none => decodeSlot s r

def isGated (feat : Nat → Bool) (s : Slot) (o : Nat) : Bool :=
  match gateBit s o with
  | some b => !feat b
  | none => false

/-- Decodes the six words of a bundle and its literal words (R29, R31, R43, R64). `feat` is the negotiated mask. -/
def decodeBundle (feat : Nat → Bool) (ws : List Word) (lits : List Word) : Decoded :=
  let n := bundleBits (ws.take 6)
  let hdr := ws.headD 0
  let h := hdr.toNat
  let litc := h / 2 ^ 25 % 8
  let rv := rawOfBits (n / 2 ^ 32)
  let rm := rawOfBits (n / 2 ^ 72)
  let rx := rawOfBits (n / 2 ^ 112)
  let rc := rawOfBits (n / 2 ^ 152)
  let dupv := h / 2 ^ 21 % 2 == 1
  let dupc := h / 2 ^ 24 % 2 == 1
  let tv := takeLits .v rv dupv (lits.take litc)
  let tm := takeLits .m rm false tv.2.1
  let tx := takeLits .x rx false tm.2.1
  let tc := takeLits .c rc dupc tx.2.1
  let anyGated := isGated feat .v rv.opc || isGated feat .m rm.opc || isGated feat .x rx.opc || isGated feat .c rc.opc
  let need := tv.2.2 + tm.2.2 + tx.2.2 + tc.2.2
  { hdr := hdr, gap := h / 2 ^ 28, litc := litc, rot := h / 2 ^ 20 % 2 == 1, lend := h / 2 ^ 16 % 16 == 1,
    hdrBad := h % 2 ^ 16 != 0 || litc > 4 || (!anyGated && need != litc) || h / 2 ^ 16 % 16 > 1 ||
      h / 2 ^ 22 % 4 != 0 || (dupv && !dupOk .v rv.opc) || (dupc && !dupOk .c rc.opc),
    v := slotRes feat .v tv.1, m := slotRes feat .m tm.1, x := slotRes feat .x tx.1, c := slotRes feat .c tc.1 }

/-! The encoder, from the same tables. -/

def Guard.code : Guard → Nat
  | .always => 15
  | .pred n neg => n + (if neg then 16 else 0)

def VSrc.code : VSrc → Nat
  | .reg n => n
  | .vb k => 0xBF + k
  | .mb k => 0xC3 + k
  | .cb k => 0xC7 + k
  | .const k => 0xD0 + k
  | .bcast k => 0xE0 + k
  | .lit _ => 0xFE

def VSrc.lits : VSrc → List Word
  | .lit w => [w]
  | _ => []

def VDst.code : VDst → Nat
  | .reg n => n
  | .latch => 0xFD

def SSrc.code : SSrc → Nat
  | .reg n => n
  | .cb k => 0xC7 + k
  | .const k => 0xD0 + k
  | .lit _ => 0xFE
  | .lit64 _ => 0xFF

def SSrc.lits : SSrc → List Word
  | .lit w => [w]
  | .lit64 d => [d.setWidth 32, (d >>> 32).setWidth 32]
  | _ => []

def SDst.code : SDst → Nat
  | .reg n => n
  | .latch => 0xFD

def Policy.code : Policy → Nat
  | .dflt => 0
  | .ro => 1
  | .nc => 2
  | .st => 3

def bit (b : Bool) : Nat := if b then 1 else 0

/-- An encoded syllable: fields, literal words, duplicate bit. -/
structure EncSyl where
  raw : RawSyl
  lits : List Word
  dup : Bool
  deriving DecidableEq, Repr

def mkSyl (opc : Nat) (g : Guard) (d a b m : Nat) (lits : List Word) (dup : Bool) : EncSyl :=
  { raw := { opc := opc, grd := g.code, d := d, a := a, b := b, mod := m }, lits := lits, dup := dup }

def encVBin (c : Nat) (o : VBin) : EncSyl :=
  mkSyl c o.g o.d.code o.a.code o.b.code (o.win.toNat * 2 + bit o.m) (o.a.lits ++ o.b.lits) o.dup
def encVUn (c : Nat) (o : VUn) : EncSyl :=
  mkSyl c o.g o.d.code o.a.code 0 (o.win.toNat * 2 + bit o.m) o.a.lits o.dup
def encVTri (c : Nat) (o : VTri) : EncSyl :=
  mkSyl c o.g o.d.code o.a.code o.b.code (o.win.toNat * 2 + bit o.m)
    (BitVec.ofNat 32 o.c.code :: (o.a.lits ++ o.b.lits ++ o.c.lits)) o.dup
def encVSel (c : Nat) (o : VSel) : EncSyl :=
  mkSyl c o.g o.d.code o.a.code o.b.code (o.win.toNat * 2 + bit o.m)
    (BitVec.ofNat 32 o.pc :: (o.a.lits ++ o.b.lits)) o.dup
def encVLane (c : Nat) (o : VLane) : EncSyl := mkSyl c o.g o.d.code 0 0 (o.win.toNat * 2) [] o.dup
def encVCmp (c : Nat) (o : VCmp) : EncSyl :=
  mkSyl c o.g (o.cc.toNat * 16 + o.pd) o.a.code o.b.code (o.win.toNat * 2) (o.a.lits ++ o.b.lits) o.dup
def encVChk (c : Nat) (o : VChk) : EncSyl :=
  mkSyl c o.g 0 o.a.code o.b.code (o.win.toNat * 2) (o.a.lits ++ o.b.lits) false
def encVVote (c : Nat) (o : VVote) : EncSyl :=
  match o.a with
  | .vec a => mkSyl c o.g o.pd a.code 0 (o.win.toNat * 2) a.lits false
  | .prd n => mkSyl c o.g o.pd n 0 (o.win.toNat * 2 + 1) [] false
def encVBallot (c : Nat) (o : VBallot) : EncSyl :=
  mkSyl c o.g o.d.code o.pa 0 (o.win.toNat * 2 + bit o.hi) [] false

def encMXlate (c : Nat) (o : MXlate) : EncSyl := mkSyl c o.g o.hd o.a.code o.b.code 0 (o.a.lits ++ o.b.lits) false
def encMHrel (c : Nat) (o : MHrel) : EncSyl := mkSyl c o.g o.hd 0 0 0 [] false
def encMPreq (c : Nat) (o : MPreq) : EncSyl := mkSyl c o.g 0 o.ha o.f (4 * bit o.w) [] false
def encMLoad (c : Nat) (o : MLoad) : EncSyl :=
  mkSyl c o.g o.d.code o.a.code (o.f * 16 + o.h) (4 * bit o.rp + o.pol.code) o.a.lits false
def encMStore (c : Nat) (o : MStore) : EncSyl :=
  mkSyl c o.g (o.f * 16 + o.h) o.a.code o.b.code o.pol.code (o.a.lits ++ o.b.lits) false
def encMSpLoad (c : Nat) (o : MSpLoad) : EncSyl := mkSyl c o.g o.d.code o.a.code (o.f * 16) 0 o.a.lits false
def encMSpStore (c : Nat) (o : MSpStore) : EncSyl :=
  mkSyl c o.g (o.f * 16) o.a.code o.b.code 0 (o.a.lits ++ o.b.lits) false
def encMCvLoad (c : Nat) (o : MCvLoad) : EncSyl := mkSyl c o.g o.d.code o.a.code (o.f * 16 + o.k) 0 o.a.lits false
def encMCvStore (c : Nat) (o : MCvStore) : EncSyl :=
  mkSyl c o.g (o.f * 16 + o.k) o.a.code o.b.code 0 (o.a.lits ++ o.b.lits) false
def encMGath (c : Nat) (o : MGath) : EncSyl :=
  mkSyl c o.g o.d.code o.a.code (o.f * 16) (4 * bit o.rp + o.pol.code) o.a.lits false
def encMAtom (c : Nat) (o : MAtom) : EncSyl := mkSyl c o.g o.d o.a.code (o.f * 16 + o.h) 0 o.a.lits false
def encMCas (c : Nat) (o : MCas) : EncSyl :=
  mkSyl c o.g o.d o.a.code (o.f * 16 + o.h) 0 (BitVec.ofNat 32 o.c.code :: (o.a.lits ++ o.c.lits)) false
def encMFence (c kind : Nat) (o : MFence) : EncSyl := mkSyl c o.g kind 0 (o.f * 16) 0 [] false
def encMBar (c : Nat) (o : MBar) : EncSyl := mkSyl c o.g 0 o.a.code (o.f * 16 + o.k) 0 o.a.lits false
def encMArrive (c : Nat) (o : MArrive) : EncSyl := mkSyl c o.g o.d.code o.a.code (o.f * 16 + o.k) 0 o.a.lits false
def encMBarW (c : Nat) (o : MBarW) : EncSyl := mkSyl c o.g 0 o.a.code o.k 0 o.a.lits false
def encMSstep (c : Nat) (o : MSstep) : EncSyl := mkSyl c o.g 0 o.a.code (o.f * 16) 0 o.a.lits false

def encXTdesc (c : Nat) (o : XTdesc) : EncSyl := mkSyl c o.g o.k o.a.code o.h 0 o.a.lits false
def encXCopy (c m : Nat) (o : XCopy) : EncSyl := mkSyl c o.g (o.f * 16 + o.k) o.a o.b.code m o.b.lits false
def encXPrefetch (c : Nat) (o : XPrefetch) : EncSyl := mkSyl c o.g (o.f * 16 + o.k) o.a 0 0 [] false
def encXSeal (c : Nat) (o : XSeal) : EncSyl := mkSyl c o.g o.d 0 (o.f * 16) 0 [] false
def encXCwait (c : Nat) (o : XCwait) : EncSyl := mkSyl c o.g 0 o.a.code 0 0 o.a.lits false
def encXLodge (c : Nat) (o : XLodge) : EncSyl := mkSyl c o.g (o.f * 16 + o.fmt.toNat) o.a 0 0 [] false
def encXStream (c : Nat) (o : XStream) : EncSyl :=
  mkSyl c o.g (o.f * 16 + o.acc) o.fmt.toNat 0 (bit o.cl + 2 * bit o.z) [] false
def encXScale (c : Nat) (o : XScale) : EncSyl := mkSyl c o.g (o.f * 16) o.a o.b.code 0 o.b.lits false
def encXMzero (c : Nat) (o : XMzero) : EncSyl := mkSyl c o.g (o.f * 16 + o.acc) 0 0 0 [] false
def encXMrd (c : Nat) (o : XMrd) : EncSyl := mkSyl c o.g o.d (o.f * 16 + o.acc) o.b.code (bit o.z) o.b.lits false
def encXMwr (c : Nat) (o : XMwr) : EncSyl := mkSyl c o.g (o.f * 16 + o.acc) o.a o.b.code 0 o.b.lits false
def encXDtab (c : Nat) (o : XDtab) : EncSyl := mkSyl c o.g o.k o.a.code o.b.code 0 (o.a.lits ++ o.b.lits) false
def encXDgo (c m : Nat) (o : XDgo) : EncSyl := mkSyl c o.g (o.f * 16) 0 0 m [] false
def encXDpop (c : Nat) (o : XDpop) : EncSyl := mkSyl c o.g o.d (o.f * 16 + o.q) 0 0 [] false
def encXDstat (c : Nat) (o : XDstat) : EncSyl := mkSyl c o.g o.d 0 (o.f * 16) 0 [] false

def encCBin (c : Nat) (o : CBin) : EncSyl :=
  mkSyl c o.g o.d.code o.a.code o.b.code o.m.toNat (o.a.lits ++ o.b.lits) o.dup
def encCUn (c : Nat) (o : CUn) : EncSyl := mkSyl c o.g o.d.code o.a.code 0 0 o.a.lits o.dup
def encCCmp (c : Nat) (o : CCmp) : EncSyl := mkSyl c o.g o.pd o.a.code o.b.code o.cc.toNat (o.a.lits ++ o.b.lits) o.dup
def encCPredBin (c : Nat) (o : CPredBin) : EncSyl := mkSyl c o.g o.pd o.pa o.pb (bit o.na + 2 * bit o.nb) [] false
def encCPnot (c : Nat) (o : CPnot) : EncSyl := mkSyl c o.g o.pd o.pa 0 0 [] false
def encCP2s (c : Nat) (o : CP2s) : EncSyl := mkSyl c o.g o.d.code o.pa 0 0 [] false
def encCS2p (c : Nat) (o : CS2p) : EncSyl := mkSyl c o.g o.pd o.a.code 0 0 o.a.lits false
def encCChk (c : Nat) (o : CChk) : EncSyl :=
  match o.s with
  | .scalars a b => mkSyl c o.g 0 a.code b.code 0 (a.lits ++ b.lits) false
  | .preds a b => mkSyl c o.g 0 a b 1 [] false
def Target.fields : Target → Nat × Nat × List Word
  | .rel w => (0xFE, 0, [w])
  | .abs a => (a.code, 1, a.lits)
def encCBra (c : Nat) (o : CBra) : EncSyl :=
  mkSyl c o.g 0 o.t.fields.1 0 (o.t.fields.2.1 + 2 * bit o.all) o.t.fields.2.2 false
def encCCall (c : Nat) (o : CCall) : EncSyl :=
  mkSyl c o.g o.d.code o.t.fields.1 0 o.t.fields.2.1 o.t.fields.2.2 false
def encCSrc (c m : Nat) (o : CSrc) : EncSyl := mkSyl c o.g 0 o.a.code 0 m o.a.lits false
def encCSrc2 (c m : Nat) (o : CSrc2) : EncSyl := mkSyl c o.g 0 o.a.code o.b.code m (o.a.lits ++ o.b.lits) false
def encCJtab (c : Nat) (o : CJtab) : EncSyl :=
  match o.call with
  | some d => mkSyl c .always d.code o.a.code 0 1 o.a.lits false
  | none => mkSyl c .always 0 o.a.code 0 0 o.a.lits false
def encCSplit (c : Nat) (o : CSplit) : EncSyl := mkSyl c .always o.p 0xFE 0xFE (bit o.neg) [o.els, o.join] false
def encAlone (c : Nat) : EncSyl := mkSyl c .always 0 0 0 0 [] false
def encCGuard (c : Nat) (o : CGuard) : EncSyl := mkSyl c o.g 0 0 0 0 [] false
def encCLsetup (c : Nat) (o : CLsetup) : EncSyl := mkSyl c .always 0 o.a.code o.b.code 0 (o.a.lits ++ o.b.lits) false
def encCWait (c : Nat) (o : CWait) : EncSyl := mkSyl c o.g 0 o.f o.b.code 0 o.b.lits false
def encCMon (c : Nat) (o : CMon) : EncSyl := mkSyl c o.g 0 o.h o.b.code 0 o.b.lits false
def encCMwait (c : Nat) (o : CMwait) : EncSyl := mkSyl c o.g o.d.code o.a.code 0 0 o.a.lits false
def encCSysrd (c : Nat) (o : CSysrd) : EncSyl := mkSyl c o.g o.d.code 0xFE 0 0 [o.n] false
def encCSyswr (c : Nat) (o : CSyswr) : EncSyl := mkSyl c o.g 0 0xFE o.b.code 0 (o.n :: o.b.lits) false
def encCMem (c : Nat) (o : CMem) : EncSyl := mkSyl c o.g o.d (o.f * 16 + o.h) o.b.code 0 o.b.lits false
def encCSnap (c : Nat) (o : CSnap) : EncSyl := mkSyl c o.g o.d (o.f * 16 + o.h) o.b.code (bit o.full) o.b.lits false
def encCNextTile (c : Nat) (o : CNextTile) : EncSyl := mkSyl c o.g o.d o.p 0 0 [] false
def encCCommit (c : Nat) (o : CCommit) : EncSyl := mkSyl c o.g 0 o.a.code o.f 0 o.a.lits false
def encCSnapq (c : Nat) (o : CSnapq) : EncSyl := mkSyl c o.g o.d 0 o.f 0 [] false
def encCTick (c : Nat) (o : CTick) : EncSyl := mkSyl c o.g o.d 0 0 0 [] false
def encCStatq (c : Nat) (o : CStatq) : EncSyl := mkSyl c o.g o.d o.k o.f (bit o.pop) [] false

/-- The slot and encoded syllable of an instruction that is one; none for header flags and events. -/
def encodeSyl : Instr → Option (Slot × EncSyl)
  | .nop s g => some (s, { raw := { opc := 0, grd := g.toNat, d := 0, a := 0, b := 0, mod := 0 }, lits := [], dup := false })
  | .rot => none
  | .lend => none
  | .iaddI32 o => some (.v, encVBin 0x01 o)
  | .isubI32 o => some (.v, encVBin 0x02 o)
  | .imulI32 o => some (.v, encVBin 0x03 o)
  | .imulhI32 o => some (.v, encVBin 0x04 o)
  | .imulhN32 o => some (.v, encVBin 0x05 o)
  | .imadI32 o => some (.v, encVTri 0x06 o)
  | .iminI32 o => some (.v, encVBin 0x07 o)
  | .imaxI32 o => some (.v, encVBin 0x08 o)
  | .iminN32 o => some (.v, encVBin 0x09 o)
  | .imaxN32 o => some (.v, encVBin 0x0A o)
  | .vAnd o => some (.v, encVBin 0x0B o)
  | .vOr o => some (.v, encVBin 0x0C o)
  | .vXor o => some (.v, encVBin 0x0D o)
  | .vShl o => some (.v, encVBin 0x0E o)
  | .shrN32 o => some (.v, encVBin 0x0F o)
  | .shrI32 o => some (.v, encVBin 0x10 o)
  | .vPopc o => some (.v, encVUn 0x11 o)
  | .vClz o => some (.v, encVUn 0x12 o)
  | .vBfx o => some (.v, encVBin 0x13 o)
  | .sel o => some (.v, encVSel 0x14 o)
  | .vMov o => some (.v, encVUn 0x15 o)
  | .idp4I8 o => some (.v, encVTri 0x16 o)
  | .idp4N8 o => some (.v, encVTri 0x17 o)
  | .laneid o => some (.v, encVLane 0x18 o)
  | .icmpI32 o => some (.v, encVCmp 0x19 o)
  | .icmpN32 o => some (.v, encVCmp 0x1A o)
  | .chkV o => some (.v, encVChk 0x1B o)
  | .faddF32 o => some (.v, encVBin 0x20 o)
  | .fsubF32 o => some (.v, encVBin 0x21 o)
  | .fmulF32 o => some (.v, encVBin 0x22 o)
  | .ffmaF32 o => some (.v, encVTri 0x23 o)
  | .fminF32 o => some (.v, encVBin 0x24 o)
  | .fmaxF32 o => some (.v, encVBin 0x25 o)
  | .fcmpF32 o => some (.v, encVCmp 0x26 o)
  | .frndF32 o => some (.v, encVUn 0x27 o)
  | .faddF16x2 o => some (.v, encVBin 0x28 o)
  | .fmulF16x2 o => some (.v, encVBin 0x29 o)
  | .ffmaF16x2 o => some (.v, encVTri 0x2A o)
  | .faddB16x2 o => some (.v, encVBin 0x2B o)
  | .fmulB16x2 o => some (.v, encVBin 0x2C o)
  | .ffmaB16x2 o => some (.v, encVTri 0x2D o)
  | .cvtF32I32 o => some (.v, encVUn 0x30 o)
  | .cvtF32N32 o => some (.v, encVUn 0x31 o)
  | .cvtI32F32 o => some (.v, encVUn 0x32 o)
  | .cvtN32F32 o => some (.v, encVUn 0x33 o)
  | .cvtF16x2F32 o => some (.v, encVBin 0x34 o)
  | .cvtB16x2F32 o => some (.v, encVBin 0x35 o)
  | .cvtF32F16 o => some (.v, encVUn 0x36 o)
  | .cvtF32B16 o => some (.v, encVUn 0x37 o)
  | .cvtE4m3x2F32 o => some (.v, encVBin 0x38 o)
  | .cvtE5m2x2F32 o => some (.v, encVBin 0x39 o)
  | .cvtF32E4m3 o => some (.v, encVUn 0x3A o)
  | .cvtF32E5m2 o => some (.v, encVUn 0x3B o)
  | .rcpF32 o => some (.v, encVUn 0x40 o)
  | .rsqF32 o => some (.v, encVUn 0x41 o)
  | .sqrtF32 o => some (.v, encVUn 0x42 o)
  | .exp2F32 o => some (.v, encVUn 0x43 o)
  | .log2F32 o => some (.v, encVUn 0x44 o)
  | .sinF32 o => some (.v, encVUn 0x45 o)
  | .cosF32 o => some (.v, encVUn 0x46 o)
  | .tanhF32 o => some (.v, encVUn 0x47 o)
  | .shflIdx o => some (.v, encVBin 0x50 o)
  | .shflUp o => some (.v, encVBin 0x51 o)
  | .shflDn o => some (.v, encVBin 0x52 o)
  | .shflXor o => some (.v, encVBin 0x53 o)
  | .voteAny o => some (.v, encVVote 0x54 o)
  | .voteAll o => some (.v, encVVote 0x55 o)
  | .ballot o => some (.v, encVBallot 0x56 o)
  | .redIadd o => some (.v, encVUn 0x57 o)
  | .redFaddF32 o => some (.v, encVUn 0x58 o)
  | .scanIadd o => some (.v, encVUn 0x59 o)
  | .blkqD8 o => some (.v, encVUn 0x5A o)
  | .blkqD4 o => some (.v, encVUn 0x5B o)
  | .xlate o => some (.m, encMXlate 0x01 o)
  | .hrel o => some (.m, encMHrel 0x02 o)
  | .preq o => some (.m, encMPreq 0x03 o)
  | .ldN8 o => some (.m, encMLoad 0x08 o)
  | .ldN16 o => some (.m, encMLoad 0x09 o)
  | .ldW o => some (.m, encMLoad 0x0A o)
  | .ldD o => some (.m, encMLoad 0x0B o)
  | .ldQ o => some (.m, encMLoad 0x0C o)
  | .stB o => some (.m, encMStore 0x10 o)
  | .stH o => some (.m, encMStore 0x11 o)
  | .stW o => some (.m, encMStore 0x12 o)
  | .stD o => some (.m, encMStore 0x13 o)
  | .stQ o => some (.m, encMStore 0x14 o)
  | .ldsW o => some (.m, encMSpLoad 0x18 o)
  | .ldsQ o => some (.m, encMSpLoad 0x19 o)
  | .stsW o => some (.m, encMSpStore 0x1A o)
  | .stsQ o => some (.m, encMSpStore 0x1B o)
  | .ldcW o => some (.m, encMCvLoad 0x1C o)
  | .stcW o => some (.m, encMCvStore 0x1D o)
  | .gathW o => some (.m, encMGath 0x1E o)
  | .ldaW o => some (.m, encMLoad 0x20 o)
  | .stlW o => some (.m, encMStore 0x21 o)
  | .fenceAcq o => some (.m, encMFence 0x28 1 o)
  | .fenceRel o => some (.m, encMFence 0x28 2 o)
  | .fenceFull o => some (.m, encMFence 0x28 3 o)
  | .aaddI32 o => some (.m, encMAtom 0x30 o)
  | .aaddF32 o => some (.m, encMAtom 0x31 o)
  | .aminI32 o => some (.m, encMAtom 0x32 o)
  | .amaxI32 o => some (.m, encMAtom 0x33 o)
  | .aand o => some (.m, encMAtom 0x34 o)
  | .aor o => some (.m, encMAtom 0x35 o)
  | .axchg o => some (.m, encMAtom 0x36 o)
  | .acas o => some (.m, encMCas 0x37 o)
  | .barinit o => some (.m, encMBar 0x40 o)
  | .arrive o => some (.m, encMArrive 0x41 o)
  | .arrivew o => some (.m, encMBarW 0x42 o)
  | .bwait o => some (.m, encMBarW 0x43 o)
  | .bexpect o => some (.m, encMBar 0x44 o)
  | .sstep o => some (.m, encMSstep 0x45 o)
  | .tdesc o => some (.x, encXTdesc 0x01 o)
  | .cpyLd o => some (.x, encXCopy 0x02 0 o)
  | .cpySt o => some (.x, encXCopy 0x02 1 o)
  | .cpym o => some (.x, encXCopy 0x03 0 o)
  | .cpyg o => some (.x, encXCopy 0x04 0 o)
  | .cpyp o => some (.x, encXPrefetch 0x05 o)
  | .seal o => some (.x, encXSeal 0x06 o)
  | .cwait o => some (.x, encXCwait 0x07 o)
  | .mlodge o => some (.x, encXLodge 0x10 o)
  | .mstream o => some (.x, encXStream 0x11 o)
  | .mscale o => some (.x, encXScale 0x12 o)
  | .mzero o => some (.x, encXMzero 0x13 o)
  | .mrd o => some (.x, encXMrd 0x14 o)
  | .mwr o => some (.x, encXMwr 0x15 o)
  | .dtab o => some (.x, encXDtab 0x20 o)
  | .dgo o => some (.x, encXDgo 0x21 0 o)
  | .dgoRs o => some (.x, encXDgo 0x21 1 o)
  | .dpop o => some (.x, encXDpop 0x22 o)
  | .dstat o => some (.x, encXDstat 0x23 o)
  | .add o => some (.c, encCBin 0x01 o)
  | .sub o => some (.c, encCBin 0x02 o)
  | .mul o => some (.c, encCBin 0x03 o)
  | .mulhI64 o => some (.c, encCBin 0x04 o)
  | .mulhN64 o => some (.c, encCBin 0x05 o)
  | .cAnd o => some (.c, encCBin 0x06 o)
  | .cOr o => some (.c, encCBin 0x07 o)
  | .cXor o => some (.c, encCBin 0x08 o)
  | .cShl o => some (.c, encCBin 0x09 o)
  | .shrN64 o => some (.c, encCBin 0x0A o)
  | .shrI64 o => some (.c, encCBin 0x0B o)
  | .minI64 o => some (.c, encCBin 0x0C o)
  | .maxI64 o => some (.c, encCBin 0x0D o)
  | .minN64 o => some (.c, encCBin 0x0E o)
  | .maxN64 o => some (.c, encCBin 0x0F o)
  | .cMov o => some (.c, encCUn 0x10 o)
  | .cPopc o => some (.c, encCUn 0x11 o)
  | .cClz o => some (.c, encCUn 0x12 o)
  | .cBfx o => some (.c, encCBin 0x13 o)
  | .scmpI64 o => some (.c, encCCmp 0x14 o)
  | .scmpN64 o => some (.c, encCCmp 0x15 o)
  | .pand o => some (.c, encCPredBin 0x18 o)
  | .por o => some (.c, encCPredBin 0x19 o)
  | .pxor o => some (.c, encCPredBin 0x1A o)
  | .pnot o => some (.c, encCPnot 0x1B o)
  | .p2s o => some (.c, encCP2s 0x1C o)
  | .s2p o => some (.c, encCS2p 0x1D o)
  | .chkS o => some (.c, encCChk 0x1E o)
  | .bra o => some (.c, encCBra 0x20 o)
  | .call o => some (.c, encCCall 0x21 o)
  | .ret o => some (.c, encCSrc 0x22 0 o)
  | .jtab o => some (.c, encCJtab 0x23 o)
  | .split o => some (.c, encCSplit 0x24 o)
  | .join => some (.c, encAlone 0x25)
  | .exit o => some (.c, encCGuard 0x26 o)
  | .kill o => some (.c, encCSrc 0x27 0 o)
  | .lsetup o => some (.c, encCLsetup 0x2C o)
  | .wait o => some (.c, encCWait 0x30 o)
  | .mon o => some (.c, encCMon 0x31 o)
  | .mwait o => some (.c, encCMwait 0x32 o)
  | .yield o => some (.c, encCSrc 0x33 0 o)
  | .trap o => some (.c, encCSrc 0x38 0 o)
  | .rett => some (.c, encAlone 0x39)
  | .sysrd o => some (.c, encCSysrd 0x3A o)
  | .syswr o => some (.c, encCSyswr 0x3B o)
  | .brk o => some (.c, encCSrc 0x3C 0 o)
  | .brkStep o => some (.c, encCSrc 0x3C 1 o)
  | .brkBset o => some (.c, encCSrc2 0x3C 2 o)
  | .brkWset o => some (.c, encCSrc2 0x3C 3 o)
  | .launch o => some (.c, encCMem 0x40 o)
  | .nexttile o => some (.c, encCNextTile 0x41 o)
  | .commit o => some (.c, encCCommit 0x42 o)
  | .snap o => some (.c, encCSnap 0x48 o)
  | .snapq o => some (.c, encCSnapq 0x49 o)
  | .rollin o => some (.c, encCMem 0x4A o)
  | .tick o => some (.c, encCTick 0x50 o)
  | .statq o => some (.c, encCStatq 0x51 o)
  | .resultLanding _ _ => none
  | .waitEnd _ => none
  | .mwaitWake _ => none
  | .mwaitTimeout _ => none
  | .yieldExpire _ => none
  | .stepTrap _ => none
  | .walkEnd _ => none
  | .memoryAccessComplete _ _ => none
  | .lossNoticeAck _ => none
  | .pageResponse _ _ => none
  | .commitDrainComplete _ _ => none
  | .preemptRequest _ => none
  | .preemptSave _ => none
  | .partyRestore _ => none
  | .tableMismatch _ => none
  | .partyPlace _ => none
  | .priorityPromote _ => none
  | .coachRelease _ => none
  | .launchDone _ => none
  | .tileChunkDeal _ _ => none
  | .superstepComplete _ _ _ => none
  | .courierChunkDelivery _ _ => none
  | .courierSourceRead _ _ => none
  | .courierCommandComplete _ => none
  | .batchComplete _ => none
  | .matrixOpStart _ => none
  | .mlodgeRendezvous _ => none
  | .matrixOpComplete _ _ => none
  | .mstarve _ => none
  | .droverIteration _ => none
  | .droverBeatArrival _ _ => none
  | .droverWalkEnd _ => none
  | .tcqTake => none
  | .context => none
  | .inval _ => none
  | .wbset _ => none
  | .presp => none
  | .release _ => none
  | .tcqCommandComplete => none
  | .atsInvalidation _ _ _ => none
  | .hostBarAccess _ => none
  | .refresh _ => none
  | .refreshAlert _ => none
  | .livegenWrite => none
  | .scrub _ => none
  | .waymarkArrival _ _ => none
  | .linkItemArrival _ _ => none
  | .cutDelayTimeout _ _ => none
  | .granuleDrain _ => none
  | .packageReport _ => none
  | .verdict _ => none
  | .rollbackNotice _ _ => none
  | .auth => none
  | .stopat => none
  | .dieStop _ => none
  | .scan => none
  | .resume => none
  | .dbgen => none
  | .lantern => none
  | .injrd => none
  | .injwr => none
  | .grantExpiry => none
  | .lanternSample _ => none
  | .lanternRecord _ => none
  | .injectorFire _ => none
  | .linkDown _ => none
  | .boot _ => none
  | .recoveryImageWrite _ _ => none
  | .negotiate => none
  | .configWrite _ _ => none
  | .kmqTake => none
  | .kgen => none
  | .kseal => none
  | .kimport => none
  | .kclear => none
  | .currentLimit _ _ => none
  | .thermalLimit _ => none
  | .junctionLimit _ => none
  | .ualinkTraining _ => none
  | .heartbeatTimeout _ _ => none
  | .wingReturnToService _ => none
  | .stewardRestart _ => none
  | .barProgramming _ _ _ _ => none

/-- The word k of a number. -/
def wordOf (n k : Nat) : Word := BitVec.ofNat 32 (n / 2 ^ (32 * k))

/-- Bit position of a slot in the bundle (R29). -/
def Slot.shift : Slot → Nat
  | .v => 32
  | .m => 72
  | .x => 112
  | .c => 152

/-- The header bit that marks a duplicate (R31); M and X have none. -/
def Slot.dupBit : Slot → Nat
  | .v => 2 ^ 21
  | .c => 2 ^ 24
  | _ => 0

/-- The bundle that holds one instruction and is empty elsewhere: six words and its literal words; none for an
event. -/
def encode (i : Instr) : Option (List Word) :=
  match i with
  | .rot => some [0x00100000, 0, 0, 0, 0, 0]
  | .lend => some [0x00010000, 0, 0, 0, 0, 0]
  | _ => (encodeSyl i).map fun (s, e) =>
    let n := e.lits.length * 2 ^ 25 + (if e.dup then s.dupBit else 0) + e.raw.bits * 2 ^ s.shift
    [wordOf n 0, wordOf n 1, wordOf n 2, wordOf n 3, wordOf n 4, wordOf n 5] ++ e.lits

/-- The instructions of a decoded bundle, if every slot decodes: V, M, X, C. -/
def Decoded.instrs? (d : Decoded) : Option (List Instr) :=
  match d.hdrBad, d.v, d.m, d.x, d.c with
  | false, .ok v, .ok m, .ok x, .ok c => some [v, m, x, c]
  | _, _, _, _, _ => none

/-- An empty syllable. -/
def Instr.isNop : Instr → Bool
  | .nop _ _ => true
  | _ => false

/-- The one thing that a bundle does: its only syllable that is not NOP, else the header flag it carries, else
an empty V syllable's NOP; none if it is malformed or does several. -/
def Decoded.single? (d : Decoded) : Option Instr :=
  match d.instrs? with
  | none => none
  | some is =>
    match is.filter (fun i => !i.isNop), d.rot, d.lend with
    | [i], false, false => some i
    | [], true, false => some .rot
    | [], false, true => some .lend
    | [], false, false =>
      match is.filter (fun i => match i with | .nop _ g => g != 0 | _ => false) with
      | [] => some (.nop .v 0)
      | [i] => some i
      | _ => none
    | _, _, _ => none

/-- The features of the XQ-1 (R63, R81). -/
def xq1Feat (b : Nat) : Bool :=
  b == 0 || b == 1 || b == 2 || b == 3 || b == 8 || b == 9 || b == 16 || b == 24 || b == 25

/-- Words 0 to n - 1 of a number. -/
def wordsOf (w : Nat) : Nat → List Word
  | 0 => []
  | n + 1 => BitVec.ofNat 32 w :: wordsOf (w / 2 ^ 32) n

/-- The instruction that a bundle of the given bits decodes to. A bundle is at most ten words; bits above nbits
are 0. -/
def decodeTableWord (nbits w : Nat) : Option Instr :=
  let ws := wordsOf (w % 2 ^ nbits) 10
  (decodeBundle xq1Feat (ws.take 6) (ws.drop 6)).single?

end Sys2Proof
end

