-- ==== Sys2Proof/Machine/MatrixMath.lean ====
section
/-! DEFINITION. The arithmetic of a stream (R277, R278, R287 to R292): elements of a tile, pre-sums, the classical and
the recombined order, and the steps that produced NaN from operands that were not NaN (R295). -/

namespace Sys2Proof.Machine

/-- An element's exact value; for a D format also 1 more than the largest exponent byte below 0xFF of its block's pair,
or 0 if there is none (R290). -/
structure El where
  v : Num
  sg : Nat
  deriving DecidableEq, Repr

/-- K-elements in 384 bytes, by format code (R278). -/
def fmtK (fmt : Nat) : Nat := if fmt = 5 then 768 else if fmt = 6 ∨ fmt = 7 then 192 else 384

/-- K-blocks (R278). -/
def fmtNB (fmt : Nat) : Nat := fmtK fmt / 32

/-- Whether an A format and a lodge format may be used together (R278). -/
def fmtPair (a b : Nat) : Bool := (a ≤ 1 && b ≤ 1) || (2 ≤ a && a ≤ 3 && 2 ≤ b && b ≤ 3) || (4 ≤ a && a == b)

/-- The format of F16 and B16 pre-sums: 12 significant bits, exponents of F32 (R290). -/
def pre12 : Fmt := { fb := 11, eb := 8, bias := 127, maxImg := 0x7F7FF, nan := 0x7FC00, inf := some 0x7F800 }

/-- An integer as a value. -/
def numOfInt (i : Int) : Num := .fin (i < 0) i.natAbs 0

/-- The value of an element's image; `pair` is its block's exponent pair (R98, R100). -/
def elValue (fmt code pair : Nat) : Num :=
  match fmt with
  | 0 => e4m3.decode code
  | 1 => e5m2.decode code
  | 2 => numOfInt (BitVec.ofNat 8 code).toInt
  | 3 => numOfInt code
  | 4 => blockValue 5 6 (pair % 256) (pair / 256) code
  | 5 => blockValue 1 2 (pair % 256) (pair / 256) code
  | 6 => f16.decode code
  | _ => b16.decode code

/-- 1 more than the largest exponent byte below 0xFF of a pair. -/
def pairTop (pair : Nat) : Nat :=
  let one (e : Nat) : Nat := if e < 255 then e + 1 else 0
  max (one (pair % 256)) (one (pair / 256))

/-- The images of the K-elements in 384 bytes (R277). -/
def elCodes (fmt : Nat) (bs : List Byte) : List Nat :=
  if fmt = 5 then bs.flatMap fun b => [b.toNat % 16, b.toNat / 16]
  else if fmt = 6 ∨ fmt = 7 then (chunks 2 bs).map leNat
  else bs.map (·.toNat)

/-- The elements of a row or column; `pair` gives the exponent pair of a K-block. -/
def elements (fmt : Nat) (bs : List Byte) (pair : Nat → Nat) : List El :=
  ((chunks 32 (elCodes fmt bs)).zipIdx).flatMap fun (cs, j) =>
    let p := if fmt = 4 ∨ fmt = 5 then pair j else 0
    cs.map fun c => { v := elValue fmt c p, sg := pairTop p }

/-- A value times a power of two. -/
def Num.shift (k : Int) : Num → Num
  | .fin n m e => .fin n m (e + k)
  | x => x

/-- ps(x + y) (R290); a difference negates y first. -/
def preSum (fmt : Nat) (x y : El) : Num :=
  if fmt ≤ 1 then p14Sum x.v y.v
  else if fmt ≤ 3 then (Num.add .near x.v y.v).1
  else if fmt ≤ 5 then
    let top := max x.sg y.sg
    if top = 0 then .nan false
    else
      let sigma : Int := (top : Int) - 1 - 127
      (p14Sum (x.v.shift (-sigma)) (y.v.shift (-sigma))).shift sigma
  else pre12.decode (pre12.addOp .near false x.v y.v).1

def El.neg (x : El) : El := { x with v := x.v.neg }

/-- Whether a step made NaN of operands that were not. -/
def madeNan (x y z : Num) : Bool := z.isNan && !x.isNan && !y.isNan

/-- A list of pre-sums, and whether one of them was made NaN. -/
def preSums (fmt : Nat) (minus : Bool) (xs ys : List El) : List Num × Bool :=
  let ys := if minus then ys.map El.neg else ys
  let zs := List.zipWith (preSum fmt) xs ys
  (zs, (List.zipWith (fun p z => madeNan p.1 p.2 z) (List.zip (xs.map (·.v)) (ys.map (·.v))) zs).any id)

/-- A single quarter as an operand. -/
def plainEls (xs : List El) : List Num × Bool := (xs.map (·.v), false)

/-- The operands A1 to A7 of a row of each quarter (R289). -/
def sevenA (fmt : Nat) (x11 x12 x21 x22 : List El) : List (List Num × Bool) :=
  [preSums fmt false x11 x22, preSums fmt false x21 x22, plainEls x11, plainEls x22, preSums fmt false x11 x12,
    preSums fmt true x21 x11, preSums fmt true x12 x22]

/-- The operands B1 to B7 of a column of each quarter (R289). -/
def sevenB (fmt : Nat) (y11 y12 y21 y22 : List El) : List (List Num × Bool) :=
  [preSums fmt false y11 y22, plainEls y11, preSums fmt true y12 y22, preSums fmt true y21 y11, plainEls y22,
    preSums fmt false y11 y12, preSums fmt false y21 y22]

/-- xsum (R287). -/
def xsum : List Num → Num
  | [] => .fin false 0 0
  | x :: xs => xs.foldl (fun a b => (Num.add .near a b).1) x

/-- rne32 (R287), or the identity for the integer formats (R292). -/
def rne32 (int : Bool) (x : Num) : Num := if int then x else f32.decode (f32.encode .near .ieee false x).1

/-- One addition of the pseudocode, with whether a step so far made NaN. -/
def mstep (int : Bool) (x y : Num × Bool) : Num × Bool :=
  let z := (Num.add .near x.1 y.1).1
  (rne32 int z, x.2 || y.2 || madeNan x.1 y.1 z)

/-- The sum of products over K-blocks of 32 (R288, R291). -/
def dotBlocks (int : Bool) (xs ys : List Num) : Num × Bool :=
  (List.zip (chunks 32 xs) (chunks 32 ys)).foldl (fun p b =>
    let ps := List.zipWith (fun x y => (x, y, (Num.mul x y).1)) b.1 b.2
    let s := xsum (ps.map fun t => t.2.2)
    let bad := (ps.any fun t => madeNan t.1 t.2.1 t.2.2) || (s.isNan && !ps.any fun t => t.2.2.isNan)
    mstep int p (s, bad)) (.fin false 0 0, false)

/-- The four quarter results of R291 from M1 to M7: C11, C12, C21, C22. -/
def postAdd (int : Bool) (m : List (Num × Bool)) : List (Num × Bool) :=
  let at' (i : Nat) : Num × Bool := nth m (i - 1) (.fin false 0 0, false)
  let neg (x : Num × Bool) : Num × Bool := (x.1.neg, x.2)
  let add := mstep int
  [add (add (add (at' 1) (at' 4)) (neg (at' 5))) (at' 7), add (at' 3) (at' 5), add (at' 2) (at' 4),
    add (add (add (at' 1) (neg (at' 2))) (at' 3)) (at' 6)]

/-- C of a recombined stream (R291), row-major, with whether a step made NaN: 16 rows of A, 64 columns of B. -/
def recombined (fa fb : Nat) (rows cols : List (List El)) : List Num × Bool :=
  let int := fa == 2 || fa == 3
  let h := fmtK fa / 2
  let row (r : Nat) : List El := nth rows r []
  let col (n : Nat) : List El := nth cols n []
  let as := (upto 8).map fun r =>
    sevenA fa ((row r).take h) ((row r).drop h) ((row (r + 8)).take h) ((row (r + 8)).drop h)
  let bs := (upto 32).map fun n =>
    sevenB fb ((col n).take h) ((col (n + 32)).take h) ((col n).drop h) ((col (n + 32)).drop h)
  let preBad := as.any (fun l => l.any (·.2)) || bs.any fun l => l.any (·.2)
  let cells := as.map fun a => bs.map fun b => postAdd int (List.zipWith (fun x y => dotBlocks int x.1 y.1) a b)
  let quarter (q r : Nat) : List (Num × Bool) := (nth cells r []).map fun c => nth c q (.fin false 0 0, false)
  let all := (upto 8).flatMap (fun r => quarter 0 r ++ quarter 1 r) ++ (upto 8).flatMap fun r => quarter 2 r ++ quarter 3 r
  (all.map (·.1), preBad || all.any (·.2))

/-- The sums of a classical stream (R288), row-major. -/
def classical (fa : Nat) (rows cols : List (List El)) : List Num :=
  let int := fa == 2 || fa == 3
  rows.flatMap fun r => cols.map fun c => (dotBlocks int (r.map (·.v)) (c.map (·.v))).1

/-- acc + C as an image (R291, R292). -/
def accumulate (fa : Nat) (acc : Word) (x : Num) : Word :=
  if fa = 2 ∨ fa = 3 then
    match x with
    | .fin n m e => BitVec.ofInt 32 (acc.toInt + scaleTo (min e 0) n m e)
    | _ => acc
  else BitVec.ofNat 32 (f32.addOp .near false (f32.decode acc.toNat) x).1

end Sys2Proof.Machine
end

