-- ==== Sys2Proof/Machine/Matrix.lean ====
section
/-! DEFINITION. Matrix operations (R276 to R299): what a syllable puts into its wing's queue, when an operation starts,
what it does, and when it is counted. Operations are numbered; registers are physical. -/

namespace Sys2Proof.Machine

/-! Checks. -/

/-- The party whose coach owns a wing's matrix state; the wing's Drover serves it (R276, R300). -/
def Wing.ownerParty (x : Wing) : Option Nat := if x.owner.isSome then x.drover.party else none

/-- Whether a coach owns its wing's matrix state (R276). -/
def State.ownsMatrix (s : State) (k : Nat) : Bool :=
  let x := s.wing (wingOf k)
  x.owner == some k && x.ownerParty == some (s.coach k).party

/-- Whether a coach may use its wing's accumulators: the owner's party, and no copy coach (R276, R299). -/
def State.sharesMatrix (s : State) (k : Nat) (c : Coach) : Bool :=
  (s.wing (wingOf k)).ownerParty == some c.party && c.role != .copy

/-- Whether a party has an owner on each wing of a core (R276). -/
def State.fourOwners (s : State) (core p : Nat) : Bool := (upto 4).all fun i => (s.wing (4 * core + i)).ownerParty == some p

/-- ILLEGAL of a matrix syllable: field and code (R299). -/
def matrixIllegal (s : State) (k field code : Nat) : Out := raise s k (illegal 2 field code)

/-- D4 without its feature bit (R278): FEATURE 9, at step 3 of R65. -/
def fmtFeature (s : State) (k : Nat) (fmt : BitVec 4) (f : Out) : Out :=
  if fmt = 5 ∧ !s.feature 9 then .next (s.trapNow k 3 (mkTrap 0x02 2 9)) else f

/-- A reserved format code, or D8 without its feature bit (R278): ILLEGAL. -/
def fmtIllegal (s : State) (k : Nat) (fmt : BitVec 4) (field : Nat) (f : Out) : Out :=
  if 8 ≤ fmt.toNat ∨ (fmt = 4 ∧ !s.feature 8) then matrixIllegal s k field 33 else f

/-! Issue. -/

/-- The words of a run of registers in operand order, as read at issue (R282, R284, R296). -/
def State.runWords (s : State) (c : Coach) (regs : List Nat) : List Word :=
  regs.flatMap fun r => (upto c.width).map fun l => s.readV c r l

/-- An operation enters its wing's queue (R280), unless all 16 entries are taken. `i` is its syllable, renamed; `lodge` the
format of an MLODGE. -/
def enqueueM (s : State) (k : Nat) (c : Coach) (m : Lanes) (i : Instr) (kind : MKind) (f : Nat) (srcs dsts : List Nat)
    (lodge : Option (BitVec 4)) : Out :=
  let w := wingOf k
  if 16 ≤ (s.wing w).mq.length then hold s k
  else
    let zeros := List.replicate c.width (0 : Word)
    let (c1, fe) := c.openFlag f s.cur.seq (dsts.map fun r => .vec r (lanesBelow c.width) zeros) none
    let (id, s1) := (s.putCoach k c1).freshId
    let syl := dnat ((encodeSyl i).elim 0 fun e => e.2.raw.bits)
    let o : MOp :=
      { id := id, coach := k, addr := s.cur.pc, lanes := m, kind := kind, fe := fe, syl := syl, cycle := s.cur.cycle,
        was := s.runWords c srcs }
    .next (s1.modWing w fun x => { x with mq := x.mq ++ [o], issuedFmt := lodge.or x.issuedFmt })

/-- Registers a to a + n - 1, renamed on their own (R282). -/
def Coach.run (c : Coach) (a n : Nat) : List Nat := (upto n).map fun i => c.renV (a + i)

/-- A scalar source of a saved syllable, its rotating code renamed (R298). -/
def Coach.renSrc (c : Coach) : SSrc → SSrc
  | .reg n => .reg (c.renS n)
  | x => x

/-- MLODGE (R283, R284). -/
def execMlodge (o : XLodge) (s : State) : Out :=
  onCoach s fun k c =>
    let m := s.active c o.g
    if m = 0 then .next s
    else
      let n := 1536 / c.width
      if 192 < o.a + n then raiseIllegal s k 2 3 37
      else
        fmtFeature s k o.fmt
          (if !s.ownsMatrix k then matrixIllegal s k 0 32
           else if !s.fourOwners (coreOf k) c.party then matrixIllegal s k 0 35
           else fmtIllegal s k o.fmt 2 (
             let regs := c.run o.a n
             enqueueM s k c m (.mlodge { o with a := c.renV o.a }) (.lodge o.fmt regs) o.f regs [] (some o.fmt)))

/-- MSTREAM (R286). -/
def execMstream (o : XStream) (s : State) : Out :=
  onCoach s fun k c =>
    let m := s.active c o.g
    if m = 0 then .next s
    else
      fmtFeature s k o.fmt
        (if !s.ownsMatrix k then matrixIllegal s k 0 32
         else fmtIllegal s k o.fmt 3
           (match (s.wing (wingOf k)).issuedFmt with
            | none => matrixIllegal s k 3 34
            | some b =>
              if !fmtPair o.fmt.toNat b.toNat then matrixIllegal s k 3 34
              else enqueueM s k c m (.mstream o) (.stream o.acc o.fmt o.cl o.z) o.f [] [] none))

/-- The fields of MSCALE's control word (R285). -/
def mscaleCb (c : Dbl) : Nat := dbits c 8 7
def mscalePair (c : Dbl) : Nat := dbits c 6 6
def mscaleB (c : Dbl) : Bool := tbit c.toNat 5
def mscaleJ (c : Dbl) : Nat := dbits c 4 0

/-- Whether a control word is refused in a coach of W lanes (R285). -/
def mscaleBad (w : Nat) (c : Dbl) : Bool :=
  let g := mscalePair c + 1
  dbits c 63 9 != 0 || (!mscaleB c && mscaleCb c != 0) || (mscaleB c && 64 < 16 * mscaleCb c + w) ||
    23 < mscaleJ c + (if mscaleB c then 0 else g * ((w - 1) / 16)) + g - 1

/-- MSCALE (R285). -/
def execMscale (o : XScale) (s : State) : Out :=
  onCoach s fun k c =>
    let m := s.active c o.g
    if m = 0 then .next s
    else if !s.ownsMatrix k then matrixIllegal s k 0 32
    else
      let ctl := s.rdS c o.b
      if mscaleBad c.width ctl then matrixIllegal s k 4 36
      else
        let r := c.renV o.a
        enqueueM s k c m (.mscale { o with a := r, b := c.renSrc o.b }) (.scale r ctl) o.f [r] [] none

/-- MZERO (R296). -/
def execMzero (o : XMzero) (s : State) : Out :=
  onCoach s fun k c =>
    let m := s.active c o.g
    if m = 0 then .next s
    else if !s.sharesMatrix k c then matrixIllegal s k 0 32
    else enqueueM s k c m (.mzero o) (.zero o.acc) o.f [] [] none

/-- MRD (R296). -/
def execMrd (o : XMrd) (s : State) : Out :=
  onCoach s fun k c =>
    let m := s.active c o.g
    if m = 0 then .next s
    else
      let n := runRegs c (s.rdS c o.b)
      if 192 < o.d + n then raiseIllegal s k 2 2 37
      else if !s.sharesMatrix k c then matrixIllegal s k 0 32
      else
        match rowSel? (s.rdS c o.b) with
        | none => matrixIllegal s k 4 38
        | some (r0, nr) =>
          let regs := c.run o.d n
          enqueueM s k c m (.mrd { o with d := c.renV o.d, b := c.renSrc o.b }) (.rd o.acc regs r0 nr o.z) o.f [] regs none

/-- MWR (R296). -/
def execMwr (o : XMwr) (s : State) : Out :=
  onCoach s fun k c =>
    let m := s.active c o.g
    if m = 0 then .next s
    else
      let n := runRegs c (s.rdS c o.b)
      if 192 < o.a + n then raiseIllegal s k 2 3 37
      else if !s.sharesMatrix k c then matrixIllegal s k 0 32
      else
        match rowSel? (s.rdS c o.b) with
        | none => matrixIllegal s k 4 38
        | some (r0, nr) =>
          let regs := c.run o.a n
          enqueueM s k c m (.mwr { o with a := c.renV o.a, b := c.renSrc o.b }) (.wr o.acc regs r0 nr) o.f regs [] none

/-! Errors (R357). -/

/-- Numbers of the scale words of a wing: the A table, the B staging table, the lodge's B scales. -/
def scaleA (i : Nat) : Nat := i
def scaleStage (i : Nat) : Nat := 384 + i
def scaleLodge (i : Nat) : Nat := 1920 + i

/-- An uncorrectable word that an operation on a wing would use: storage code and location. -/
def State.matrixPoison (s : State) (w : Nat) (o : MOp) : Option (Nat × Nat) :=
  let regsBad (regs : List Nat) (ls : Lanes) : Option (Nat × Nat) := s.poison.findSome? fun p => match p with
    | .vreg k r l => if k == o.coach && regs.contains r && ls.getLsbD l then some (1, 64 * r + l) else none
    | _ => none
  let word (f : Site → Option Nat) : Option (Nat × Nat) := (s.poison.findSome? f).map fun l => (6, l)
  match o.kind with
  | .lodge _ regs => (regsBad regs (lanesBelow (s.coach o.coach).width)).or (word fun p => match p with
      | .scale v i => if v == w && 384 ≤ i && i < 1920 then some i else none
      | _ => none)
  | .stream a _ _ z =>
    let beats := ((s.wing w).drover.sa.take 16).map (·.id)
    (word fun p => match p with
      | .lodge v i => if v == w then some i else none
      | .scale v i => if v == w && (i < 384 || 1920 ≤ i) then some i else none
      | .acc v b i => if v == w && b == a && !z then some i else none
      | _ => none).or (s.poison.findSome? fun p => match p with
        | .beat v 0 i => if v == w && beats.contains i then some (7, i) else none
        | _ => none)
  | .scale r _ => regsBad [r] o.lanes
  | .zero _ => none
  | .rd a _ r0 nr _ => word fun p => match p with
      | .acc v b i => if v == w && b == a && 64 * r0 ≤ i && i < 64 * (r0 + nr) then some i else none
      | _ => none
  | .wr _ regs _ _ => regsBad regs (lanesBelow (s.coach o.coach).width)

/-- Words of a wing that are wholly written hold no error any more. -/
def State.matrixClean (s : State) (f : Site → Bool) : State :=
  if s.poison.any f then { s with poison := s.poison.filter fun p => !f p } else s

/-! Start. -/

/-- A tile at the head of the A-operand queue (R286, R308): its bytes, once all 16 beats are visible. -/
def tile? (d : Drover) : Option (List Byte) :=
  let t := d.sa.take 16
  if t.length = 16 ∧ t.all (·.here) then some (t.flatMap (·.bytes)) else none

/-- The accumulator that an operation orders itself on. -/
def MKind.accOf : MKind → Option Nat
  | .zero a => some a
  | .rd a _ _ _ _ => some a
  | .wr a _ _ _ => some a
  | _ => none

def MKind.streamAcc : MKind → Option Nat
  | .stream a _ _ _ => some a
  | _ => none

/-- Whether the operation at the head of a wing's queue can start, a lodging apart (R281). -/
def Wing.canStart (x : Wing) (now : Nat) (o : MOp) : Bool :=
  x.arrayFree ≤ now && (match o.kind with
    | .lodge _ _ => false
    | .stream _ _ _ _ => (tile? x.drover).isSome
    | .scale _ _ => true
    | k => !x.mrun.any fun r => r.op.kind.streamAcc == k.accOf)

/-- Cycles of occupancy, and from the start to the count (R281). -/
def MKind.occ : MKind → Nat
  | .lodge _ _ => 40
  | .stream _ _ cl _ => if cl then 110 else 96
  | .scale _ _ => 2
  | .zero _ => 2
  | .rd _ _ _ nr _ => 2 * nr
  | .wr _ _ _ nr => 2 * nr

def MKind.total : MKind → Nat
  | .lodge _ _ => 12
  | .stream _ _ cl _ => (if cl then 110 else 96) + 24
  | .scale _ _ => 4
  | .zero _ => 2
  | .rd _ _ _ nr _ => 2 * nr + 8
  | .wr _ _ _ nr => 2 * nr + 4

/-- An operation that starts, as it will run. -/
def MOp.launch (o : MOp) (now : Nat) (x : Wing) : MRun :=
  { op := o, start := now, occ := now + o.kind.occ, due := now + o.kind.total, bytes := [], words := [], pairs := x.atab,
    lodge := x.lodge, bscale := x.bscale, lfmt := x.lfmt, rows := [] }

/-- The entries that MSCALE writes into its table, numbered 24 row + block (R285). -/
def scaleWrites (ctl : Dbl) (lanes : Lanes) (xs : List Word) : List (Nat × BitVec 16) :=
  let g := mscalePair ctl + 1
  (upto xs.length).flatMap fun l =>
    if lanes.getLsbD l then
      (upto g).map fun p =>
        let pair := BitVec.ofNat 16 ((nth xs l 0).toNat / 2 ^ (16 * p))
        if mscaleB ctl then (24 * (16 * mscaleCb ctl + l) + mscaleJ ctl + p, pair)
        else (24 * (l % 16) + mscaleJ ctl + g * (l / 16) + p, pair)
    else []

/-- The first element of D blocks in reading order whose exponent byte is 0xFF: row or column and K-block (R295). -/
def firstFF (fmt : Nat) (n : Nat) (bytes : Nat → List Byte) (pair : Nat → Nat → Nat) : Option (Nat × Nat) :=
  if fmt ≠ 4 ∧ fmt ≠ 5 then none
  else
    let mb := if fmt = 4 then 6 else 2
    (upto n).findSome? fun r =>
      ((chunks 32 (elCodes fmt (bytes r))).zipIdx).findSome? fun (cs, j) =>
        let p := pair r j
        if cs.any fun (x : Nat) => (if x.testBit (mb + 1) then p / 256 else p % 256) == 0xFF then some (r, j) else none

/-- MDNAN (R295). -/
def State.recordDNan (s : State) (o : MOp) (b : Bool) (x : Option (Nat × Nat)) : State :=
  match x with
  | some (r, j) => s.record o.coach 2 0x32 o.addr (dnat (bnat b + 256 * r + 65536 * j))
  | none => s

/-- Row r of a tile, and its exponent pair for a K-block. -/
def tileRow (bytes : List Byte) (r : Nat) : List Byte := (bytes.drop (384 * r)).take 384

/-- Column n of a lodged B (R284). -/
def lodgeCol (t : Sparse Word) (n : Nat) : List Byte :=
  (upto 4).flatMap fun w => (upto 24).flatMap fun m => leBytes (sget 0 t (1536 * w + 24 * n + m)).toNat 4

/-- Rows of an accumulator are written anew: an MWR under way no longer gives them. -/
def Wing.coverRows (x : Wing) (a r0 nr : Nat) : Wing :=
  { x with mrun := x.mrun.map fun r => match r.op.kind with
      | .wr b _ _ _ => if b = a then { r with rows := r.rows.filter fun i => !(r0 ≤ i && i < r0 + nr) } else r
      | _ => r }

/-- The operation at the head of a wing's queue starts (R281). What MLODGE and MSCALE give is taken up as they are counted, when their
registers have been read (R281, R282): no operation that uses it is over by then. -/
def State.startM (s : State) (w : Nat) (o : MOp) : State :=
  let x := s.wing w
  let now := (s.die (dieOfCore (coreOfWing w))).cycle
  match s.matrixPoison w o with
  | some (st, loc) => s.consume o.coach st loc o.addr
  | none =>
    let r := o.launch now x
    let x := { x with mq := x.mq.drop 1, arrayFree := r.occ, starve := none }
    let go (x : Wing) (r : MRun) : State := s.putWing w { x with mrun := x.mrun ++ [r] }
    match o.kind with
    | .lodge _ _ => s
    | .stream _ _ _ _ =>
      let bytes := (tile? x.drover).getD []
      let d := { x.drover with sa := x.drover.sa.drop 16 }
      go { x with drover := d } { r with bytes := bytes }
    | .scale _ _ => go x r
    | .zero a =>
      (go ({ x with acc := x.acc.filter fun e => e.1 / 1024 ≠ a }.coverRows a 0 16) r).matrixClean fun p =>
        match p with | .acc v b _ => v == w && b == a | _ => false
    | .rd a _ r0 nr z =>
      let q := 1024 * a + 64 * r0
      let ws := (upto (64 * nr)).map fun i => sget 0 x.acc (q + i)
      let x := if z then { x with acc := ssetAll 0 x.acc ((upto (64 * nr)).map fun i => (q + i, 0)) }.coverRows a r0 nr else x
      go x { r with words := ws }
    | .wr a _ r0 nr =>
      let q := 1024 * a + 64 * r0
      let x := { x with acc := ssetAll 0 x.acc ((upto (64 * nr)).map fun i => (q + i, nth o.was i 0)) }.coverRows a r0 nr
      (go x { r with rows := (upto nr).map (r0 + ·) }).matrixClean fun p =>
        match p with | .acc v b i => v == w && b == a && 64 * r0 ≤ i && i < 64 * (r0 + nr) | _ => false

/-- MATRIX_OP_START (R281). -/
def execMatrixOpStart (wing : Nat) (s : State) : Out :=
  let die := s.die (dieOfCore (coreOfWing wing))
  match (s.wing wing).mq with
  | [] => .next s
  | o :: _ => if !die.gated && (s.wing wing).canStart die.cycle o then .next (s.startM wing o).tickFree else .next s

/-! Lodging. -/

/-- The lodgings at the heads of the four queues of a core, if they can meet (R283). -/
def State.rendezvous? (s : State) (core : Nat) : Option (List (MOp × BitVec 4 × List Nat)) :=
  let now := (s.die (dieOfCore core)).cycle
  let one (i : Nat) : Option (MOp × BitVec 4 × List Nat) :=
    let x := s.wing (4 * core + i)
    match x.mq with
    | o :: _ => (match o.kind with
      | .lodge f regs => if x.arrayFree ≤ now then some (o, f, regs) else none
      | _ => none)
    | [] => none
  let l := (upto 4).filterMap one
  if l.length = 4 then some l else none

/-- Wing of the core that gives the B scale entry of K-block j in a format: that which lodges the block's first byte
(R284). -/
def blockWing (fmt j : Nat) : Nat := j * (384 / fmtNB fmt) / 96

/-- A lodging begins (R283): its wing's B and format are those of this one from here on. -/
def Wing.beginLodge (x : Wing) (o : MOp) (fmt : BitVec 4) (now : Nat) : Wing :=
  let r := o.launch now x
  { x with
    mq := x.mq.drop 1, arrayFree := r.occ, starve := none, mrun := x.mrun ++ [r], lodged := true, lfmt := fmt, lodges := x.lodges + 1 }

/-- A lodging takes its B and scales (R283, R284). -/
def Wing.takeLodge (x : Wing) (r : MRun) (fmt : BitVec 4) (b : Sparse Word) (stages : List (Sparse (BitVec 16))) : Wing :=
  let sc := (upto 64).flatMap fun n => (upto (fmtNB fmt.toNat)).map fun j =>
    (24 * n + j, sget 0 (nth stages (blockWing fmt.toNat j) []) (24 * n + j))
  { x with mrun := x.mrun.filter fun q => q.op.id ≠ r.op.id, lodge := b, bscale := ssetAll 0 x.bscale sc }

/-- MLODGE_RENDEZVOUS (R283). -/
def execMlodgeRendezvous (party : Nat) (s : State) : Out :=
  let core := (s.party party).core
  let die := s.die (dieOfCore core)
  if die.gated || !s.fourOwners core party then .next s
  else
    match s.rendezvous? core with
    | none => .next s
    | some l =>
      match ((upto 4).zip l).findSome? fun p => (s.matrixPoison (4 * core + p.1) p.2.1).map fun e => (p.2.1, e) with
      | some (o, st, loc) => .next (s.consume o.coach st loc o.addr).tickFree
      | none =>
        .next (((upto 4).zip l).foldl (fun t p => t.modWing (4 * core + p.1) fun x => x.beginLodge p.2.1 p.2.2.1 die.cycle) s).tickFree

/-- The format of a lodging. -/
def MKind.lodgeFmt : MKind → Option (BitVec 4)
  | .lodge f _ => some f
  | _ => none

/-- The lodgings of a core that met at a cycle and are not yet counted, by wing. -/
def State.lodgings (s : State) (core start : Nat) : List (Nat × MRun × BitVec 4) :=
  (upto 4).filterMap fun i => (s.wing (4 * core + i)).mrun.findSome? fun r =>
    if r.start = start then r.op.kind.lodgeFmt.map fun f => (4 * core + i, r, f) else none

/-- Lodgings that met are counted, all in one cycle: every wing takes the four register runs as B (R283, R284). -/
def State.endLodge (s : State) (core start : Nat) : State :=
  let l := s.lodgings core start
  let b := ssetAll 0 [] (l.flatMap fun e => (upto 1536).map fun i => (1536 * (e.1 % 4) + i, nth e.2.1.op.was i 0))
  let stages := (upto 4).map fun i => (s.wing (4 * core + i)).bstage
  l.foldl (fun t e =>
    let (w, r, fmt) := e
    let t := t.modWing w fun x => x.takeLodge r fmt b stages
    let t := t.recordDNan r.op true (firstFF fmt.toNat 64 (lodgeCol (t.wing w).lodge)
      fun n j => (sget 0 (t.wing w).bscale (24 * n + j)).toNat)
    let t := t.matrixClean fun q => match q with
      | .lodge v _ => v == w
      | .scale v i => v == w && 1920 ≤ i
      | _ => false
    t.finishFlag r.op.coach (some r.op.fe) [] [] 0) s

/-! Completion. -/

/-- The accumulator of a stream (R286, R288, R291), and whether a step made NaN (R295). -/
def MRun.result (r : MRun) (a : Nat) (fmt : BitVec 4) (cl z : Bool) (acc : Sparse Word) : List Word × Bool :=
  let rows := (upto 16).map fun i => elements fmt.toNat (tileRow r.bytes i) fun j => (sget 0 r.pairs (24 * i + j)).toNat
  let cols := (upto 64).map fun n => elements r.lfmt.toNat (lodgeCol r.lodge n) fun j => (sget 0 r.bscale (24 * n + j)).toNat
  let (cs, bad) := if cl then (classical fmt.toNat rows cols, false) else recombined fmt.toNat r.lfmt.toNat rows cols
  ((upto 1024).map fun i =>
    accumulate fmt.toNat (if z then 0 else sget 0 acc (1024 * a + i)) (nth cs i (.fin false 0 0)), bad)

/-- RCNAN (R295). -/
def State.recordRcNan (s : State) (r : MRun) (a : Nat) (fmt : BitVec 4) (ws : List Word) : State :=
  let nan (w : Word) : Bool := (f32.decode w.toNat).isNan
  let n := (ws.filter nan).length
  let first := ((upto 1024).find? fun i => nan (nth ws i 0)).getD 0
  s.record r.op.coach 2 0x30 r.op.addr
    (dnat (a + 16 * fmt.toNat + 256 * r.lfmt.toNat + 4096 * n + 2 ^ 24 * (first / 64) + 2 ^ 32 * (first % 64)))

/-- What an operation writes to registers when it is counted (R296). -/
def MRun.writes (r : MRun) (w : Nat) : List Write :=
  match r.op.kind with
  | .rd _ regs _ _ _ => (upto regs.length).map fun i => .vec (nth regs i 0) (lanesBelow w) ((r.words.drop (w * i)).take w)
  | _ => []

/-- MSCALE is counted: its words stand in its table, and in what streams that have started since latched of it (R285). -/
def State.endScale (s : State) (w : Nat) (r : MRun) (ctl : Dbl) : State :=
  let ws := scaleWrites ctl r.op.lanes r.op.was
  let x := s.wing w
  let x := if mscaleB ctl then { x with bstage := ssetAll 0 x.bstage ws }
    else { x with
      atab := ssetAll 0 x.atab ws, mrun := x.mrun.map fun q => if r.start < q.start then { q with pairs := ssetAll 0 q.pairs ws } else q }
  let num (i : Nat) : Nat := if mscaleB ctl then scaleStage i else scaleA i
  (s.putWing w x).matrixClean fun p => match p with | .scale v i => v == w && ws.any fun e => num e.1 == i | _ => false

/-- MATRIX_OP_COMPLETE (R281). -/
def execMatrixOpComplete (wing op : Nat) (s : State) : Out :=
  let x := s.wing wing
  let die := s.die (dieOfCore (coreOfWing wing))
  match x.mrun.find? fun r => r.op.id = op with
  | none => .next s
  | some r =>
    if die.gated || die.cycle < r.due then .next s
    else
      let x := { x with mrun := x.mrun.filter fun q => q.op.id ≠ op }
      let finish (s : State) : Out := .next (s.finishFlag r.op.coach (some r.op.fe) (r.writes (s.coach r.op.coach).width) [] 0)
      match r.op.kind with
      | .lodge _ _ => .next (s.endLodge (coreOfWing wing) r.start)
      | .scale _ ctl => finish ((s.putWing wing x).endScale wing r ctl)
      | .stream a fmt cl z =>
        let (ws, bad) := r.result a fmt cl z x.acc
        let t := (s.putWing wing { x with acc := ssetAll 0 x.acc ((upto 1024).map fun i => (1024 * a + i, nth ws i 0)) }).matrixClean
          fun p => match p with | .acc v b _ => v == wing && b == a | _ => false
        let t := t.recordDNan r.op false (firstFF fmt.toNat 16 (tileRow r.bytes) fun i j => (sget 0 r.pairs (24 * i + j)).toNat)
        finish (if bad then t.recordRcNan r a fmt ws else t)
      | _ => finish (s.putWing wing x)

/-- MSTREAM waiting at the head of its queue for a tile. -/
def Wing.starving (x : Wing) : Option MOp :=
  match x.mq with
  | o :: _ => (match o.kind with
    | .stream _ _ _ _ => if (tile? x.drover).isSome then none else some o
    | _ => none)
  | [] => none

/-- The wait for a tile begins, or is over; called as a cycle ends, with its number. -/
def Wing.noteStarve (x : Wing) (now : Nat) : Wing :=
  match x.starving, x.starve with
  | some _, none => { x with starve := some (now, false) }
  | none, some _ => { x with starve := none }
  | _, _ => x

/-- MSTARVE (R295): once for a stream that has waited 4,096 cycles. -/
def execMstarve (wing : Nat) (s : State) : Out :=
  let x := s.wing wing
  match x.starving, x.starve with
  | some o, some (t, false) =>
    if (s.die (dieOfCore (coreOfWing wing))).cycle < t + 4096 then .next s
    else
      let a := (o.kind.streamAcc).getD 0
      let d := match x.drover.st with | .running => 0 | .idle => 1 | .suspended => 2
      .next ((s.putWing wing { x with starve := some (t, true) }).record o.coach 2 0x31 o.addr
        (dnat (a + 16 * (wing % 4) + 256 * d)))
  | _, _ => .next s

end Sys2Proof.Machine
end

