-- ==== Sys2Proof/Machine/Place.lean ====
section
/-! DEFINITION. Placement (R224, R319 to R322): what a core offers, seats for a party's coaches, the footprint, convoys
and gangs, and the creation of a party. -/

namespace Sys2Proof.Machine

/-! What a core offers. -/

/-- A wing as placement sees it (R320): its free entries, its free words, whether it has no matrix owner, whether its
Drover is free. -/
structure Bay where
  wing : Nat
  free : List Nat
  words : Nat
  unowned : Bool
  drover : Bool
  deriving DecidableEq, Repr

/-- The words of vector registers that a coach holds (R320). -/
def Coach.words (c : Coach) : Nat := 8 * c.width * c.budget

/-- A wing's bay; one that is out of service offers nothing (R161). -/
def State.bay (s : State) (w : Nat) : Bay :=
  let g := s.wing w
  if g.out then { wing := w, free := [], words := 0, unowned := false, drover := false }
  else
    let used := (s.coachesOfWing w).foldl (fun (n : Nat) k => n + (s.coach k).words) 0
    { wing := w, free := (upto 16).filter fun i => !(s.coach (16 * w + i)).present, words := 65536 - used,
      unowned := g.owner.isNone, drover := g.drover.party.isNone }

/-- Seats a coach on a bay: its number and what is left. -/
def Bay.seat (b : Bay) (need : Nat) : Option (Nat × Bay) :=
  match b.free with
  | [] => none
  | i :: is => if need ≤ b.words then some (16 * b.wing + i, { b with free := is, words := b.words - need }) else none

/-- The role of each coach of a kernel, in coach order. -/
def Kernel.coaches (kn : Kernel) : List RoleEntry := kn.roles.flatMap fun r => List.replicate r.count r

/-- Words of a coach of a role. -/
def RoleEntry.words (w : Nat) (r : RoleEntry) : Nat := 8 * w * r.budget

/-- Seats for the matrix coaches, on wings 0 upward, each on a wing that has no owner (R320). -/
def seatMatrix (w : Nat) : Nat → List RoleEntry → List Bay → Option (List Nat × List Bay)
  | _, [], bs => some ([], bs)
  | j, r :: rs, bs =>
    match bs[j]? with
    | none => none
    | some b =>
      if !b.unowned then none
      else
        match b.seat (r.words w) with
        | none => none
        | some (k, b1) => (seatMatrix w (j + 1) rs (bs.set j b1)).map fun x => (k :: x.1, x.2)

/-- The bay with the most free budget, the lowest on a tie (R320). -/
def bestBay (bs : List Bay) : Option Nat :=
  (upto bs.length).foldl (fun (o : Option Nat) j =>
    match bs[j]? with
    | none => o
    | some b =>
      match o with
      | none => some j
      | some i => match bs[i]? with
        | some a => if a.words < b.words then some j else some i
        | none => some j) none

/-- Seats for the other coaches, each on its own wing: the core offers none where that wing has no entry or no room for it. -/
def seatOthers (w : Nat) : List RoleEntry → List Bay → Option (List Nat × List Bay)
  | [], bs => some ([], bs)
  | r :: rs, bs =>
    match bestBay bs with
    | none => none
    | some j =>
      match (bs[j]?).bind fun b => b.seat (r.words w) with
      | none => none
      | some (k, b1) => (seatOthers w rs (bs.set j b1)).map fun x => (k :: x.1, x.2)

/-- The seats in coach order, from those of the matrix coaches and of the others. -/
def mergeSeats : List RoleEntry → List Nat → List Nat → List Nat
  | [], _, _ => []
  | r :: rs, ms, os =>
    if r.role = .matrix then ms.headD 0 :: mergeSeats rs (ms.drop 1) os else os.headD 0 :: mergeSeats rs ms (os.drop 1)

/-- Bytes of a footprint (R224, R320). -/
def footprint (kn : Kernel) (spill : Nat) : Nat := roundUp (kn.scratch + 512 + 32 * spill * kn.coaches.length) 256

/-- The scratchpad region below an L1 share in KiB (R224). -/
def padEnd (l1 : Nat) : Nat := 0xC0000 - 1024 * l1

/-- First fit (R224): the least base at which a footprint meets no other. Footprints are multiples of 256, so such a base
is 0 or another footprint's end. -/
def firstFit (used : List (Nat × Nat)) (limit foot : Nat) : Option Nat :=
  (sortBy (fun b => b) (0 :: used.map fun u => u.1 + u.2)).find? fun b =>
    b + foot ≤ limit && used.all fun u => u.1 + u.2 ≤ b || b + foot ≤ u.1

/-- The parties that hold scratchpad on a core: a party keeps its allocation while it, or another member of its convoy, has a
coach that is not released, since members write each other's scratchpads (R321, R329; log 21). -/
def State.residents (s : State) (core : Nat) : List Nat :=
  (tkeys s.parties).filter fun p =>
    let x := s.party p
    x.core == core && x.st != .pending && x.st != .saved && (p :: x.convoy).any fun q => !(s.party q).coaches.isEmpty

/-- What the record asks of a core beyond the kernel: spill entries and Drover wings (R318). -/
def Launch.spill (l : Launch) : Nat := dbits (nth l.doubles 0 0) 10 4
def Launch.drw (l : Launch) : Nat := dbits (nth l.doubles 0 0) 14 11
def Launch.prio (l : Launch) : Nat := dbits (nth l.doubles 0 0) 3 2

/-- The seats of a party on a core: its coaches in coach order and its footprint's base; none if the core does not offer
everything at once (R320). -/
def State.seats (s : State) (core : Nat) (kn : Kernel) (spill drw : Nat) : Option (List Nat × Nat) :=
  let rs := s.residents core
  let bays := (upto 4).map fun i => s.bay (4 * core + i)
  let cs := kn.coaches
  if !rs.isEmpty && (s.core core).l1share != kn.l1 then none
  else if (upto 4).any fun i => tbit drw i && !(bays.any fun b => b.wing == 4 * core + i && b.drover) then none
  else
    match firstFit (rs.map fun p => ((s.party p).base - 256, (s.party p).foot)) (padEnd kn.l1) (footprint kn spill) with
    | none => none
    | some base =>
      match seatMatrix kn.width 0 (cs.filter fun r => r.role == .matrix) bays with
      | none => none
      | some (ms, b1) =>
        (seatOthers kn.width (cs.filter fun r => r.role != .matrix) b1).map fun x => (mergeSeats cs ms x.1, base)

/-! Creating a party. -/

/-- The Drovers and arrays of the wings that a party takes: those of DRW, and its matrix coaches' (R276, R300, R320). A Drover that served
another party is reset for the owner's, and the walk that it had counts on its flag (log 22). -/
def State.takeEngines (s : State) (p core drw : Nat) (owners : List Nat) : State :=
  (upto 4).foldl (fun s i =>
    let w := 4 * core + i
    let own := owners.find? fun k => wingOf k == w
    if tbit drw i || own.isSome then
      (s.finishFlag (s.wing w).drover.coach (s.wing w).drover.fe [] [] 0).modWing w fun g =>
        let g := { g with drover := { Drover.reset with party := some p } }
        match own with
        | some k => { g with
            owner := some k, lodged := false, lfmt := 0, issuedFmt := none, lodge := [], bscale := [], bstage := [], atab := [],
            acc := [], mq := [], mrun := [], starve := none }
        | none => g
    else s) s

/-- A core's share for a party (R224); a share that changes leaves nothing in the L1. -/
def Core.share (c : Core) (l1 : Nat) : Core := if c.l1share = l1 then c else { c with l1share := l1, l1 := [] }

/-- Zeroes a range of scratchpad, and with it the errors it held. -/
def State.zeroSram (s : State) (core lo len : Nat) : State :=
  { s.modCore core fun c => { c with sram := c.sram.filter fun e => !(lo ≤ e.1 && e.1 < lo + len) } with
    poison := s.poison.filter fun p => match p with
      | .sram c w => !(c == core && lo ≤ 4 * w && 4 * w < lo + len)
      | _ => true }

/-- Errors of earlier contents do not outlive them: those of the coach entries, and those of the engines that a party takes (R276, R300,
R319). -/
def State.freshSites (s : State) (core drw : Nat) (ks owners : List Nat) : State :=
  if s.poison.isEmpty then s
  else
    let own (w : Nat) : Bool := owners.any fun k => wingOf k == w
    let served (w : Nat) : Bool := w / 4 == core && (tbit drw (w % 4) || own w)
    { s with poison := s.poison.filter fun p => match p with
        | .vreg k _ _ => !ks.contains k
        | .sreg k _ => !ks.contains k
        | .preg k _ => !ks.contains k
        | .latch k _ _ => !ks.contains k
        | .shadow k _ => !ks.contains k
        | .hreg k _ _ => !ks.contains k
        | .flag k _ => !ks.contains k
        | .sys k _ => !ks.contains k
        | .acc w _ _ => !own w
        | .lodge w _ => !own w
        | .scale w _ => !own w
        | .beat w _ _ => !served w
        | _ => true }

/-- The room that a party takes on a core, with its matrix coaches. Its launch, or its restoration, happens before its first bundle: its
core's L1 is invalidated (R237, R324). -/
def State.occupy (s : State) (p core : Nat) (ks owners : List Nat) (base : Nat) : State :=
  let x := s.party p
  let l := s.launch x.launch
  let s := ((s.modCore core fun c => c.share l.kernel.l1).selfInvalidate core).takeEngines p core l.drw owners
  let s := s.freshSites core l.drw ks owners
  s.putParty p { x with
    st := .running, core := core, die := dieOfCore core, base := base + 256, size := l.kernel.scratch,
    foot := footprint l.kernel l.spill, coaches := ks, since := s.tick, promoted := false, avoid := none }

/-- The matrix coaches among the seats of a kernel. -/
def Kernel.owners (kn : Kernel) (ks : List Nat) : List Nat :=
  ((List.zip ks kn.coaches).filter fun e => e.2.role == .matrix).map (·.1)

/-- A coach as created (R319). -/
def newCoach (l : Launch) (x : Party) (p num now : Nat) (r : RoleEntry) : Coach :=
  let w := l.kernel.width
  let lanes := dbits (nth l.doubles 0 0) 21 15
  let m := lanesBelow (if lanes = 0 then w else lanes)
  let s4 := num + 16 * x.k + 256 * (if x.convoy.isEmpty then 1 else x.convoy.length) + 4096 * (x.relaunches % 256)
  { Coach.blank with
    present := true, role := r.role, width := w, budget := r.budget, num := num, party := p, asid := l.asid,
    schk := (nth l.doubles 0 0).getLsbD 0, spill := l.spill,
    s := ssetAll 0 [] [(1, nth l.doubles 4 0), (2, s2Image x.d x.c), (3, x.token), (4, dnat s4)],
    pc := r.entry, next := now + 1, launched := m, live := m, stack := [StackEntry.base m], tvec := nth l.doubles 10 0,
    dtbase := l.kernel.dtab, dtlen := l.kernel.dtlen }

/-- A party is created on a core (R319). -/
def State.createParty (s : State) (p core : Nat) (ks : List Nat) (base : Nat) : State :=
  let l := s.launch (s.party p).launch
  let s := s.occupy p core ks (l.kernel.owners ks) base
  let x := s.party p
  let s := (s.putParty p { x with shapes := [], held := [], sstep := none, relaunchable := true }).zeroSram core x.base x.size
  (List.zip ks (upto ks.length)).foldl (fun s e =>
    match l.kernel.coaches[e.2]? with
    | some r => s.putCoach e.1 (newCoach l x p e.2 (s.now e.1) r)
    | none => s) s

/-! Where parties go. -/

/-- How a party comes to a core; none if the core does not offer everything that it needs. -/
abbrev Maker := State → Nat → Nat → Option State

/-- A party is created on a core that takes it. -/
def State.createOn (s : State) (p core : Nat) : Option State :=
  let l := s.launch (s.party p).launch
  (s.seats core l.kernel l.spill l.drw).map fun e => s.createParty p core e.1 e.2

/-- A party on one core. -/
def State.seatOn (s : State) (make : Maker) (p core : Nat) : Option State :=
  if (s.party p).avoid == some core then none else make s p core

/-- A party alone on the lowest core of its die that offers room (R320). -/
def State.seatAlone (s : State) (make : Maker) (p : Nat) : Option State :=
  (upto 64).findSome? fun i => s.seatOn make p (64 * (s.party p).die + i)

/-- The members of a convoy in a 2 × 2 block whose first core is given (R321). -/
def State.seatBlock (s : State) (make : Maker) (core : Nat) : List Nat → Option State
  | [] => some s
  | p :: ps =>
    let k := (s.party p).k
    match s.seatOn make p (core + k % 2 + 8 * (k / 2)) with
    | none => none
    | some t => t.seatBlock make core ps

/-- A convoy in the block of lowest first core that takes it whole (R321). -/
def State.seatConvoy (s : State) (make : Maker) (ps : List Nat) : Option State :=
  match ps with
  | [] => some s
  | p :: _ =>
    if (s.party p).convoy.isEmpty then s.seatAlone make p
    else (upto 16).findSome? fun i => s.seatBlock make (64 * (s.party p).die + 16 * (i / 4) + 2 * (i % 4)) ps

/-- The parties that are placed and pre-empted together (R321): a gang of a kernel with supersteps, or a convoy. -/
def State.unitOf (s : State) (p : Nat) : List Nat :=
  let x := s.party p
  let kn := (s.launch x.launch).kernel
  let g := if kn.sstep then s.groupOf x.launch x.d kn.slev else []
  if g.contains p then g else s.convoyOf p

/-- Whether a party waits for a core. -/
def Party.waits (x : Party) : Bool := x.st == .pending || x.st == .saved

/-- The convoys of some parties, each once, in order. -/
def State.convoysOf (s : State) (ps : List Nat) : List (List Nat) :=
  ps.foldl (fun (acc : List (List Nat)) p => if acc.any (·.contains p) then acc
    else acc ++ [(s.convoyOf p).filter ps.contains]) []

/-- Places the waiting members of a unit, convoy by convoy; none if they do not all fit at once (R321). -/
def State.seatUnit (s : State) (make : Maker) (ps : List Nat) : Option State :=
  (s.convoysOf (ps.filter fun p => (s.party p).waits)).foldl (fun (o : Option State) c => o.bind fun t => t.seatConvoy make c) (some s)

/-! Order (R322). -/

/-- Lexicographic order. -/
def lexLt : List Nat → List Nat → Bool
  | _, [] => false
  | [], _ :: _ => true
  | a :: as, b :: bs => a < b || (a == b && lexLt as bs)

/-- Effective priority. -/
def State.effPrio (s : State) (p : Nat) : Nat :=
  if (s.party p).promoted then 4 else (s.launch (s.party p).launch).prio

/-- The place of a pending party in its Ostler's order. -/
def State.rank (s : State) (p : Nat) : List Nat :=
  let x := s.party p
  [4 - s.effPrio p, x.pendSince, x.launch, x.d, x.c]

/-- The pending parties of a die in the order in which they are served. -/
def State.pendingOn (s : State) (die : Nat) : List Nat :=
  ((tkeys s.parties).filter fun p => (s.party p).waits && (s.party p).die == die).foldl (fun acc p =>
    (acc.filter fun q => !lexLt (s.rank p) (s.rank q)) ++ p :: acc.filter fun q => lexLt (s.rank p) (s.rank q)) []

/-- Whether a unit may be placed at all now: none of it is still being saved or restored elsewhere, no rollback holds
its job, and the job is not stopped (R352, R360). -/
def State.placeable (s : State) (p : Nat) : Bool :=
  let n := (s.job (s.launch (s.party p).launch).asid.toNat).snap
  (s.party p).waits && !n.rollback && !n.stopped &&
    (s.unitOf p).all fun q => (s.party q).st != .halting && (s.party q).st != .draining

/-- A pending unit goes to its cores (R320 to R322): it fits, and no earlier one of its dies does. -/
def State.placeUnit (s : State) (make : Maker) (p : Nat) : State :=
  if !s.placeable p then s
  else
    match s.seatUnit make (s.unitOf p) with
    | none => s
    | some t =>
      let dies := dedup ((s.unitOf p).map fun q => (s.party q).die)
      let earlier := dies.flatMap fun d => (s.pendingOn d).takeWhile fun q => lexLt (s.rank q) (s.rank p)
      if earlier.any fun q => s.placeable q && !(s.unitOf q).contains p && (s.seatUnit make (s.unitOf q)).isSome then s
      else t

/-- PRIORITY_PROMOTE (R322): after 4 ms pending. -/
def execPriorityPromote (party : Nat) (s : State) : Out :=
  let x := s.party party
  if x.waits && !x.promoted && !(s.die x.die).gated && x.pendSince + 6800000 ≤ s.tick then .next (s.putParty party { x with promoted := true })
  else .next s

end Sys2Proof.Machine
end

