-- ==== Sys2Proof/Machine/System.lean ====
section
/-! DEFINITION. Traps, system registers, breakpoints, the tick and the statistics queue: the C syllables of R150 to
R153, R362, R367 to R372 and R374, and the layout of shadow records (R159). -/

namespace Sys2Proof.Machine

/-- The image of a handle (R193): four doubles. -/
def Handle.image (h : Handle) : List Dbl :=
  let st := match h.st with | .empty => 0 | .valid => 1 | .absent => 2 | .pending => 3 | .poisoned => 4
  let size := if h.st = .pending then 0 else h.size.toNat
  [dnat (st * 2 ^ 61 + size * 2 ^ 59 + bnat h.wb * 2 ^ 58 + bnat h.enc * 2 ^ 57 + h.vbase.toNat), h.pbase,
    dnat (h.hi.toNat * 2 ^ 32 + h.lo.toNat),
    dnat (h.asid.toNat * 2 ^ 48 + h.key.toNat * 2 ^ 40 + h.rights.toNat * 2 ^ 36)]

/-- The position, 1 to 4, of a latch entry in its class, or 0 (R148). -/
def latchPos (id : Nat) (ls : List Latch) : Nat :=
  match (ls.take 4).findIdx? fun e => e.id == id with
  | some i => i + 1
  | none => 0

/-- A list of doubles padded to a multiple of 16 bytes. -/
def padEven (l : List Dbl) : List Dbl := if l.length % 2 = 1 then l ++ [0] else l

/-- Words two to a double, low word first. -/
def dblsOfWords (ws : List Word) : List Dbl := dblsOfBytes (bytesOfWords (if ws.length % 2 = 1 then ws ++ [0] else ws))

/-- A shadow record (R159): `set` is 1 for the trap set, `lats` the latches it goes with. -/
def shadowRecord (set w : Nat) (lats : Latches) (f : Landing) : List Dbl :=
  let (cls, pos) := match f.lat with
    | some (.v, id) => (0, latchPos id lats.v)
    | some (.m, id) => (1, latchPos id lats.m)
    | some (.c, id) => (2, latchPos id lats.c)
    | _ => (3, 0)
  let cls := if pos = 0 then 3 else cls
  let (kind, dst, mask, val) : Nat × Nat × Lanes × List Dbl := match f.w with
    | .vec r m vs => (0, r, m, dblsOfWords (vs.take w))
    | .latV m vs => (0, 0xFD, m, dblsOfWords (vs.take w))
    | .scl r v => (1, r, 0, [v])
    | .latC v => (1, 0xFD, 0, [v])
    | .prd p m b => (2, p, m, [b])
    | .hnd h v => (3, h, 0, v.image)
    | .flags b => (4, 0, 0, [b.setWidth 64 <<< 8])
    | .sys _ v => (4, 0, 0, [v &&& 0x1F00])
  padEven (dnat (set * 2 ^ 63 + f.due * 2 ^ 48 + dst * 2 ^ 40 + kind * 2 ^ 37 + cls * 2 ^ 35 + pos * 2 ^ 32) :: mask :: val)

/-- TSTAT (R144). -/
def Coach.tstat (c : Coach) : Dbl := dnat (8 * bnat c.emu + 4 * bnat c.priv + bnat c.intrap)

/-- FPMODE as a read sees it: a flag that is still to land may or may not be there (R105). -/
def State.readFpmode (s : State) (c : Coach) : Dbl :=
  c.inflight.foldl (fun v f =>
    match f.w with
    | .flags b => if f.seq < s.cur.seq then v ||| ((b.setWidth 64 <<< 8) &&& Config.freeDbl s.freeCtr (80000 + f.id)) else v
    | _ => v) c.fpmode

/-- A system register (R153); none if the number is unassigned. -/
def State.sysRead (s : State) (k : Nat) (c : Coach) (n : Nat) : Option Dbl :=
  match n with
  | 0x00 => some (s.readFpmode c)
  | 0x01 => some c.tvec
  | 0x02 => some c.tcause
  | 0x03 => some c.tinfo
  | 0x04 => some c.trappc
  | 0x05 => some c.tstat
  | 0x06 => some c.tnext
  | 0x07 => some c.dtbase
  | 0x08 => some c.dtlen
  | 0x09 => some c.lcnt
  | 0x0A => some c.ecnt
  | 0x0B => some c.lbody
  | 0x0C => some c.rotb
  | 0x0D => some (dnat c.trapset.length)
  | 0x0E => some c.tshsel
  | 0x0F =>
    match c.trapset[dbits c.tshsel 15 8]? with
    | some f => some (nth (shadowRecord 1 c.width c.tlat f) (dbits c.tshsel 7 0) 0)
    | none => some 0
  | 0x10 => some (s.coachId k)
  | _ => none

/-- Whether SYSWR may write a register at all. -/
def sysWritable (n : Nat) : Bool := n ≤ 0x0E && n ≠ 0x05 && n ≠ 0x0D

/-- Whether a value keeps its register's rules (R102, R130, R143, R144, R153). -/
def sysValueOk (n : Nat) (v : Dbl) : Bool :=
  match n with
  | 0x00 => dbits v 63 13 == 0 && dbits v 7 4 == 0
  | 0x01 => dbits v 63 57 == 0 && v.toNat % 4 == 0
  | 0x02 => dbits v 63 12 == 0
  | 0x04 => dbits v 63 57 == 0
  | 0x06 => dbits v 62 57 == 0
  | 0x09 => dbits v 63 32 == 0
  | 0x0A => dbits v 62 2 == 0
  | 0x0B => dbits v 63 57 == 0
  | 0x0C =>
    dbits v 63 29 == 0 && dbits v 19 14 == 0 && dbits v 7 6 == 0 && rotVSize v ≤ 32 && rotSSize v ≤ 16 &&
      (if rotVSize v = 0 then rotVBase v == 0 else rotVBase v < rotVSize v) &&
      (if rotSSize v = 0 then rotSBase v == 0 else rotSBase v < rotSSize v)
  | 0x0E => dbits v 63 16 == 0
  | _ => true

/-- PRIV (R142). -/
def privTrap (slot : Nat) : Trap := mkTrap 0x13 slot (dnat slot)

/-- TRAP (R151): SOFT follows the bundle. -/
def execTrap (o : CSrc) (s : State) : Out :=
  onCoach s fun k c =>
    if s.active c o.g = 0 then .next s else .next (s.putCoach k { c with soft := some (s.rdS c o.a) })

/-- RETT (R152). -/
def execRett (s : State) : Out :=
  onCoach s fun k c =>
    if c.path = 0 then .next s
    else if !c.intrap then raise s k (illegal 3 0 0x39)
    else
      let c := c.leaveTrap (s.cur.cycle + s.cur.gap + 1)
      .next ((s.putCoach k c).setCur fun u => { u with npc := some c.pc, pend := c.pend })

/-- SYSRD (R153). -/
def execSysrd (o : CSysrd) (s : State) : Out :=
  onCoach s fun k c =>
    if s.active c o.g = 0 then .next (s.putCoach k (c.sclSkip s.cur.seq))
    else if 256 ≤ o.n.toNat then raise s k (illegal 3 3 o.n.toNat)
    else
      match s.sysRead k c o.n.toNat with
      | none => raise s k (illegal 3 3 o.n.toNat)
      | some v => .next (s.putCoach k (c.sclResult (s.dueAt 1) s.cur.seq o.d v))

/-- A SYSWR of FPMODE: V syllables two bundles on see the modes, and a flag of an earlier bundle that had not landed when SYSWR
issued may be lost to the write (R186). -/
def State.writeFpmode (s : State) (c : Coach) (v : Dbl) : Coach :=
  let lose (f : Landing) : Landing :=
    match f.w with
    | .flags b =>
      if f.seq < s.cur.seq && s.cur.cycle < f.due then
        { f with w := .flags (b &&& (Config.freeDbl s.freeCtr (81000 + f.id)).setWidth 5) }
      else f
    | _ => f
  { c with fpctl := ((s.cur.seq + 2, v.setWidth 4) :: c.fpctl).take 3, inflight := c.inflight.map lose }

/-- SYSWR (R153). -/
def execSyswr (o : CSyswr) (s : State) : Out :=
  onCoach s fun k c =>
    if s.active c o.g = 0 then .next s
    else
      let n := o.n.toNat
      let v := s.rdS c o.b
      if 256 ≤ n || !sysWritable n then raise s k (illegal 3 3 n)
      else if (n = 7 ∨ n = 8) ∧ !c.priv then raise s k (privTrap 3)
      else if !sysValueOk n v then raise s k (illegal 3 4 (v.toNat % 2 ^ 56))
      else
        let c := if n = 0 then s.writeFpmode c v else c
        .next (s.putCoach k (c.later (s.dueAt 1) s.cur.seq (.sys n v) none))

/-! Debug. -/

/-- BRK with a source, a comparator and a code (R367). The slot is C, that of a breakpoint and of a step trap too, which no syllable causes
(log 91). -/
def brkTrap (src cmp : Nat) (code : Dbl) : Trap := mkTrap 0x0F 3 (dnat (src + 4 * cmp + 256 * (code.toNat % 2 ^ 56)))

/-- BRK (R368). -/
def execBrk (o : CSrc) (s : State) : Out :=
  onCoach s fun k c => if s.active c o.g = 0 then .next s else raise s k (brkTrap 0 0 (s.rdS c o.a))

/-- BRK.STEP (R370). -/
def execBrkStep (o : CSrc) (s : State) : Out :=
  onCoach s fun k c =>
    if s.active c o.g = 0 then .next s
    else .next (s.putCoach k { c with steps := min (s.rdS c o.a).toNat 65535, stepDue := false })

/-- A disabled comparator. -/
def Bp.off : Bp := { on := false, addr := 0, asid := 0 }
def Watch.off : Watch := { kind := 0, space := false, start := 0, len := 0, asid := 0 }

/-- BRK.BSET (R369). -/
def execBrkBset (o : CSrc2) (s : State) : Out :=
  onCoach s fun k c =>
    if s.active c o.g = 0 then .next s
    else
      let a := s.rdS c o.a
      let b := (s.rdS c o.b).toNat
      let w := wingOf k
      let cmp := sget Bp.off (s.wing w).bps (b % 4)
      if badTarget a then raise s k (illegal 3 3 a.toNat)
      else if 4 ≤ b then raise s k (illegal 3 4 b)
      else if !(s.job c.asid.toNat).dbgen then raise s k (privTrap 3)
      else if cmp.on && cmp.asid != c.asid && !c.priv then raise s k (privTrap 3)
      else
        let x : Bp := if a = 0 then Bp.off else { on := true, addr := a, asid := c.asid }
        .next (s.modWing w fun g => { g with bps := sset Bp.off g.bps b x })

/-- BRK.WSET (R371). -/
def execBrkWset (o : CSrc2) (s : State) : Out :=
  onCoach s fun k c =>
    if s.active c o.g = 0 then .next s
    else
      let a := s.rdS c o.a
      let b := s.rdS c o.b
      let w := wingOf k
      let i := dbits b 1 0
      let cmp := sget Watch.off (s.wing w).watches i
      if (if b.getLsbD 4 then 2 ^ 20 ≤ a.toNat else dbits a 63 57 ≠ 0) then raise s k (illegal 3 3 a.toNat)
      else if dbits b 31 5 ≠ 0 ∨ (dbits b 63 32 = 0 ∧ dbits b 3 2 ≠ 0) then raise s k (illegal 3 4 b.toNat)
      else if !(s.job c.asid.toNat).dbgen then raise s k (privTrap 3)
      else if cmp.kind != 0 && cmp.asid != c.asid && !c.priv then raise s k (privTrap 3)
      else
        let x : Watch :=
          if dbits b 3 2 = 0 then Watch.off
          else { kind := BitVec.ofNat 2 (dbits b 3 2), space := b.getLsbD 4, start := a, len := BitVec.ofNat 32 (dbits b 63 32),
                 asid := c.asid }
        .next (s.modWing w fun g => { g with watches := sset Watch.off g.watches i x })

/-- TICK (R362). -/
def execTick (o : CTick) (s : State) : Out := cResult s o.g (.reg o.d) fun s _ => dnat s.tick

/-- A scalar result on a flag that lands between two cycles (R314, R374). -/
def Coach.sclFlagged (c : Coach) (early due seq f d : Nat) (enters : Bool) (v : Dbl) : Coach :=
  let (c, lat) := if enters then (let (c, id) := c.enter .c seq false [] v; (c, some id)) else (c, none)
  let w : Write := if d = 0 then .latC v else .scl (c.renS d) v
  let (c, fe) := c.openFlag f seq [w] lat
  let l : Landing := { id := c.fresh, due := due, early := early, seq := seq, w := w, lat := lat.map fun i => (.c, i), fe := some fe }
  { c with inflight := c.inflight ++ [l], fresh := c.fresh + 1 }

/-- Removes the first record of an ASID. -/
def popRec (asid : Nat) : List Rec → List Rec
  | [] => []
  | r :: rs => if dbits r.d0 31 16 = asid then rs else r :: popRec asid rs

/-- Double k of a record. -/
def Rec.dbl (r : Rec) (k : Nat) : Dbl := if k = 0 then r.d0 else if k = 1 then r.d1 else if k = 2 then r.d2 else r.d3

/-- STATQ (R374). -/
def execStatq (o : CStatq) (s : State) : Out :=
  onCoach s fun k c =>
    if s.active c o.g = 0 then .next (s.putCoach k (c.sclSkip s.cur.seq))
    else
      let asid := c.asid.toNat
      let q := (s.core (coreOf k)).statq
      let v : Dbl := match q.find? fun r => dbits r.d0 31 16 == asid with
        | some r => r.dbl o.k
        | none => 0
      let s := if o.pop then s.modCore (coreOf k) fun x => { x with statq := popRec asid x.statq } else s
      .next (s.putCoach k (c.sclFlagged (s.cur.cycle + 1) (s.cur.cycle + 8) s.cur.seq o.f o.d true v))

end Sys2Proof.Machine
end

