-- ==== Sys2Proof/Machine/Context.lean ====
section
/-! DEFINITION. The context save area (R157 to R159), the matrix and Drover sections (R298, R317) and the save slot
(R323): their doubles as they are written, the check that refuses an area, and the coach that an area restores. -/

namespace Sys2Proof.Machine

/-! Writing. -/

def roleCode : Role → Nat
  | .general => 0
  | .copy => 1
  | .matrix => 2
  | .epilogue => 3

/-- The code of a width (R157). -/
def widthCode (w : Nat) : Nat := if w = 64 then 2 else if w = 32 then 1 else 0

/-- Words as doubles, n of them. -/
def wordBlock (vs : List Word) (n : Nat) : List Dbl := dblsOfWords ((upto (2 * n)).map fun i => nth vs i 0)

/-- The youngest four latches of a class as values; one whose value is still in a record holds 0. -/
def latchVals {α : Type} (z : α) (f : Latch → α) (ls : List Latch) : List α :=
  (upto 4).map fun i => match ls[i]? with
    | some e => if e.landed then f e else z
    | none => z

/-- A latch section: cb1 to cb4, vb1 to vb4, mb1 to mb4 (R158). -/
def Latches.image (t : Latches) : List Dbl :=
  latchVals 0 (·.val) t.c ++ (latchVals [] (·.vals) t.v).flatMap (wordBlock · 32) ++ (latchVals [] (·.vals) t.m).flatMap (wordBlock · 32)

/-- The STOP double at freeze cycle F (R157). A barrier wait shows the phase q that it waits to see changed (R251). -/
def stopImage (F : Nat) : Stop → Dbl
  | .wait f n => dnat (n * 2 ^ 32 + f * 256 + 1)
  | .yield u => dnat ((u - F) * 2 ^ 32 + 2)
  | .barrier k q => dnat (bnat q * 2 ^ 32 + k * 256 + 3)
  | .cwait n => dnat (n.toNat * 2 ^ 32 + 4)
  | _ => 0

/-- The counts of eight flags, one byte each. -/
def Coach.flagBytes (c : Coach) (lo : Nat) : Dbl :=
  dnat ((upto 8).foldl (fun (n : Nat) i => n + c.count (lo + i) * 256 ^ i) 0)

/-- Exponent pairs from a table, four to a double. -/
def pairBlock (t : Sparse (BitVec 16)) (n : Nat) : List Dbl :=
  (upto n).map fun i => dnat ((upto 4).foldl (fun (v : Nat) j => v + (sget 0 t (4 * i + j)).toNat * 2 ^ (16 * j)) 0)

/-- A frozen matrix operation (R298). -/
def MOp.image (o : MOp) (num : Nat) : List Dbl :=
  [dnat (num * 2 ^ 44 + dbits o.syl 39 0), o.lanes, match o.kind with
    | .scale _ ctl => ctl
    | .rd _ _ r n _ => dnat (r + 16 * n)
    | .wr _ _ r n => dnat (r + 16 * n)
    | _ => 0, 0]

/-- The matrix section (R298). `num` gives the number of a coach in its party. -/
def Wing.matrixImage (x : Wing) (num : Nat → Nat) : List Dbl :=
  wordBlock ((upto 4096).map (sget 0 x.acc)) 2048 ++
    [dnat (bnat x.lodged * 2 ^ 63 + x.lfmt.toNat), dnat x.mq.length] ++ List.replicate 30 0 ++
    wordBlock ((upto 6144).map (sget 0 x.lodge)) 3072 ++ pairBlock x.bscale 384 ++ pairBlock x.bstage 384 ++
    pairBlock x.atab 96 ++ x.mq.flatMap fun o => o.image (num o.coach)

/-- Table entries 0 to 8, low double first (R317). -/
def tableImage (t : Sparse (Dbl × Dbl)) : List Dbl := (upto 9).flatMap fun k => [(entry t k).1, (entry t k).2]

/-- The Drover section of a coach of w lanes (R317). -/
def Drover.image (d : Drover) (w num : Nat) : List Dbl :=
  let beats := (d.sa ++ d.q0 ++ d.q1).flatMap fun b => dblsOfBytes b.bytes
  let is := indicesOf d.active d.pos
  let ix (k : Nat) : Nat := nth is k 0
  [dnat (0x160 + 384 * d.sa.length + 4 * w * (d.q0.length + d.q1.length)), d.status, dnat (d.f + 16 * num),
    dnat (ix 0 + 2 ^ 16 * ix 1 + 2 ^ 32 * ix 2 + 2 ^ 48 * ix 3), dnat (ix 4 + 2 ^ 16 * ix 5),
    dnat (d.sa.length + 2 ^ 8 * d.q0.length + 2 ^ 16 * d.q1.length), 0, 0] ++ tableImage d.active ++ tableImage d.shadow ++ beats

/-- Padded with zeros to a multiple of n doubles. -/
def padDbls (n : Nat) (l : List Dbl) : List Dbl := l ++ List.replicate (roundUp l.length n - l.length) 0

/-- A coach's context area (R157, R158), frozen at F with the records of its live set. -/
def contextImage (c : Coach) (F : Nat) (live : List Landing) (matrix drover : Option (List Dbl)) : List Dbl :=
  let w := c.width
  let vecs := wordBlock ((upto (8 * c.budget * w)).map fun i => sget 0 c.v (64 * (i / w) + i % w)) (4 * c.budget * w)
  let stk := c.stack.reverse.flatMap StackEntry.image
  let recs := live.flatMap (shadowRecord 0 w c.lat) ++ c.trapset.flatMap (shadowRecord 1 w c.tlat)
  let offV := 0x1600
  let offStk := offV + 8 * vecs.length
  let offSh := offStk + 8 * stk.length
  let offAcc := offSh + 8 * recs.length
  let acc := matrix.getD []
  let offDrv := offAcc + 8 * acc.length
  let drv := drover.getD []
  let size := roundUp (offDrv + 8 * drv.length) 256
  let cdesc := live.length * 2 ^ 48 + c.trapset.length * 2 ^ 40 + c.stack.length * 2 ^ 32 + c.budget * 2 ^ 24 +
    widthCode w * 2 ^ 22 + bnat drover.isSome * 2 ^ 21 + bnat matrix.isSome * 2 ^ 20 + roleCode c.role * 2 ^ 18 +
    bnat c.intrap * 2 ^ 17 + size / 256
  let header : List Dbl :=
    [dnat cdesc, c.pc, if c.intrap then c.tnext else c.tnextOf c.pend, stopImage F c.stop, dnat (min (c.next - F) 16),
      c.flagBytes 0, c.flagBytes 8, c.lcnt, c.ecnt, c.lbody, c.rotb, c.fpmode, c.tvec, c.tcause, c.tinfo, c.trappc, c.tstat,
      c.dtbase, c.dtlen, dnat offV, dnat offStk, if recs.isEmpty then 0 else dnat offSh,
      if matrix.isSome then dnat offAcc else 0, if drover.isSome then dnat offDrv else 0] ++ List.replicate 8 0
  padDbls 32 (header ++ (upto 64).map (fun n => if n = 0 then 0 else sget 0 c.s n) ++
    (upto 16).flatMap (fun n => (sget Handle.blank c.h n).image) ++ (upto 12).map (fun n => sget 0 c.p n) ++ List.replicate 4 0 ++
    c.lat.image ++ (if c.intrap then c.tlat.image else List.replicate 260 0) ++ List.replicate 8 0 ++
    vecs ++ stk ++ recs ++ acc ++ drv)

/-- A shape slot (R323). -/
def Shape.image (h : Shape) : List Dbl :=
  (upto 8).map (fun i => nth h.desc i 0) ++ [dnat (bnat h.valid * 2 ^ 63 + h.h), dnat (h.lo + 2 ^ 32 * h.hi)]

/-- The head of a save slot (R323). -/
def slotHead (x : Party) : List Dbl :=
  [s2Image x.d x.c, x.token, (match x.tile with | some t => dnat (2 ^ 63 + t) | none => 0), dnat x.ssteps, dnat x.relaunches] ++
    List.replicate 27 0 ++ (upto 16).flatMap fun i => (sget Shape.blank x.shapes i).image

/-- The largest context area of a coach: a full stack, full sets of records (255 of 272 bytes at 64 lanes), and a matrix section
when it is a matrix coach. -/
def contextMax (w spill : Nat) (r : RoleEntry) : Nat :=
  roundUp (0x1600 + 32 * w * r.budget + 32 * (32 + spill) + 510 * (16 + max 32 (4 * w)) +
    (if r.role = .matrix then 0xBC00 + 32 * 16 else 0)) 256

/-- The slot size of a party (R325 status 6): what its largest saved state needs. -/
def slotSize (kn : Kernel) (spill : Nat) : Nat :=
  0x600 + (kn.coaches.foldl (fun (n : Nat) r => n + contextMax kn.width spill r) 0) +
    min 4 kn.coaches.length * roundUp (0x160 + 384 * 64 + 4 * kn.width * 32) 256 + footprint kn spill

/-! Reading. -/

/-- The doubles of an area, by byte offset. -/
abbrev Reader := Nat → Dbl

/-- A stack entry, and whether its reserved bits are zero. -/
def stackOf (rd : Reader) (o : Nat) : StackEntry :=
  { mask := rd o, pending := tbit (rd (o + 8)).toNat 63, dcall := tbit (rd (o + 8)).toNat 62, pc := (rd (o + 8)).setWidth 57,
    rpc := (rd (o + 16)).setWidth 57, dret := (rd (o + 24)).setWidth 57 }

def stackOk (rd : Reader) (o : Nat) : Bool :=
  dbits (rd (o + 8)) 61 57 == 0 && dbits (rd (o + 16)) 63 57 == 0 && dbits (rd (o + 24)) 63 57 == 0

/-- A handle from its image (R193). -/
def handleOf (rd : Reader) (o : Nat) : Handle :=
  let d0 := rd o
  let d3 := rd (o + 24)
  let st : HState := match dbits d0 63 61 with | 1 => .valid | 2 => .absent | 3 => .pending | 4 => .poisoned | _ => .empty
  { st := st, size := BitVec.ofNat 2 (dbits d0 60 59), wb := d0.getLsbD 58, enc := d0.getLsbD 57, vbase := d0.setWidth 57,
    pbase := rd (o + 8), hi := BitVec.ofNat 32 (dbits (rd (o + 16)) 63 32), lo := BitVec.ofNat 32 (dbits (rd (o + 16)) 31 0),
    asid := BitVec.ofNat 16 (dbits d3 63 48), key := BitVec.ofNat 8 (dbits d3 47 40), rights := BitVec.ofNat 4 (dbits d3 39 36),
    peer := false, walk := 0, mask := 0 }

def handleOk (rd : Reader) (o : Nat) : Bool := dbits (rd o) 63 61 ≤ 4 && dbits (rd (o + 24)) 35 0 == 0

/-- Bytes of a record's value by its kind (R159). -/
def recordValue (w : Nat) (d0 : Dbl) : Nat :=
  match dbits d0 39 37 with
  | 0 => 4 * w
  | 3 => 32
  | 1 => if dbits d0 47 40 = 0xFD ∧ dbits d0 36 35 ≠ 2 ∧ dbits d0 36 35 ≠ 3 then 4 * w else 8
  | _ => 8

/-- The offsets of n records from o, and the end. -/
def recordOffsets (rd : Reader) (w : Nat) : Nat → Nat → List Nat × Nat
  | 0, o => ([], o)
  | n + 1, o =>
    let r := recordOffsets rd w n (o + roundUp (16 + recordValue w (rd o)) 16)
    (o :: r.1, r.2)

def recordOk (rd : Reader) (set : Nat) (o : Nat) : Bool :=
  let d := rd o
  dbits d 63 63 == set && dbits d 62 56 == 0 && dbits d 31 0 == 0 && 1 ≤ dbits d 55 48 && dbits d 55 48 ≤ 15 &&
    dbits d 39 37 ≤ 4 && dbits d 34 32 ≤ 4 && (dbits d 39 37 != 3 || handleOk rd (o + 16)) &&
    (dbits d 39 37 != 4 || rd (o + 16) &&& 0x1F00 == rd (o + 16)) && (dbits d 39 37 ≤ 2 || rd (o + 8) == 0)

/-- Words from an offset. -/
def wordsAt (rd : Reader) (o n : Nat) : List Word := (upto n).map fun i => BitVec.ofNat 32 ((rd (o + 8 * (i / 2))).toNat / 2 ^ (32 * (i % 2)))

/-- What a record writes. -/
def recordWrite (rd : Reader) (w o : Nat) : Write :=
  let d := rd o
  let dst := dbits d 47 40
  let m := rd (o + 8)
  match dbits d 39 37 with
  | 0 => if dst = 0xFD then .latV m (wordsAt rd (o + 16) w) else .vec dst m (wordsAt rd (o + 16) w)
  | 1 => if dst = 0xFD then .latC (rd (o + 16)) else .scl dst (rd (o + 16))
  | 2 => .prd dst m (rd (o + 16))
  | 3 => .hnd dst (handleOf rd (o + 16))
  | _ => .flags ((rd (o + 16) >>> 8).setWidth 5)

/-- The latch class of a record. -/
def recordSlot (d : Dbl) : Slot := match dbits d 36 35 with | 0 => .v | 1 => .m | _ => .c

/-- A record as a result in flight, numbered; `ids` numbers the latches of a set from its class and position. -/
def recordOf (rd : Reader) (w seq id base o : Nat) : Landing :=
  let d := rd o
  let cls := dbits d 36 35
  let pos := dbits d 34 32
  { id := id, due := dbits d 55 48, early := dbits d 55 48, seq := seq, w := recordWrite rd w o,
    lat := if cls = 3 ∨ pos = 0 then none else some (recordSlot d, base + 4 * cls + pos - 1), fe := none }

/-- The latch values that a write carries. -/
def Write.latch : Write → List Word × Dbl
  | .vec _ _ vs => (vs, 0)
  | .latV _ vs => (vs, 0)
  | .scl _ v => ([], v)
  | .latC v => ([], v)
  | _ => ([], 0)

/-- A latch section with the records that hold some of its values. -/
def latchesOf (rd : Reader) (w seq base o : Nat) (rs : List Landing) : Latches :=
  let mk (cls i : Nat) (vals : List Word) (val : Dbl) : Latch :=
    let id := base + 4 * cls + i
    match rs.find? fun f => match f.lat with | some (_, n) => n == id | none => false with
    | some f => { id := id, seq := seq, landed := false, vals := f.w.latch.1, val := f.w.latch.2 }
    | none => { id := id, seq := seq, landed := true, vals := vals, val := val }
  { c := (upto 4).map fun i => mk 2 i [] (rd (o + 8 * i)),
    v := (upto 4).map fun i => mk 0 i (wordsAt rd (o + 32 + 256 * i) w) 0,
    m := (upto 4).map fun i => mk 1 i (wordsAt rd (o + 1056 + 256 * i) w) 0 }

/-- The header's fields. -/
def areaLive (rd : Reader) : Nat := dbits (rd 0) 55 48
def areaTrap (rd : Reader) : Nat := dbits (rd 0) 47 40
def areaStack (rd : Reader) : Nat := dbits (rd 0) 39 32
def areaSize (rd : Reader) : Nat := 256 * dbits (rd 0) 15 0
def areaHas (rd : Reader) (b : Nat) : Bool := tbit (rd 0).toNat b
def offOf (rd : Reader) (i : Nat) : Nat := (rd (0x98 + 8 * i)).toNat

/-- The records' offsets: live set, trap set, and their end. -/
def areaRecords (rd : Reader) (w : Nat) : List Nat × List Nat × Nat :=
  let r := recordOffsets rd w (areaLive rd + areaTrap rd) (offOf rd 2)
  (r.1.take (areaLive rd), r.1.drop (areaLive rd), r.2)

/-- Whether pieces of an area, each an offset and a length, lie in it without overlapping. -/
def disjoint (size : Nat) : List (Nat × Nat) → Bool
  | [] => true
  | p :: ps => (p.2 == 0 || p.1 + p.2 ≤ size) && (p.2 == 0 || ps.all fun q => q.2 == 0 || p.1 + p.2 ≤ q.1 || q.1 + q.2 ≤ p.1) &&
      disjoint size ps

/-- Whether doubles from a to b are zero. -/
def zeroFrom (rd : Reader) (a n : Nat) : Bool := (upto n).all fun i => rd (a + 8 * i) == 0

/-- The X syllable in 40 bits; the words of a literal operand are not kept with it and count as 0. -/
def matrixSyl (s : State) (n : Nat) : SlotRes := slotRes s.feature .x (takeLits .x (rawOfBits n) false (List.replicate 10 0)).1

/-- Whether a matrix section keeps R298. -/
def matrixOk (s : State) (rd : Reader) (o : Nat) : Bool :=
  let ld := rd (o + 0x4000)
  let n := (rd (o + 0x4008)).toNat
  dbits ld 62 4 == 0 && dbits ld 3 0 < 8 && n ≤ 16 && zeroFrom rd (o + 0x4010) 30 &&
    (upto n).all fun i =>
      let p := o + 0xBC00 + 32 * i
      dbits (rd p) 63 48 == 0 && dbits (rd p) 43 40 == 0 && rd (p + 24) == 0 &&
        (match matrixSyl s (dbits (rd p) 39 0) with
          | .ok (.mlodge x) => x.fmt.toNat < 8
          | .ok (.mstream x) => x.fmt.toNat < 8
          | .ok (.mscale _) => true
          | .ok (.mzero _) => true
          | .ok (.mrd _) => true
          | .ok (.mwr _) => true
          | _ => false)

/-- Whether a Drover section keeps R317. -/
def droverOk (rd : Reader) (w o : Nat) : Bool :=
  let n := rd (o + 0x28)
  let st := rd (o + 8)
  let entryOk (p k : Nat) : Bool :=
    let lo := rd (p + 16 * k)
    let hi := rd (p + 16 * k + 8)
    if k < 6 then dbits hi 63 48 == 0 else dbits lo 63 43 == 0 && dbits lo 39 37 ≤ 5 && hi == 0
  dbits st 63 62 ≤ 2 && dbits st 61 60 == 0 && dbits st 42 32 == 0 &&
    ((upto 9).all fun k => entryOk (o + 0x40) k && entryOk (o + 0xD0) k) && dbits (rd (o + 0x10)) 63 8 == 0 &&
     dbits (rd (o + 0x20)) 63 32 == 0 && dbits n 63 21 == 0 && dbits n 15 13 == 0 &&
    dbits n 7 7 == 0 && zeroFrom rd (o + 0x30) 2 && dbits n 6 0 ≤ 64 && dbits n 12 8 ≤ 16 && dbits n 20 16 ≤ 16 &&
    (rd o).toNat == 0x160 + 384 * dbits n 6 0 + 4 * w * (dbits n 12 8 + dbits n 20 16)

/-- Whether an area may be loaded into a coach (R159). -/
def areaOk (s : State) (rd : Reader) (c : Coach) : Bool :=
  let d := rd 0
  let w := c.width
  let stop := rd 0x18
  let recs := areaRecords rd w
  let mlen := 0xBC00 + 32 * min 16 (rd (offOf rd 3 + 0x4008)).toNat
  dbits d 63 56 == 0 && dbits d 16 16 == 0 && areaTrap rd ≤ 63 && (c.ended || 1 ≤ areaStack rd) && areaStack rd ≤ 32 + c.spill &&
    dbits d 31 24 == c.budget && dbits d 23 22 == widthCode w && dbits d 19 18 == roleCode c.role &&
    areaHas rd 17 == tbit (rd 0x80).toNat 0 && sysValueOk 0x06 (rd 0x10) &&
    dbits stop 31 12 == 0 && dbits stop 7 3 == 0 && dbits stop 2 0 ≤ 4 && (rd 0x20).toNat ≤ 16 &&
    ([0x28, 0x30].all fun o => (upto 8).all fun i => dbits (rd o) (8 * i + 7) (8 * i + 6) == 0) &&
    ([(9, 0x38), (0xA, 0x40), (0xB, 0x48), (0xC, 0x50), (0, 0x58), (1, 0x60), (2, 0x68), (4, 0x78)].all fun (n, o) =>
      sysValueOk n (rd o)) &&
    dbits (rd 0x80) 63 4 == 0 && dbits (rd 0x80) 1 1 == 0 && zeroFrom rd 0xC0 8 && zeroFrom rd 0x560 4 &&
    zeroFrom rd 0x15C0 8 && ((upto 16).all fun i => handleOk rd (0x300 + 32 * i)) &&
    ((upto (areaStack rd)).all fun i => stackOk rd (offOf rd 1 + 32 * i)) &&
    recs.1.all (recordOk rd 0) && recs.2.1.all (recordOk rd 1) &&
    (!areaHas rd 20 || matrixOk s rd (offOf rd 3)) && (!areaHas rd 21 || droverOk rd w (offOf rd 4)) &&
    disjoint (areaSize rd)
      [(0, 0x1600), (offOf rd 0, 32 * c.budget * w), (offOf rd 1, 32 * areaStack rd), (offOf rd 2, recs.2.2 - offOf rd 2),
        (offOf rd 3, if areaHas rd 20 then mlen else 0), (offOf rd 4, if areaHas rd 21 then (rd (offOf rd 4)).toNat else 0)]

/-- The stop of a STOP double, from a cycle on (R157). -/
def stopOf (u : Nat) (d : Dbl) : Stop :=
  match dbits d 2 0 with
  | 1 => .wait (dbits d 11 8) (dbits d 63 32)
  | 2 => .yield (u + dbits d 63 32)
  | 3 => .barrier (dbits d 11 8) (d.getLsbD 32)
  | 4 => .cwait (BitVec.ofNat 32 (dbits d 63 32))
  | _ => .none

/-- The entries of a flag that its count asks for: those saved, then operations that nothing completes. -/
def flagEntries (old : List FlagEntry) (f n fresh : Nat) : List FlagEntry :=
  let mine := (old.filter fun e => e.f == f).take n
  mine ++ (upto (n - mine.length)).map fun i => { id := fresh + 64 * f + i, f := f, seq := 0, fin := false, ws := [], made := [], lat := none }

/-- The flags of an area, in the order of the saved operations. -/
def flagsOf (rd : Reader) (old : List FlagEntry) (fresh : Nat) : List FlagEntry :=
  let count (f : Nat) : Nat := dbits (rd (0x28 + 8 * (f / 8))) (8 * (f % 8) + 5) (8 * (f % 8))
  sortBy (fun e => e.id) ((upto 16).flatMap fun f => flagEntries old f (count f) fresh)

/-- The pending transfer of a saved boundary: TNEXT's target, or what it stood for (R120). -/
def pendOf (c : Coach) (tn : Dbl) : Option Pending :=
  if c.intrap then c.pend
  else if !tn.getLsbD 63 then none
  else
    let a : Dbl := tn &&& 0x01FFFFFFFFFFFFFF#64
    if c.pendAddr c.pend = some a then c.pend else some (.target a)

/-- The modes that V syllables see after a restore: those of the area's FPMODE, with the last SYSWR's delay (R102, R186). -/
def modesOf (fpctl : List (Nat × BitVec 4)) (m : Dbl) : List (Nat × BitVec 4) :=
  match fpctl with
  | [] => [(0, m.setWidth 4)]
  | e :: es => (e.1, m.setWidth 4) :: es

/-- The coach that an area restores, restarting at cycle u (R156). What the area has no place for is the saved coach's: its bundle
count (R186), its nominal schedule (R53), and that its monitor is lost (R137). -/
def coachOf (rd : Reader) (c : Coach) (u : Nat) : Coach :=
  let w := c.width
  let recs := areaRecords rd w
  let base := c.fresh + 2048
  let live := (upto recs.1.length).map fun i => recordOf rd w (c.seq - 1) (base + 24 + i) base (nth recs.1 i 0)
  let trap := (upto recs.2.1.length).map fun i => recordOf rd w c.seq (base + 280 + i) (base + 12) (nth recs.2.1 i 0)
  let stack := ((upto (areaStack rd)).map fun i => stackOf rd (offOf rd 1 + 32 * i)).reverse
  let liveLanes := match stack.getLast? with | some e => e.mask | none => 0
  let vw := wordsAt rd (offOf rd 0) (8 * c.budget * w)
  { c with
    v := ssetAll 0 [] ((upto vw.length).map fun i => (64 * (i / w) + i % w, nth vw i 0)),
    s := ssetAll 0 [] ((upto 63).map fun i => (i + 1, rd (0x100 + 8 * (i + 1)))),
    p := ssetAll 0 [] ((upto 12).map fun i => (i, rd (0x500 + 8 * i) &&& lanesBelow w)),
    h := ssetAll Handle.blank [] ((upto 16).map fun i => (i, handleOf rd (0x300 + 32 * i))),
    flags := flagsOf rd c.flags c.fresh, fresh := base + 600,
    inflight := live.map fun f => { f with due := u + f.due, early := u + f.early },
    lat := latchesOf rd w (c.seq - 1) base 0x580 live, trapset := trap,
    tlat := if areaHas rd 17 then latchesOf rd w (c.seq - 1) (base + 12) 0xDA0 trap else Latches.blank,
    pc := rd 0x08, pend := pendOf c (rd 0x10), tnext := if areaHas rd 17 then rd 0x10 else c.tnext, stop := stopOf u (rd 0x18),
    more := c.more.map fun t => match t with | .yield v => .yield (u + v) | t => t,
    next := u + (rd 0x20).toNat, waitCtr := 0, live := liveLanes, stack := stack, lcnt := rd 0x38, ecnt := rd 0x40,
    lbody := rd 0x48, rotb := rd 0x50, fpmode := rd 0x58, fpctl := modesOf c.fpctl (rd 0x58), tvec := rd 0x60, tcause := rd 0x68, tinfo := rd 0x70,
    trappc := rd 0x78, intrap := areaHas rd 17, emu := tbit (rd 0x80).toNat 3, dtbase := rd 0x88, dtlen := rd 0x90,
    landed := [], heldAt := none }

/-- Exponent pairs from a section. -/
def pairsAt (rd : Reader) (o n : Nat) : Sparse (BitVec 16) :=
  ssetAll 0 [] ((upto n).map fun i => (i, BitVec.ofNat 16 ((rd (o + 8 * (i / 4))).toNat / 2 ^ (16 * (i % 4)))))

/-- A frozen operation from its doubles; the flag entry and the rest come from the saved operation of its place. -/
def mopOf (s : State) (rd : Reader) (p : Nat) (coach : Nat → Nat) (seat : Nat → Coach) (old : MOp) : MOp :=
  let k := coach (dbits (rd p) 47 44)
  let c := seat k
  let ctl := rd (p + 16)
  let run (a n : Nat) : List Nat := (upto n).map fun i => if a + i < 160 then a + i else c.renV (a + i)
  let (r0, nr) := (rowSel? ctl).getD (0, 1)
  let n := nr * 64 / c.width
  let kind : MKind := match matrixSyl s (dbits (rd p) 39 0) with
    | .ok (.mlodge o) => .lodge o.fmt (match old.kind with | .lodge _ rs => rs | _ => run o.a (1536 / c.width))
    | .ok (.mstream o) => .stream o.acc o.fmt o.cl o.z
    | .ok (.mscale o) => .scale o.a ctl
    | .ok (.mzero o) => .zero o.acc
    | .ok (.mrd o) => .rd o.acc (match old.kind with | .rd _ rs _ _ _ => rs | _ => run o.d n) r0 nr o.z
    | .ok (.mwr o) => .wr o.acc (match old.kind with | .wr _ rs _ _ => rs | _ => run o.a n) r0 nr
    | _ => old.kind
  { old with coach := k, lanes := rd (p + 8), kind := kind, syl := dnat (dbits (rd p) 39 0), cycle := 0, was := [] }

/-- A wing takes a matrix section back. -/
def Wing.loadMatrix (x : Wing) (s : State) (rd : Reader) (o : Nat) (coach : Nat → Nat) (seat : Nat → Coach) (old : List MOp) :
    Wing :=
  let n := min 16 (rd (o + 0x4008)).toNat
  let words (p k : Nat) : Sparse Word :=
    let ws := wordsAt rd p k
    ssetAll 0 [] ((upto ws.length).map fun i => (i, nth ws i 0))
  { x with
    acc := words o 4096, lodged := tbit (rd (o + 0x4000)).toNat 63, lfmt := BitVec.ofNat 4 (dbits (rd (o + 0x4000)) 3 0),
    lodge := words (o + 0x4100) 6144, bscale := pairsAt rd (o + 0xA100) 1536, bstage := pairsAt rd (o + 0xAD00) 1536,
    atab := pairsAt rd (o + 0xB900) 384,
    mq := (upto n).filterMap fun i => (old[i]?).map fun m => mopOf s rd (o + 0xBC00 + 32 * i) coach seat m }

/-- The position of an iteration from its indices. -/
def positionOf (t : Sparse (Dbl × Dbl)) (is : List Nat) : Nat :=
  ((upto 6).foldl (fun (r : Nat × Nat) k => (r.1 + nth is k 0 * r.2, r.2 * extent t k)) (0, 1)).1

/-- A beat taken back. -/
def beatOf (rd : Reader) (o len id : Nat) : Beat :=
  { id := id, len := len, here := true, bytes := bytesOfWords (wordsAt rd o (len / 4)), place := .nowhere, va := 0, asked := false,
    cached := false, stamp := 0, left := 0, page := 1, coach := 0, go := 0, line := none }

/-- A Drover as a section gives it; its walk's handles are given apart. -/
def Drover.load (d : Drover) (rd : Reader) (w o id coach : Nat) : Drover :=
  let n := rd (o + 0x28)
  let table (p : Nat) : Sparse (Dbl × Dbl) := ssetAll (0, 0) [] ((upto 9).map fun k => (k, (rd (p + 16 * k), rd (p + 16 * k + 8))))
  let beats (p len n id : Nat) : List Beat := (upto n).map fun i => beatOf rd (p + len * i) len (id + i)
  let st : DroverState := match dbits (rd (o + 8)) 63 62 with | 1 => .running | 2 => .suspended | _ => .idle
  let active := table (o + 0x40)
  let (na, n0, n1) := (dbits n 6 0, dbits n 12 8, dbits n 20 16)
  let is := [dbits (rd (o + 0x18)) 15 0, dbits (rd (o + 0x18)) 31 16, dbits (rd (o + 0x18)) 47 32, dbits (rd (o + 0x18)) 63 48,
    dbits (rd (o + 0x20)) 15 0, dbits (rd (o + 0x20)) 31 16]
  { d with
    active := active, shadow := table (o + 0xD0), st := st, f := dbits (rd (o + 0x10)) 3 0, coach := coach,
    pos := if d.pos = iterations active then d.pos else positionOf active is, shnd := dbits (rd (o + 8)) 59 56,
    sa := beats (o + 0x160) 384 na id, q0 := beats (o + 0x160 + 384 * na) (4 * w) n0 (id + 64),
    q1 := beats (o + 0x160 + 384 * na + 4 * w * n0) (4 * w) n1 (id + 80), cycle := 0, next := 0 }

end Sys2Proof.Machine
end

