-- ==== Sys2Proof/Machine/Launch.lean ====
section
/-! DEFINITION. LAUNCH, its record and its statuses (R76, R77, R318 to R325), tiles (R327), commits (R328), and the ends of
coaches and launches (R126, R329). -/

namespace Sys2Proof.Machine

/-! The record. -/

/-- Doubles that the coordinator reads at a job's address. -/
def State.agentDbls (s : State) (asid va n : Nat) : List Dbl := (upto n).map fun i => s.agentDbl asid (va + 8 * i)

def roleOf (n : Nat) : Role :=
  match n with
  | 1 => .copy
  | 2 => .matrix
  | 3 => .epilogue
  | _ => .general

def kindOf (n : Nat) : LevelKind :=
  match n with
  | 0 => .d
  | 1 => .c
  | 2 => .v
  | _ => .t

/-- Whether level kinds keep the rules of .levels: each at most once, D before C, V directly after C, T last. -/
def levelsOk (l : List LevelKind) : Bool :=
  l == [.d] || l == [.c] || l == [.t] || l == [.c, .v] || l == [.d, .c] || l == [.d, .t] || l == [.c, .t] ||
    l == [.d, .c, .v] || l == [.d, .c, .t] || l == [.c, .v, .t] || l == [.d, .c, .v, .t]

/-- A role entry from its two doubles (R76). -/
def roleEntryOf (lo hi : Dbl) : RoleEntry :=
  { role := roleOf (dbits lo 7 0), count := dbits lo 15 8, budget := dbits lo 23 16, entry := hi }

def roleEntryOk (lo : Dbl) : Bool :=
  dbits lo 7 0 ≤ 3 && 1 ≤ dbits lo 15 8 && dbits lo 15 8 ≤ 16 && 1 ≤ dbits lo 23 16 && dbits lo 23 16 ≤ 24 && dbits lo 63 24 == 0

/-- The descriptor that KDESC names, if it is one loaded for the job (R76): in a page that grants the read right only,
with the fields of a placed descriptor, and at most 16 coaches in all (R17, R70). -/
def State.kernelAt (s : State) (asid va : Nat) : Option Kernel :=
  let w := s.walk asid va
  let d := s.agentDbls asid va 8
  let x (i : Nat) : Dbl := nth d i 0
  let nlev := dbits (x 0) 47 40
  let levels := (upto nlev).map fun i => kindOf (dbits (x 0) (49 + 2 * i) (48 + 2 * i))
  let width := dbits (x 0) 39 32
  let slev := dbits (x 0) 60 58
  let nrole := dbits (x 1) 47 40
  let rs := s.agentDbls asid (va + 0x40) (2 * nrole)
  let scratch := dbits (x 1) 31 0
  let l1 := dbits (x 1) 39 32
  let dtab := x 2
  let ok := va % 64 == 0 && w.st == .valid && w.rights == 1#4 && dbits (x 0) 31 0 == 0 &&
    (width == 16 || width == 32 || width == 64) && 1 ≤ nlev && nlev ≤ 4 && levelsOk levels &&
    dbits (x 0) 55 48 / 4 ^ nlev == 0 && dbits (x 0) 63 61 == 0 && scratch % 256 == 0 && (l1 == 64 || l1 == 128) &&
    1 ≤ nrole && nrole ≤ 16 && dbits (x 1) 63 48 == 0 && (x 4).toNat == asid && x 5 == 0 && x 6 == 0 && x 7 == 0 &&
    (if tbit (x 0).toNat 56 then slev < nlev else slev == 0) && ((upto nrole).all fun i => roleEntryOk (nth rs (2 * i) 0)) &&
    (upto nrole).foldl (fun n i => n + dbits (nth rs (2 * i) 0) 15 8) 0 ≤ 16
  if ok then
    some
      { width := width, levels := levels, sstep := tbit (x 0).toNat 56, mlodge := tbit (x 0).toNat 57, slev := slev,
        scratch := scratch, l1 := l1, roles := (upto nrole).map fun i => roleEntryOf (nth rs (2 * i) 0) (nth rs (2 * i + 1) 0),
        dtab := dtab, dtlen := x 3 }
  else none

/-- The extent of level i of a record. -/
def extentOf (d : List Dbl) (i : Nat) : Nat := dbits (nth d (2 + i / 2) 0) (32 * (i % 2) + 31) (32 * (i % 2))

/-- The extent of the level of a kind, or 1. -/
def Kernel.ext (kn : Kernel) (d : List Dbl) (k : LevelKind) : Nat :=
  match kn.levels.findIdx? (· == k) with
  | some i => extentOf d i
  | none => 1

/-- Tiles of a launch: none without a T level (R327). -/
def Kernel.tiles (kn : Kernel) (d : List Dbl) : Nat := if kn.levels.contains .t then kn.ext d .t else 0

/-- The dies of DIES in ascending order. -/
def diesOf (d : List Dbl) : List Nat := (upto 8).filter fun i => (nth d 5 0).getLsbD i

/-- Whether an emulation table keeps R77. -/
def State.emuOk (s : State) (asid : Nat) (d : List Dbl) : Bool :=
  let emu := (nth d 8 0).toNat
  let cnt := (nth d 9 0).toNat
  let bit (i : Nat) : Dbl := s.agentDbl asid (emu + 16 * i)
  emu % 16 == 0 && cnt ≤ 65 && (upto (min cnt 65)).all fun i =>
    dbits (bit i) 63 16 == 0 && (i == 0 || dbits (bit (i - 1)) 15 0 < dbits (bit i) 15 0)

/-- Status 1 (R325). -/
def State.recordMalformed (s : State) (asid : Nat) (d : List Dbl) (w : Nat) : Bool :=
  let x (i : Nat) : Dbl := nth d i 0
  let fcap := (x 13).toNat
  dbits (x 0) 63 22 != 0 || dbits (x 5) 63 8 != 0 || dbits (x 7) 63 48 != 0 || dbits (x 14) 63 24 != 0 || x 15 != 0 ||
    96 < dbits (x 0) 10 4 || w < dbits (x 0) 21 15 || dbits (x 5) 7 0 == 0 ||
    (dbits (x 7) 47 32 != 0 && ((x 6).toNat % 256 != 0 || !tbit (x 6).toNat 56 || dbits (x 6) 63 57 != 0 ||
      dbits (x 7) 31 0 % 256 != 0)) ||
    !(fcap == 0 || ringCapOk fcap) || !s.emuOk asid d

/-- Status 3 (R318). -/
def extentsBad (kn : Kernel) (d : List Dbl) : Bool :=
  let v := kn.ext d .v
  let c := kn.ext d .c
  (upto 4).any (fun i => if i < kn.levels.length then extentOf d i == 0 else extentOf d i != 0) ||
    (kn.levels.contains .v && (v < 2 || 4 < v || c % v != 0)) || 2 ^ 32 ≤ kn.ext d .d * c

/-- How many parties an empty core takes, up to a bound. -/
def coreCapacity (kn : Kernel) (spill drw : Nat) : Nat → Nat → State → Nat
  | 0, n, _ => n
  | f + 1, n, s =>
    match s.seats 0 kn spill drw with
    | none => n
    | some (ks, base) =>
      let x : Party := { Party.blank with launch := 1 }
      let t := (s.putParty (n + 1) x).occupy (n + 1) 0 ks (kn.owners ks) base
      let t := (List.zip ks kn.coaches).foldl (fun t e =>
        t.putCoach e.1 { Coach.blank with present := true, width := kn.width, budget := e.2.budget, party := n + 1 }) t
      coreCapacity kn spill drw f (n + 1) t

/-- An empty package on which a kernel is tried. -/
def emptyFor (kn : Kernel) (d : List Dbl) : State := State.reset.putLaunch 1 { Launch.blank with doubles := d, kernel := kn }

/-- Convoys, or parties without a convoy, that a group of level SLEV puts on the j-th of n dies (R257, R320, R321). -/
def groupOnDie (kn : Kernel) (d : List Dbl) (j n : Nat) : Nat :=
  let q := kn.ext d .c / kn.ext d .v
  let share (t : Nat) : Nat := (t + n - 1 - j) / n
  match kn.levels[kn.slev]? with
  | some .d => share (kn.ext d .d) * q
  | some .c => if kn.levels.contains .d then q else share q
  | _ => 0

/-- Whether a group of level SLEV cannot be resident at once (R325 status 5). -/
def groupTooBig (kn : Kernel) (d : List Dbl) (spill drw : Nat) : Bool :=
  let n := (diesOf d).length
  let cap := coreCapacity kn spill drw 64 0 (emptyFor kn d)
  let room := if kn.levels.contains .v then 16 * cap else 64 * cap
  kn.sstep && (upto n).any fun j => room < groupOnDie kn d j n

/-- Whether a byte maps with the write right, window included. -/
def State.byteWritable (s : State) (asid va : Nat) : Bool :=
  let w := s.walk asid va
  let off := va % pageBytes w.size
  w.st == .valid && w.rights.getLsbD 1 && w.lo ≤ off && off < w.hi

/-- Whether every byte of a range maps with the write right: the ends of each 64 KiB piece are tried. -/
def State.rangeWritable (s : State) (asid lo len : Nat) : Bool :=
  len == 0 || (upto ((lo + len - 1) / 65536 - lo / 65536 + 1)).all fun i =>
    let a := max lo ((lo / 65536 + i) * 65536)
    let b := min (lo + len - 1) ((lo / 65536 + i) * 65536 + 65535)
    s.byteWritable asid a && s.byteWritable asid b

/-- The status of a record handed over by coach k, and its kernel (R325): the first that applies. -/
def State.validate (s : State) (k : Nat) (d : List Dbl) : Nat × Kernel :=
  let c := s.coach k
  let x (i : Nat) : Dbl := nth d i 0
  let asid := dbits (x 14) 15 0
  let kern := s.kernelAt asid (x 1).toNat
  let kn := kern.getD Kernel.blank
  let spill := dbits (x 0) 10 4
  let drw := dbits (x 0) 14 11
  let cnt := dbits (x 7) 47 32
  let sz := dbits (x 7) 31 0
  let own := s.launchOf k
  let st :=
    if s.recordMalformed asid d (kern.elim 64 (·.width)) then 1
    else if kern.isNone then 2
    else if extentsBad kn d then 3
    else if ((emptyFor kn d).seats 0 kn spill drw).isNone then 4
    else if groupTooBig kn d spill drw then 5
    else if cnt ≠ 0 && (decide (sz < slotSize kn spill) || !s.rangeWritable asid (x 6).toNat (cnt * sz)) then 6
    else if !c.priv && (decide (asid ≠ c.asid.toNat) || decide (own.prio < dbits (x 0) 3 2)) then 7
    else if (tbit (x 0).toNat 0 && !s.feature 16) || (!tbit (x 0).toNat 1 && !s.feature 25) then 8
    else 0
  (st, kn)

/-- The parties of an accepted launch (R318, R320, R321), numbered from `base`. -/
def newParties (n base tick : Nat) (kn : Kernel) (d : List Dbl) : List (Nat × Party) :=
  let dies := diesOf d
  let cs := kn.ext d .c
  let v := kn.ext d .v
  let hasV := kn.levels.contains .v
  (upto (kn.ext d .d * cs)).map fun i =>
    let dd := i / cs
    let c := i % cs
    let die := nth dies ((if kn.levels.contains .d then dd else c / v) % dies.length) 0
    (base + i, { Party.blank with
      st := .pending, launch := n, d := dd, c := c, k := c % v,
      convoy := if hasV then (upto v).map fun j => base + dd * cs + c / v * v + j else [], die := die, relaunchable := true,
      pendSince := tick })

/-- The instruction lines of host memory and of peers leave every die's cache, and with it the L1s: no home here saw what may have been
written to them since (R91, R92). -/
def State.dropOutsideText (s : State) : State :=
  (upto 8).foldl (fun s d =>
    ((s.die d).icache.filter fun l => decide (2 ^ 57 ≤ l.pline)).foldl (fun s l => s.dropDLine d l.pline) s) s

/-- The coordinator accepts a record (R320, R324). Text that was written before is fetched new from here on (R92). -/
def State.acceptLaunch (s : State) (d : List Dbl) (kn : Kernel) : State :=
  let n := s.nextLaunch
  let ps := newParties n s.nextId s.tick kn d
  let l : Launch :=
    { doubles := d, kernel := kn, asid := BitVec.ofNat 16 (dbits (nth d 14 0) 15 0), key := BitVec.ofNat 8 (dbits (nth d 14 0) 23 16),
      parties := ps.map (·.1), ended := 0, faults := 0, nextTile := 0, pools := [], slots := upto (dbits (nth d 7 0) 47 32),
      accepted := s.tick, fin := false }
  let s := ({ s with nextLaunch := n + 1, nextId := s.nextId + ps.length }.putLaunch n l).dropOutsideText
  ps.foldl (fun s e => s.putParty e.1 e.2) s

/-! LAUNCH. -/

/-- A result that an outstanding operation writes to a scalar register; `d` is physical, 0 only the latch. -/
def sclWrite (d : Nat) (v : Dbl) : Write := if d = 0 then .latC v else .scl d v

/-- The checks of a coach-level C syllable that reads through a handle, for `len` bytes at an offset (R198); an absent handle is
ABSENT (R324). -/
def checkOne (s : State) (c : Coach) (h off len : Nat) (need : BitVec 4) : Chk :=
  (checkStates s c 3 [h]).orElse ((checkLanes s c 3 need [LaneAcc.mk 0 h off len]).orElse
    (if (s.readH c h).st = .absent then .trap (mkTrap 0x0A 3 (dnat h)) else .ok))

/-- The destination of a C syllable as the physical register that it names. -/
def Coach.cDest (c : Coach) (d : Nat) : Nat := if d = 0 then 0 else c.renS d

/-- A C syllable that is outstanding on a flag and will write a scalar: LAUNCH, SNAP, ROLLIN, SNAPQ. -/
def issueScalarOp (s : State) (k : Nat) (c : Coach) (d f : Nat) (kind : OpKind) (parts : List Part) : Out :=
  let (c1, lat) := c.enter .c s.cur.seq false [] 0
  let (c2, fe) := c1.openFlag f s.cur.seq [sclWrite (c.cDest d) 0] (some lat)
  let (id, s1) := (s.putCoach k c2).freshId
  .next (s1.addOp { s1.newOp k c id kind (some fe) with parts := parts })

/-- The operation is counted with its value. -/
def State.finishScalar (s : State) (o : Op) (d : Nat) (v : Dbl) : State :=
  (s.dropOp o.id).finishFlag o.coach o.fe [sclWrite d v] [] v

/-- LAUNCH (R324, R331): the coach commits first, and its party is non-relaunchable from here. -/
def execLaunch (o : CMem) (s : State) : Out :=
  onCoach s fun k c =>
    if s.active c o.g = 0 then .next (s.putCoach k (c.sclSkip s.cur.seq))
    else
      let off := (s.rdS c o.b).toNat
      if off % 128 ≠ 0 then raise s k (illegal 3 4 48)
      else
        withChk s k (checkOne s c o.h off 128 1#4)
          (if s.holdsHard c.party then hold s k
           else
             let h := s.readH c o.h
             let s := s.commitHard c.party
             issueScalarOp s k (s.coach k) o.d o.f (.launch (c.cDest o.d))
               [s.recordPart h off 128])

/-- Whether the coordinator may read an operation's record now: not while an earlier SNAP of its party may still cut before it (R349). -/
def State.recordReady (s : State) (o : Op) : Bool :=
  o.parts.any (fun p => p.st == .todo || p.st == .answered) && s.settled o && s.drained o.party o.id && s.accessesDone o &&
    !s.ahead o.asid.toNat o.die o.stamp && !(s.openSnaps o.party).any fun m => Nat.blt m o.id

/-- Part 0 of an operation is read at its home, as a load of the coordinator after the coach's earlier accesses; a peer is
asked for it. -/
def State.readRecord (s : State) (o : Op) : State :=
  match o.parts with
  | [p] =>
    if !s.recordReady o then s
    else if p.st == .answered then s.answerPart o 0 p (match p.place with | .home pa _ => homeDie pa | _ => 8)
    else
      let asid := o.asid.toNat
      match p.place with
      | .home pa enc =>
        let (s, ok) := s.stampOk asid (homeDie pa) (o.stampAt (homeDie pa))
        if !ok then s
        else
          let s := s.fill asid pa enc p.len p.va
          if s.poisoned pa p.len then s.consumeAt o 5 pa
          else (s.countDead pa).answerPart o 0 { p with got := s.plainRead p.place p.len } (homeDie pa)
      | .peer _ pa => s.askPeer o 0 p [] (fun _ => []) [] (.read (reqOf o 0) pa p.len)
      | _ =>
        let (s, ok) := s.stampOk asid 8 o.left
        if ok then (s.countHost o p false).answerPart o 0 { p with got := s.plainRead p.place p.len, asked := true } 8 else s
  | _ => s

/-- What the coordinator's reads of the descriptor and the emulation table leave beside their data (R207, R213). -/
def State.noteLaunch (s : State) (d : List Dbl) : State :=
  let asid := dbits (nth d 14 0) 15 0
  let s := s.noteAgent asid (nth d 1 0).toNat 64 false
  if nth d 9 0 = 0 then s else s.noteAgent asid (nth d 8 0).toNat (16 * min (nth d 9 0).toNat 65) false

/-- The coordinator accepts or refuses a record that it has read (R324). -/
def State.decideLaunch (s : State) (o : Op) (d : Nat) : State :=
  let ds := dblsOfBytes (o.parts.flatMap (·.got))
  let s := s.noteLaunch ds
  let (st, kn) := s.validate o.coach ds
  let v := if st = 0 then dnat (s.nextLaunch % 2 ^ 32 * 2 ^ 32) else dnat st
  let s := if st = 0 then s.acceptLaunch ds kn else s
  s.finishScalar o d v

/-! Request rings (R326). -/

/-- The status that a steward gives an entry: a refusal of its own, or what LAUNCH gives. -/
def State.ringStatus (s : State) (fn k asid rec : Nat) : State × Nat :=
  if asid ≠ Config.functionJob fn % 65536 then (s, 9)
  else
    let w := s.walk asid rec
    if rec % 128 ≠ 0 then (s, 10)
    else if w.st != .valid || !w.rights.getLsbD 0 then (s.logWalk w asid rec, 10)
    else
      let s := s.noteAgent asid rec 128 false
      let ds := s.agentDbls asid rec 16
      let s := s.noteLaunch ds
      let (st, kn) := s.validate k ds
      if st = 0 then (s.acceptLaunch ds kn, s.nextLaunch % 2 ^ 32 * 2 ^ 32) else (s, st)

/-- A steward serves the next entry of a function's ring, if one is posted; a malformed header is reported once and serves nothing. Which
steward serves a ring is free (log 84). -/
def State.serveRing (s : State) (fn : Nat) : State :=
  let hdr := sget 0 s.cfg.rings fn
  let base := (s.sysDbl hdr).toNat
  let cap := (s.sysDbl (hdr + 8)).toNat
  let cons := dbits (s.sysDbl (hdr + 16)) 31 0
  let e := base + 64 * (cons % cap)
  let k := (512 + s.pick 5600 8) * 64
  if hdr = 0 || !(s.coach k).present || (s.coach k).ended || (s.die (dieOf k)).gated then s
  else
  let s := s.noteSys hdr 24
  if base % 64 ≠ 0 || !ringCapOk cap then
    if sget (0, 0) s.ringBad fn = (base, cap) then s
    else { s with ringBad := sset (0, 0) s.ringBad fn (base, cap) }.errLog 12 7 hdr 0 0 0 0 hdr
  else
    let s := { s with ringBad := sset (0, 0) s.ringBad fn (0, 0) }.noteSys e 64
    if s.sysDbl e = 0 then s
    else
      let (s, v) := s.ringStatus fn k (dbits (s.sysDbl (e + 16)) 15 0) (s.sysDbl (e + 8)).toNat
      ((s.sysWrite (e + 24) [dnat (v + 2 ^ 31)]).sysWrite e [0]).sysWrite (hdr + 16) [dnat ((cons + 1) % 2 ^ 32)]

/-! Tiles. -/

/-- A tile for a party, if one is to be had (R327). -/
def State.takeTile (s : State) (p : Nat) : Option (Nat × State) :=
  let x := s.party p
  match least? x.replay with
  | some t => some (t, s.putParty p { x with replay := x.replay.filter (· ≠ t) })
  | none =>
    match least? (sget [] (s.launch x.launch).pools x.die) with
    | some t => some (t, s.modLaunch x.launch fun l =>
        { l with pools := sset [] l.pools x.die ((sget [] l.pools x.die).filter (· ≠ t)) })
    | none => none

/-- Whether no tile of a launch is left to deal, and none is held by a party other than p (R327). -/
def State.exhausted (s : State) (p : Nat) : Bool :=
  let l := s.launch (s.party p).launch
  l.kernel.tiles l.doubles ≤ l.nextTile && l.parties.all fun q =>
    q == p || (s.party q).st == .ended || ((s.party q).tile.isNone && (s.party q).replay.isEmpty)

/-- NEXTTILE's results, 24 cycles after issue (R327). -/
def Coach.tileResult (c : Coach) (due seq d p t : Nat) (ok none : Bool) : Coach :=
  let all := lanesBelow c.width
  let c := c.sclResult due seq (.reg d) (dnat t)
  (c.later due seq (.prd p all (allIf ok)) Option.none).later due seq (.prd (p + 1) all (allIf none)) Option.none

/-- Whether a die's pool may take a chunk of a launch now (R327). -/
def State.mayDeal (s : State) (launch die : Nat) : Bool :=
  let l := s.launch launch
  l.nextTile < l.kernel.tiles l.doubles && (sget [] l.pools die).length < 8 && (diesOf l.doubles).contains die && !l.fin &&
    l.parties.any fun p => (s.party p).die == die && (s.party p).st != .ended

/-- The next 16 indices go to a die; parties there that were told to retry get the first of them (R327). A chunk that I/O die 0 dealt
before its cut and that comes after the die's is channel state (R346). -/
def State.dealChunk (s : State) (launch die : Nat) : State :=
  let l := s.launch launch
  let asid := l.asid.toNat
  let chunk := (upto (min 16 (l.kernel.tiles l.doubles - l.nextTile))).map (· + l.nextTile)
  let askers := l.parties.filter fun p => (s.party p).die == die && (s.party p).reserve.isSome && (s.party p).st != .ended
  let given := List.zip askers chunk
  let s := s.putLaunch launch
    { l with nextTile := l.nextTile + chunk.length, pools := sset [] l.pools die (sget [] l.pools die ++ chunk.drop given.length) }
  let s := given.foldl (fun s e => s.modParty e.1 fun x => { x with reserve := none, replay := x.replay ++ [e.2] }) s
  if (s.job asid).snap.running && (s.cutOf asid die).cut && !(s.cutOf asid 8).cut then
    s.modCut asid die fun c => { c with recs := c.recs ++ chunk.flatMap (tileEntry launch) }
  else s

/-- A chunk leaves I/O die 0 with its epoch, and cuts the die that it comes to or waits there (R333, R334). -/
def State.sendChunk (s : State) (launch die : Nat) : State :=
  let asid := (s.launch launch).asid.toNat
  let (t, ok) := s.stampOk asid die (s.epochOf asid 8)
  if ok then t.dealChunk launch die else t

/-- TILE_CHUNK_DEAL (R327): to a die whose pool is below 8. -/
def execTileChunkDeal (launch die : Nat) (s : State) : Out :=
  if s.mayDeal launch die then .next (s.sendChunk launch die) else .next s

/-- A chunk with a tile that has been reserved for a party for 5 µs has come (R330), unless a cut must come before it. Sixteen parties may
stand before it in a chunk. -/
def State.overdueDeal (s : State) (p : Nat) : State :=
  let x := s.party p
  (upto ((s.launch x.launch).parties.length / 16 + 1)).foldl (fun s _ =>
    match (s.party p).reserve with
    | some t => if t + 8500 ≤ s.tick && s.mayDeal x.launch x.die &&
        stampOf (s.epochOf (s.launch x.launch).asid.toNat x.die) (s.epochOf (s.launch x.launch).asid.toNat 8) != .new then
        s.dealChunk x.launch x.die
      else s
    | none => s) s

/-- NEXTTILE (R327, R331): the party commits, its tile is done, and it takes another. -/
def execNexttile (o : CNextTile) (s : State) : Out :=
  onCoach s fun k c =>
    if s.active c o.g = 0 then .next (s.putCoach k (c.sclSkip s.cur.seq))
    else
      let p := c.party
      let s := (s.commitThen p fun x => { x with tile := none, token := 0 }).overdueDeal p
      let put (s : State) (t : Nat) (ok none : Bool) : Out :=
        .next (s.putCoach k ((s.coach k).tileResult (s.dueAt 24) s.cur.seq o.d o.p t ok none))
      match s.takeTile p with
      | some (t, s1) => put (s1.modParty p fun x => { x with tile := some t, reserve := none }) t true false
      | none =>
        if s.exhausted p then put (s.modParty p fun x => { x with reserve := none }) 0 false true
        else
          let l := s.launch (s.party p).launch
          put (s.modParty p fun x => { x with
            reserve := if l.nextTile < l.kernel.tiles l.doubles then some (x.reserve.getD s.tick) else none }) 0 false false

/-! Commits. -/

/-- COMMIT (R328). -/
def execCommit (o : CCommit) (s : State) : Out :=
  onCoach s fun k c =>
    if s.active c o.g = 0 then .next s
    else
      let s1 := s.commitThen c.party fun x => { x with token := s.rdS c o.a }
      let c1 := s1.coach k
      let (c2, fe) := c1.openFlag o.f s.cur.seq [] none
      let (id, s2) := (s1.putCoach k c2).freshId
      .next (s2.addOp (s2.newOp k c id .commit (some fe)))

/-- Whether every byte that a party had committed before an operation is performed at its home, Courier writes
included. -/
def State.committed (s : State) (o : Op) : Bool :=
  s.drained o.party o.id &&
    (s.core (coreOf o.coach)).courier.all fun m => !(m.party == o.party && !m.held && Nat.blt m.id o.id &&
      (m.kind == .st || m.kind == .g))

/-! Ends. -/

/-- Whether nothing that an ended party's engines still hold can go on: a lodging without a partner, a stream without a tile, a walk whose
queues are full, and what waits behind them (R283, R286, R309). -/
def State.matrixStuck (s : State) (p : Nat) : Bool :=
  let core := (s.party p).core
  let now := (s.die (dieOfCore core)).cycle
  let gs := ((upto 4).map fun i => s.wing (4 * core + i)).filter fun g => g.drover.party == some p
  gs.any (fun g => !g.mq.isEmpty || g.drover.fe.isSome) && !(s.fourOwners core p && (s.rendezvous? core).isSome) &&
    gs.all fun g =>
      let d := g.drover
      d.arrived && g.mrun.isEmpty &&
        (d.st != .running || (d.pos < iterations d.active &&
          (d.reads (indicesOf d.active d.pos)).any fun st => queueCap st ≤ (d.queue st).length)) &&
        (match g.mq with
          | [] => true
          | o :: _ => g.arrayFree ≤ now && !g.canStart now o)

/-- The waits of an ended party's engines end with it (R283, R286): what waits is counted without an effect, and a walk is over. -/
def State.abandonEngines (s : State) (p : Nat) : State :=
  (upto 4).foldl (fun s i =>
    let w := 4 * (s.party p).core + i
    let g := s.wing w
    if g.drover.party != some p then s
    else
      let t := s.modWing w fun g => { g with mq := [], starve := none, drover := { g.drover with st := .idle, fe := none } }
      (g.mq.foldl (fun t o => t.finishFlag o.coach (some o.fe) [] [] 0) t).finishFlag g.drover.coach g.drover.fe [] [] 0) s

/-- COACH_RELEASE (R126): an ended coach whose operations are all counted gives up its entry; with the last one, the party
gives up its scratchpad and engines. -/
def execCoachRelease (coach : Nat) (s : State) : Out :=
  let c := s.coach coach
  let p := c.party
  let x := s.party p
  let idle := c.flags.isEmpty && !(s.ops.any fun o => o.coach == coach) && !(s.walks.any fun w => w.coach == coach) &&
    !((s.core (coreOf coach)).courier.any fun m => m.coach == coach)
  if c.present && c.ended && x.st == .ended && s.matrixStuck p then .next (s.abandonEngines p)
  else if !(c.present && c.ended && idle && x.launch != 0) then .next s
  else
    let s1 := (s.freeCoach coach).putParty p { x with coaches := x.coaches.filter (· ≠ coach) }
    .next (if (s1.party p).coaches.isEmpty && x.st == .ended then s1.freeEngines p else s1)

/-- The DONE double (R329). -/
def doneImage (faulted records fcap : Nat) : Dbl := dnat (min (records - fcap) 65535 * 2 ^ 48 + 2 ^ 32 + faulted)

/-- Whether every party of a launch has ended, and everything that they wrote is performed (R329). -/
def State.launchOver (s : State) (launch : Nat) : Bool :=
  let l := s.launch launch
  let mine (p : Nat) : Bool := l.parties.contains p
  !l.fin && (l.parties.all fun p => (s.party p).st == .ended) && !(s.ops.any fun o => mine o.party) &&
    !(s.commits.any fun c => mine c.party) && !(s.cores.any fun e => e.2.courier.any fun m => mine m.party)

/-- LAUNCH_DONE (R329): every party has ended and everything that they wrote is performed. The ends come to I/O die 0 as items of their
dies (R332, R333). -/
def execLaunchDone (launch : Nat) (s : State) : Out :=
  let l := s.launch launch
  if !s.launchOver launch then .next s
  else
    let faulted := (l.parties.filter fun p => (s.party p).faulted).length
    let asid := l.asid.toNat
    let s := (diesOf l.doubles).foldl (fun (s : State) d => (s.stampOk asid 8 (s.epochOf asid d)).1) s
    let s1 := s.agentWrite l.asid.toNat (nth l.doubles 11 0).toNat [doneImage faulted l.faults (nth l.doubles 13 0).toNat]
    .next (s1.putLaunch launch { l with fin := true })

end Sys2Proof.Machine
end

