-- ==== Sys2Proof/Machine/Preempt.lean ====
section
/-! DEFINITION. Pre-emption (R154, R322, R323), saving and restoring (R156 to R159, R297, R316), placement of pending parties,
table mismatches (R160, R161), and firmware's repairs (R161, R357). -/

namespace Sys2Proof.Machine

/-! The choice of victims (R322). -/

/-- Parties that have been asked to leave count as gone. -/
def State.leaving (s : State) : State :=
  (tkeys s.parties).foldl (fun s p =>
    if (s.party p).st == .halting || (s.party p).st == .draining then s.removeParty p else s) s

/-- A party as if it had left. -/
def State.without (s : State) (ps : List Nat) : State :=
  ps.foldl (fun s p => (s.removeParty p).modParty p fun x => { x with coaches := [] }) s

/-- Whether a resident party may be pre-empted for one of a given priority: lower effective priority, resident for 100 µs, and so
for the whole unit. -/
def State.mayLeave (s : State) (prio p : Nat) : Bool :=
  let x := s.party p
  let u := s.unitOf p
  x.st == .running && !(s.job (s.launch x.launch).asid.toNat).snap.stopped && s.effPrio p < prio && x.since + 170000 ≤ s.tick &&
    u.all (fun q => (s.party q).st == .ended || ((s.party q).st == .running && s.effPrio q < prio &&
      (s.party q).since + 170000 ≤ s.tick))

/-- The order in which residents are taken: lowest effective priority, then the most recently placed. -/
def State.victimRank (s : State) (p : Nat) : List Nat := [s.effPrio p, s.tick - (s.party p).since, p]

/-- The units that may leave the dies of a waiting party, in order. -/
def State.candidates (s : State) (q : Nat) : List Nat :=
  let dies := (s.unitOf q).map fun r => (s.party r).die
  ((tkeys s.parties).filter fun p => dies.contains (s.party p).die && s.mayLeave (s.effPrio q) p).foldl (fun acc p =>
    (acc.filter fun r => !lexLt (s.victimRank p) (s.victimRank r)) ++ p :: acc.filter fun r => lexLt (s.victimRank p) (s.victimRank r)) []

/-- Whether every launch has a free save slot for each of its parties among some victims. -/
def State.slotsFor (s : State) (vs : List Nat) : Bool :=
  let run := vs.filter fun p => (s.party p).st == .running
  run.all fun p => decide ((run.filter fun q => (s.party q).launch == (s.party p).launch).length ≤
    (s.launch (s.party p).launch).slots.length)

/-- The shortest prefix of candidates whose departure lets a waiting party in; one for which the slots do not suffice beside the
others stays. -/
def State.enough (s : State) (make : Maker) (q : Nat) : List Nat → List Nat → Option (List Nat)
  | taken, [] => if ((s.without taken).seatUnit make (s.unitOf q)).isSome then some taken else none
  | taken, c :: cs =>
    let more := taken ++ (s.unitOf c).filter fun p => !taken.contains p
    if ((s.without taken).seatUnit make (s.unitOf q)).isSome then some taken
    else s.enough make q (if s.slotsFor more then more else taken) cs

/-- Drops from a list of victims those that are not needed, the last in the order first. -/
def State.needed (s : State) (make : Maker) (q : Nat) (vs : List Nat) : List Nat :=
  vs.reverse.foldl (fun (acc : List Nat) v =>
    let less := acc.filter fun p => !(s.unitOf v).contains p
    if acc.contains v && ((s.without less).seatUnit make (s.unitOf q)).isSome then less else acc) vs

/-- The resident parties that must leave for the first waiting party of some die. -/
def State.victims (s : State) (make : Maker) (die : Nat) : List Nat :=
  match s.pendingOn die with
  | [] => []
  | q :: _ =>
    let t := s.leaving
    if !s.placeable q || (t.seatUnit make (s.unitOf q)).isSome then []
    else
      match t.enough make q [] (t.candidates q) with
      | some vs => t.needed make q vs
      | none => []

/-! Halting. -/

/-- What a stop still asks, counted from the freeze. -/
def Stop.relative (F : Nat) : Stop → Stop
  | .yield u => .yield (u - F)
  | t => t

/-- A coach halts at its boundary (R154): an MWAIT ends with reason 2, results that land later become records of the live set,
and the gap and the stop are counted from the freeze. A monitor is lost (R137).
The step count is cleared (R370). -/
def State.haltCoach (s : State) (k : Nat) : State :=
  let F := s.now k
  let s := (s.endMwait k 2).disarm k
  let c := s.coach k
  if c.ended then s.putCoach k { c with next := 0 }
  else
    let (c1, recs) := c.freeze F
    s.putCoach k { c1 with
      inflight := c1.inflight ++ recs, landed := [], next := min (c1.next - F) 16, stop := c1.stop.relative F, more := c1.more.map (Stop.relative F),
      mon := match c1.mon with | .none => .none | _ => .lost, heldAt := none, steps := 0 }

/-- A party's coaches halt; it drains. Its save slot is taken. -/
def State.haltParty (s : State) (p : Nat) : State :=
  let x := s.party p
  if x.st != .running then s
  else
    let slot := (s.launch x.launch).slots.head?
    let s := s.modLaunch x.launch fun l => { l with slots := l.slots.drop 1 }
    x.coaches.foldl State.haltCoach (s.putParty p { x with st := .draining, slot := slot })

/-! Saving. -/

/-- Whether a party's outstanding work is done (R154 step 4): every operation but supersteps and what has frozen with an array
or a Drover. A coach that has ended with a frozen operation is saved with the others (R126, R297). -/
def State.drainedParty (s : State) (p : Nat) : Bool :=
  let x := s.party p
  let die := s.die x.die
  (s.ops.all fun o => o.party != p || (match o.kind with | .sstep _ => true | _ => false)) &&
    (s.walks.all fun w => !x.coaches.contains w.coach) && (s.core x.core).courier.all (fun m => m.party != p) &&
    x.coaches.all (fun k => (s.coach k).inflight.all fun f => f.fe.isNone && !(s.coach k).ended) &&
    ((upto 4).all fun i =>
      let g := s.wing (4 * x.core + i)
      g.drover.party != some p ||
        (g.drover.arrived && !g.drover.ends && g.mrun.isEmpty && (match g.mq with
          | [] => true
          | o :: _ => g.arrayFree ≤ die.cycle && !g.canStart die.cycle o))) &&
    !(s.fourOwners x.core p && (s.rendezvous? x.core).isSome)

/-- The number of a coach in its party. -/
def State.numOf (s : State) (k : Nat) : Nat := (s.coach k).num

/-- The sections of the engines that a coach's context holds (R298, R316). -/
def State.matrixSection (s : State) (k : Nat) : Option (List Dbl) :=
  if s.ownsMatrix k then some ((s.wing (wingOf k)).matrixImage s.numOf) else none

def State.droverSection (s : State) (k : Nat) : Option (List Dbl) :=
  let d := (s.wing (wingOf k)).drover
  if d.party == some (s.coach k).party && d.issued && d.coach == k then some (d.image (s.coach k).width (s.coach k).num) else none

/-- A frozen coach's context area. -/
def State.contextOf (s : State) (k F : Nat) : List Dbl :=
  let c := s.coach k
  contextImage c F (sortBy (fun f => f.due) (c.inflight.filter fun f => f.fe.isNone)) (s.matrixSection k) (s.droverSection k)

/-- Where an area holds the system and loop registers (R157): number, offset. -/
def sysPlaces : List (Nat × Nat) :=
  [(0, 0x58), (1, 0x60), (2, 0x68), (3, 0x70), (4, 0x78), (5, 0x80), (6, 0x10), (7, 0x88), (8, 0x90), (9, 0x38), (10, 0x40), (11, 0x48), (12, 0x50)]

/-- The words of a latch section (R158). -/
def latchSites (o k w : Nat) (t : Latches) : List (Nat × Nat × Site) :=
  let vec (o : Nat) (ls : List Latch) : List (Nat × Nat × Site) :=
    ((upto 4).zip ls).flatMap fun e => (upto w).map fun l => (o + 256 * e.1 + 4 * l, 4, Site.latch k e.2.id l)
  ((upto 4).zip t.c).map (fun e => (o + 8 * e.1, 8, Site.latch k e.2.id 0)) ++ vec (o + 32) t.v ++ vec (o + 1056) t.m

/-- The records of an area (R159), in the order in which it holds them. -/
def recordSites (k : Nat) (c : Coach) (rd : Reader) : List (Nat × Nat × Site) :=
  let rs := areaRecords rd c.width
  let live := sortBy (fun f => f.due) (c.inflight.filter fun f => f.fe.isNone)
  ((rs.1.zip live) ++ (rs.2.1.zip c.trapset)).map fun e => (e.1, 16 + recordValue c.width (rd e.1), Site.shadow k e.2.id)

/-- The words of an area that can hold an error, with the site that each is: offset, length, site. -/
def State.areaSites (s : State) (k : Nat) (rd : Reader) : List (Nat × Nat × Site) :=
  let c := s.coach k
  let w := c.width
  let wing := wingOf k
  let offA := offOf rd 3
  let offD := offOf rd 4
  let d := (s.wing wing).drover
  (upto (8 * c.budget * w)).map (fun i => (offOf rd 0 + 4 * i, 4, .vreg k (i / w) (i % w))) ++
    (upto 64).map (fun n => (0x100 + 8 * n, 8, .sreg k n)) ++ (upto 12).map (fun n => (0x500 + 8 * n, 8, .preg k n)) ++
    (upto 64).map (fun n => (0x300 + 8 * n, 8, .hreg k (n / 4) (n % 4))) ++ (upto 16).map (fun f => (0x28 + f, 1, .flag k f)) ++
    sysPlaces.map (fun e => (e.2, 8, .sys k e.1)) ++ latchSites 0x580 k w c.lat ++
    (if areaHas rd 17 then latchSites 0xDA0 k w c.tlat else []) ++ recordSites k c rd ++
    (if areaHas rd 20 then
      (upto 4096).map (fun i => (offA + 4 * i, 4, .acc wing (i / 1024) (i % 1024))) ++
        (upto 6144).map (fun i => (offA + 0x4100 + 4 * i, 4, .lodge wing i)) ++
        (upto 1536).map (fun i => (offA + 0xA100 + 2 * i, 2, .scale wing (scaleLodge i))) ++
        (upto 1536).map (fun i => (offA + 0xAD00 + 2 * i, 2, .scale wing (scaleStage i))) ++
        (upto 384).map (fun i => (offA + 0xB900 + 2 * i, 2, .scale wing (scaleA i)))
     else []) ++
    (if areaHas rd 21 then
      let na := d.sa.length
      let n0 := d.q0.length
      (upto na).map (fun i => (offD + 0x160 + 384 * i, 384, .beat wing 0 (d.sa.getD i Beat.blank).id)) ++
        (upto n0).map (fun i => (offD + 0x160 + 384 * na + 4 * w * i, 4 * w,
          .beat wing 1 (d.q0.getD i Beat.blank).id)) ++
        (upto d.q1.length).map (fun i => (offD + 0x160 + 384 * na + 4 * w * (n0 + i), 4 * w,
          .beat wing 2 (d.q1.getD i Beat.blank).id))
     else [])

/-- Doubles written one by one in a job's address space. -/
def State.writeArea (s : State) (asid va : Nat) (ds : List Dbl) : State :=
  ((upto ds.length).zip ds).foldl (fun s e => s.agentPut asid (va + 8 * e.1) [e.2]) (s.noteAgent asid va (8 * ds.length) true)

/-- The words of a line. -/
def lineSites (pa : Nat) : List Site := (upto 16).map fun i => .line (pa / 128 * 128 + 8 * i)

/-- A saved word that holds an error poisons the line it is saved to (R357). -/
def State.poisonSaved (s : State) (asid va : Nat) (sites : List (Nat × Nat × Site)) : State :=
  let bad := sites.filter fun e => s.poison.contains e.2.2
  let lines := bad.flatMap fun e => match s.jobPlace asid (va + e.1) with
    | .home pa _ => lineSites pa
    | _ => []
  { s with poison := s.poison.filter (fun p => !bad.any fun e => e.2.2 == p) ++ lines }

/-- What the layout has no place for. -/
def State.keepCoach (s : State) (k : Nat) : Saved :=
  let g := s.wing (wingOf k)
  { key := k, coach := s.coach k, ops := s.ops.filter fun o => o.coach == k, mq := if s.ownsMatrix k then g.mq else [],
    drover := if (s.droverSection k).isSome then some g.drover else none }

/-- A drained party is written to its slot and leaves its core (R154 step 5, R323). -/
def State.saveParty (s : State) (p : Nat) : State :=
  let x := s.party p
  let l := s.launch x.launch
  let asid := l.asid.toNat
  let va := s.slotVa x
  let (s1, at1) := x.coaches.foldl (fun (r : State × Nat) k =>
    let img := s.contextOf k 0
    let rd : Reader := fun o => nth img (o / 8) 0
    ((r.1.writeArea asid r.2 img).poisonSaved asid r.2 (s.areaSites k rd), r.2 + 8 * img.length)) (s.writeArea asid va (slotHead x), va + 0x600)
  let lo := x.base - 256
  let s2 := s1.writeArea asid at1 (dblsOfBytes (mgets (s.core x.core).sram lo x.foot))
  let s3 := s2.poisonSaved asid at1 ((upto (x.foot / 4)).map fun i => (4 * i, 4, .sram x.core (lo / 4 + i)))
  let t := s3.removeParty p
  t.putParty p { x with
    st := .saved, coaches := [], shapes := [], pendSince := s.tick, beyond := x.coaches.map s.keepCoach,
    arrays := (upto 4).filterMap fun i =>
      let g := s.wing (4 * x.core + i)
      if g.drover.party = some p then some (i, g) else none }

/-- PREEMPT_SAVE. -/
def execPreemptSave (party : Nat) (s : State) : Out :=
  let x := s.party party
  if x.st == .draining && s.drainedParty party then .next (s.saveParty party) else .next s

/-! Restoring. -/

/-- Seats for saved coaches, each on the wing of the number it had, so that its engines serve it again. -/
def seatSaved (w : Nat) : List Saved → List Bay → Option (List Nat)
  | [], _ => some []
  | v :: vs, bs =>
    let i := wingOf v.key % 4
    match (bs[i]?).bind fun b => b.seat (8 * w * v.coach.budget) with
    | none => none
    | some (k, b1) => (seatSaved w vs (bs.set i b1)).map fun ks => k :: ks

/-- The seats of a saved party on a core: what R320 asks, its engines on the wings where they were. -/
def State.seatsBack (s : State) (p core : Nat) : Option (List Nat × Nat) :=
  let x := s.party p
  let l := s.launch x.launch
  let kn := l.kernel
  let rs := s.residents core
  let bays := (upto 4).map fun i => s.bay (4 * core + i)
  let busy := x.arrays.any fun e => match bays[e.1]? with
    | some b => (tbit l.drw e.1 && !b.drover) || (e.2.owner.isSome && !b.unowned)
    | none => true
  if busy || (!rs.isEmpty && (s.core core).l1share != kn.l1) then none
  else
    match firstFit (rs.map fun q => ((s.party q).base - 256, (s.party q).foot)) (padEnd kn.l1) x.foot with
    | none => none
    | some base => (seatSaved kn.width x.beyond bays).map fun ks => (ks, base)

/-- A valid handle is walked again (R156). -/
def State.rewalk (s : State) (k : Nat) (h : Handle) (reg : Nat) : State × Handle :=
  if h.st != .valid then (s, h)
  else
    let (id, s) := s.freshId
    let va := h.vbase.toNat
    ({ s with walks := s.walks ++ [{ id := id, coach := k, h := reg, va := h.vbase, mask := h.rights, asid := h.asid }] },
      pendingImage va h.asid id)

/-- The handles of results in flight are walked again. -/
def State.rewalkRecs (s : State) (k : Nat) (rs : List Landing) : State × List Landing :=
  rs.foldl (fun (r : State × List Landing) f =>
    match f.w with
    | .hnd n h =>
      let (t, g) := r.1.rewalk k h n
      (t, r.2 ++ [{ f with w := .hnd n g }])
    | _ => (r.1, r.2 ++ [f])) (s, [])

/-- Every handle of a restored coach that was valid is pending until its walk ends. -/
def State.rewalkAll (s : State) (k : Nat) : State :=
  let c := s.coach k
  let (s1, hs) := (upto 16).foldl (fun (r : State × Sparse Handle) n =>
    let (t, g) := r.1.rewalk k (sget Handle.blank c.h n) n
    (t, sset Handle.blank r.2 n g)) (s, [])
  let (s2, fl) := s1.rewalkRecs k c.inflight
  let (s3, ts) := s2.rewalkRecs k c.trapset
  s3.putCoach k { c with h := hs, inflight := fl, trapset := ts }

/-- The handles of a frozen walk, walked again before it goes on; one that is no longer valid suspends it. -/
def State.rewalkDrover (s : State) (d old : Drover) (asid : Nat) : Drover :=
  let hs := old.hs.map fun e =>
    let va := e.2.vbase.toNat
    (e.1, (s.walk asid va).handle e.2.asid va e.2.rights)
  match hs.find? fun e => e.2.st != .valid && streamOn d.active e.1 && streamMem d.active e.1 with
  | some e => if d.st = .running then { d with hs := hs, st := .suspended, shnd := streamHnd d.active e.1 } else { d with hs := hs }
  | none => { d with hs := hs }

/-- Errors come back with the words that were saved with them. -/
def State.poisonBack (s : State) (asid va : Nat) (sites : List (Nat × Nat × Site)) : State :=
  { s with poison := s.poison ++ (sites.filter fun e => match s.jobPlace asid (va + e.1) with
      | .home pa _ => s.poisoned pa e.2.1
      | _ => false).map (·.2.2) }

/-- A restored coach's engines (R297, R298, R316, R317). -/
def State.restoreEngines (s : State) (p : Nat) (v : Saved) (k : Nat) (rd : Reader) (seatNum : Nat → Nat) : State :=
  let w := wingOf k
  let asid := (s.coach k).asid.toNat
  let s := if areaHas rd 20 then
      s.modWing w fun g => { g.loadMatrix s rd (offOf rd 3) seatNum s.coach v.mq with owner := some k }
    else s
  match v.drover with
  | none => s
  | some d0 =>
    if !areaHas rd 21 then s
    else
      let o := offOf rd 4
      let id := s.nextId
      let s := { s with nextId := s.nextId + 128 }
      let d := { d0 with party := some p, id := id }.load rd (s.coach k).width o id (seatNum (dbits (rd (o + 0x10)) 7 4))
      (d0.hs.foldl (fun t e => t.logWalk (s.walk asid e.2.vbase.toNat) asid e.2.vbase.toNat) s).modWing w fun g =>
        { g with drover := s.rewalkDrover d d0 asid }

/-- A coach of a saved party in its new seat. -/
def State.restoreCoach (s : State) (p : Nat) (v : Saved) (k : Nat) (va : Nat) : State :=
  let asid := v.coach.asid.toNat
  let rd : Reader := fun o => s.agentDbl asid (va + o)
  let c := coachOf rd v.coach (s.now k + 1)
  let s := { s with ops := s.ops ++ (v.ops.map fun (o : Op) => { o with coach := k }) }.putCoach k { c with party := p }
  (s.poisonBack asid va (s.areaSites k rd)).settleSpill k []

/-- A saved stop is evaluated again against what was restored (R156, R255, R274): a barrier whose phase has changed, which acquires,
and a batch that has completed. WAIT is evaluated as any WAIT is. -/
def State.restop (s : State) (k : Nat) : State :=
  let c := s.coach k
  let x := s.party c.party
  let opened (t : Stop) : Bool := match t with
    | .barrier n q => (s.bar x.core (x.base + 16 * n)).phase != q
    | _ => false
  let ended (t : Stop) : Bool := opened t || (match t with
    | .cwait n => batchLe n c.cb
    | _ => false)
  let t := s.modCoach k fun c => c.unstop ended
  if c.stops.any opened then t.selfInvalidate (coreOf k) else t

/-- The areas of a slot, each coach's with its address, and where the footprint lies (R323). -/
def State.slotAreas (s : State) (asid va : Nat) (vs : List Saved) : List (Saved × Nat) × Nat :=
  vs.foldl (fun (r : List (Saved × Nat) × Nat) v =>
    (r.1 ++ [(v, r.2)], r.2 + areaSize (fun o => s.agentDbl asid (r.2 + o)))) ([], va + 0x600)

/-- Whether a slot's head and areas may be loaded (R159, R323). -/
def State.slotOk (s : State) (asid va : Nat) (x : Party) (areas : List (Saved × Nat)) : Bool :=
  let rd : Reader := fun o => s.agentDbl asid (va + o)
  let shapeOk (i : Nat) : Bool :=
    let o := 0x100 + 80 * i
    dbits (rd (o + 64)) 62 4 == 0 && dbits (rd (o + 72)) 31 0 ≤ 2 ^ 30 && dbits (rd (o + 72)) 63 32 ≤ 2 ^ 30
  rd 0 == s2Image x.d x.c && dbits (rd 0x10) 62 32 == 0 && zeroFrom rd 0x28 27 && (upto 16).all shapeOk &&
    areas.all fun e => areaOk s (fun o => s.agentDbl asid (e.2 + o)) e.1.coach

/-- A shape slot taken back. -/
def shapeOf (rd : Reader) (o : Nat) : Shape :=
  { valid := tbit (rd (o + 64)).toNat 63, desc := (upto 8).map fun i => rd (o + 8 * i), h := dbits (rd (o + 64)) 3 0,
    lo := dbits (rd (o + 72)) 31 0, hi := dbits (rd (o + 72)) 63 32 }

/-- A saved party comes back to a core (R156), or ends when its areas are refused (R159). -/
def State.restoreParty (s : State) (p core : Nat) (ks : List Nat) (base : Nat) : State :=
  let x := s.party p
  let l := s.launch x.launch
  let asid := l.asid.toNat
  let va := s.slotVa x
  let (areas, fa) := s.slotAreas asid va x.beyond
  let s := s.noteAgent asid va (fa + x.foot - va) false
  let rd : Reader := fun o => s.agentDbl asid (va + o)
  let good := s.slotOk asid va x areas
  let owners := ((List.zip ks x.beyond).filter fun e => e.2.coach.role == .matrix).map (·.1)
  let s1 := (s.modLaunch x.launch fun l => { l with slots := l.slots ++ (x.slot.elim [] fun i => [i]) }).occupy p core ks owners base
  let s1 := s1.modParty p fun y => { y with slot := none, beyond := [], arrays := [] }
  let seats := List.zip ks areas
  let seatNum (n : Nat) : Nat := match seats.find? fun e => e.2.1.coach.num == n with
    | some e => e.1
    | none => ks.headD 0
  if !good then
    let s2 := seats.foldl (fun s e => s.putCoach e.1 { e.2.1.coach with party := p, ended := false, flags := [], inflight := [] }) s1
    match seats.find? fun e => !areaOk s (fun o => s.agentDbl asid (e.2.2 + o)) e.2.1.coach with
    | some e => s2.partyFault e.1 0x81 0 0
    | none => s2.partyFault (ks.headD 0) 0x81 0 0
  else
    let pad := (upto (x.foot / 8)).flatMap fun i => leBytes (s.agentDbl asid (fa + 8 * i)).toNat 8
    let s2 := s1.modCore core fun c => { c with sram := msets c.sram base pad }
    let s2 := s2.poisonBack asid fa ((upto (x.foot / 4)).map fun i => (4 * i, 4, .sram core (base / 4 + i)))
    let s3 := seats.foldl (fun s e => s.restoreCoach p e.2.1 e.1 e.2.2) s2
    -- engines whose coach had ended come back as they were
    let s4 := x.arrays.foldl (fun s e => s.modWing (4 * core + e.1) fun g =>
      let gone (k : Nat) : Bool := !x.beyond.any fun v => v.key == k
      let g := if e.2.owner.any gone then
          { g with owner := some (2 ^ 40), acc := e.2.acc, lodge := e.2.lodge, lodged := e.2.lodged, lfmt := e.2.lfmt,
                   bscale := e.2.bscale, bstage := e.2.bstage, atab := e.2.atab, mq := e.2.mq }
        else g
      { g with drover := if gone e.2.drover.coach then e.2.drover else { g.drover with party := some p },
               issuedFmt := e.2.issuedFmt }) s3
    let s5 := seats.foldl (fun s e =>
      (s.restoreEngines p e.2.1 e.1 (fun o => s.agentDbl asid (e.2.2 + o)) seatNum).rewalkAll e.1) s4
    let s5 := ks.foldl State.restop s5
    s5.modParty p fun y => { y with
      token := rd 8, tile := if tbit (rd 0x10).toNat 63 then some (dbits (rd 0x10) 31 0) else none, ssteps := (rd 0x18).toNat,
      relaunches := (rd 0x20).toNat, coaches := ks,
      shapes := ssetAll Shape.blank [] ((upto 16).map fun i => (i, shapeOf rd (0x100 + 80 * i))) }

/-! Placing. -/

/-- A waiting party comes to a core: restored if it was saved, created if it was not. -/
def State.bring (s : State) (p core : Nat) : Option State :=
  if (s.party p).st == .saved then (s.seatsBack p core).map fun e => s.restoreParty p core e.1 e.2 else s.createOn p core

/-- PARTY_PLACE (R320 to R322). -/
def execPartyPlace (party : Nat) (s : State) : Out :=
  let x := s.party party
  let asid := (s.launch x.launch).asid.toNat
  let (t, ok) := if s.afterCut x.launch then s.stampOk asid x.die (s.epochOf asid 8) else (s, true)
  if x.st != .pending then .next s else if !ok then .next t else .next (t.placeUnit State.bring party).tickFree

/-- PARTY_RESTORE (R156). -/
def execPartyRestore (party : Nat) (s : State) : Out :=
  if (s.party party).st == .saved then .next (s.placeUnit State.bring party).tickFree else .next s

/-- PREEMPT_REQUEST (R154, R155, R322): the unit of a victim halts, when no wing of it replays (R160). -/
def execPreemptRequest (party : Nat) (s : State) : Out :=
  let busy := (s.unitOf party).any fun q => (s.party q).coaches.any fun k => s.replaying (wingOf k)
  if !busy && (s.victims State.bring (s.party party).die).contains party then .next ((s.unitOf party).foldl State.haltParty s)
  else .next s

/-! Table mismatches. -/

/-- A wing's squashed bundles issue again from cycle `u` on, as they did from cycle t: held results, gaps and yields keep their distance
(R160). -/
def State.replayFrom (s : State) (w t u : Nat) : State :=
  let late (x : Nat) : Nat := if t ≤ x then x + (u - t) else x
  let stop (x : Stop) : Stop := match x with | .yield v => .yield (late v) | x => x
  let s := (s.coachesOfWing w).foldl (fun s k => s.modCoach k fun c => { c with
    inflight := c.inflight.map fun f => if f.fe.isNone then { f with due := late f.due, early := late f.early } else f,
    next := late c.next, stop := stop c.stop, more := c.more.map stop }) s
  s.modWing w fun g => { g with next := max g.next u, replay := u, squash := none }

/-- The third mismatch of a wing within a millisecond: the wing is out of service and its parties have consumed an error (R161). -/
def State.wingFails (s : State) (w : Nat) : State :=
  let ks := s.coachesOfWing w
  let ps := dedup ((ks.map fun k => (s.coach k).party).filter fun p => (s.party p).launch ≠ 0)
  let s := (s.modWing w fun g => { g with out := true, squash := none, again := [] }).errLog 8 2 w
    (s.coachId (ks.headD (16 * w))) 0 0 0 0
  ps.foldl State.dropParty (ks.foldl (fun s k =>
    if (s.party (s.coach k).party).launch = 0 then s.modCoach k fun c => { c with ended := true, stop := .none } else s) s)

/-- TABLE_MISMATCH (R160, R161): the bundles that the wing issues in the next two cycles will be squashed; and, once those cycles have
passed, the mismatch is detected, and they are replayed after a number of cycles that is left open, with one record that names the
first of them (log 57). -/
def execTableMismatch (wing : Nat) (s : State) : Out :=
  let g := s.wing wing
  let die := s.die (dieOfCore (coreOfWing wing))
  if g.out || die.gated then .next s
  else match g.squash with
    | none => if s.replaying wing then .next s else .next (s.modWing wing fun g => { g with squash := some (die.cycle + 1), again := [] })
    | some t =>
      if die.cycle < t + 2 then .next s
      else
        let recent := (g.mismatches.filter fun m => s.tick < m + 1700000) ++ [s.tick]
        let s1 := s.modWing wing fun g => { g with mismatches := recent }
        if 3 ≤ recent.length then .next (s1.wingFails wing).tickFree
        else
          let (k, a) := g.again.headD ((s.coachesOfWing wing).headD (16 * wing), 0)
          .next ((s1.replayFrom wing t (die.cycle + s.pick 5300 99)).record k 0 0x10 a (dnat recent.length)).tickFree

/-- WING_RETURN_TO_SERVICE (R161). -/
def execWingReturnToService (wing : Nat) (s : State) : Out :=
  .next (s.modWing wing fun g => { g with out := false, mismatches := [] })

/-- STEWARD_RESTART (R357): firmware starts a steward coach that has ended again, at an address of its own choice. -/
def execStewardRestart (coach : Nat) (s : State) : Out :=
  let c := s.coach coach
  if c.present && c.ended && (s.party c.party).launch = 0 then
    .next (s.putCoach coach
      { Coach.blank with
        present := true, role := c.role, width := c.width, budget := c.budget, num := c.num, priv := true, asid := c.asid,
        spill := c.spill, pc := Config.freeDbl s.freeCtr 5400, tvec := c.tvec, dtbase := c.dtbase, dtlen := c.dtlen, launched := c.launched,
        live := c.launched, stack := [StackEntry.base c.launched], next := s.now coach + 1 }).tickFree
  else .next s

end Sys2Proof.Machine
end

