-- ==== Sys2Proof/Machine/Snapshot.lean ====
section
/-! DEFINITION. Snapshots (R332 to R350): SNAP and SNAPQ, waymarks, items that arrive on links, draining and manifests, reports
and verdicts. Rollback follows in Rollback. -/

namespace Sys2Proof.Machine

/-! SNAP and SNAPQ. -/

/-- SNAP (R349): the party commits, its token kept. -/
def execSnap (o : CSnap) (s : State) : Out :=
  onCoach s fun k c =>
    if s.active c o.g = 0 then .next (s.putCoach k (c.sclSkip s.cur.seq))
    else
      let off := (s.rdS c o.b).toNat
      if off % 128 ≠ 0 then raise s k (illegal 3 4 50)
      else
        withChk s k (checkOne s c o.h off 128 1#4) (
          let h := s.readH c o.h
          let s := s.commitPoint c.party
          issueScalarOp s k (s.coach k) o.d o.f (.snap (c.cDest o.d) o.full h off)
            [s.recordPart h off 128])

/-- SNAPQ (R350). -/
def execSnapq (o : CSnapq) (s : State) : Out :=
  onCoach s fun k c =>
    if s.active c o.g = 0 then .next (s.putCoach k (c.sclSkip s.cur.seq))
    else issueScalarOp s k c o.d o.f (.snapq (c.cDest o.d)) []

/-- The status double that SNAPQ reads (R350). -/
def Snap.image (n : Snap) : Dbl := dnat (n.state * 2 ^ 60 + n.cause * 2 ^ 52 + bnat n.cross * 2 ^ 51 + n.gen % 2 ^ 32)

/-- The status of a control block: the rows of R349, but for a SNAP of g while g − 1 drains, whose status R355 gives (log 41). -/
def State.snapStatus (s : State) (o : Op) (full : Bool) (d : List Dbl) : Nat :=
  let j := s.job o.asid.toNat
  let n := j.snap
  let x (i : Nat) : Dbl := nth d i 0
  if dbits (x 0) 63 32 ≠ 0 ∨ dbits (x 1) 63 2 ≠ 0 ∨ 2 ≤ dbits (x 1) 1 0 ∨ dbits (x 3) 63 11 ≠ 0 ∨ (x 3).toNat ≠ j.pkgs ∨
      ((upto 12).any fun i => x (4 + i) != 0) ∨ (s.coach o.coach).priv then 1
  else if n.state = 2 ∧ (x 0).toNat = n.gen + 1 then 3
  else if (x 0).toNat ≠ n.latest + 1 then 2
  else if n.running ∨ n.rollback then 3
  else if !n.done && !full then 4
  else 0

/-- A control block that has been read is judged; an accepted SNAP takes its die's cut, and is counted when the cut is taken
(R349). An operation whose block has been accepted has no parts left. -/
def State.decideSnap (s : State) (o : Op) (d : Nat) (full : Bool) (h : Handle) (off : Nat) : State :=
  let asid := o.asid.toNat
  if o.parts.isEmpty then
    if (s.cutOf asid o.die).delayed.isSome then s else s.finishScalar o d 0
  else
    let ds := dblsOfBytes (o.parts.flatMap (·.got))
    let st := s.snapStatus o full ds
    if st ≠ 0 then (s.snapRefused asid o.die o.party o.id).finishScalar o d (dnat st)
    else
      let s := s.triggerCut asid o.die (nth ds 0 0).toNat full (s.job asid).pkg (h.vbase.toNat + off)
      if (s.cutOf asid o.die).delayed.isSome then s.putOp { o with parts := [] } else s.finishScalar o d 0

/-! Reports and verdicts (R335, R337). -/

/-- Adds a report of a package. -/
def State.addReport (s : State) (asid pkg code : Nat) : State :=
  s.modSnap asid fun n => if n.reports.contains (pkg, code) then n else { n with reports := n.reports ++ [(pkg, code)] }

/-- The coordinator package acts on the reports that it has (R337). -/
def State.judge (s : State) (asid : Nat) : State :=
  let j := s.job asid
  let n := j.snap
  let all (code : Nat) : Bool := (upto j.pkgs).all fun q => n.reports.contains (q, code)
  if n.coord ≠ j.pkg ∨ !n.running then s
  else if all 0 && all 1 then
    let s := s.modSnap asid fun n => { n with state := 3, cause := 0, stage := .off, done := true }
    s.broadcast asid (s.packet asid 3 8 2 0)
  else if all 0 && n.state == 1 then
    let s := s.modSnap asid fun n => { n with state := 2 }
    s.broadcast asid (s.packet asid 3 8 0 0)
  else s

/-- This package reports: to itself, or to the others. -/
def State.report (s : State) (asid code : Nat) : State :=
  let j := s.job asid
  if j.snap.coord = j.pkg then (s.addReport asid j.pkg code).judge asid else s.broadcast asid (s.packet asid 2 8 code 0)

/-- The fields of a vendor packet (R335). -/
def pkKind (d0 : Dbl) : Nat := dbits d0 7 0
def pkPkg (d0 : Dbl) : Nat := dbits d0 25 16
def pkTag (d0 : Dbl) : Nat := dbits d0 63 32
def pkGen (d1 : Dbl) : Nat := dbits d1 31 0
def pkCode (d1 : Dbl) : Nat := dbits d1 47 40
def pkCause (d1 : Dbl) : Nat := dbits d1 55 48

/-- The job of a packet, by its tag. -/
def State.jobOfTag (s : State) (tag : Nat) : Option Nat :=
  (tkeys s.jobs).find? fun a => (s.job a).present && (s.job a).tag == tag

/-- What a package of a job of several learns of crossings from the others (R334, R350): whether one of them met one is free, for no packet
of R335 says it (logs 1 and 89); the coordinator knows of this package's. -/
def State.hearCross (s : State) (asid : Nat) : State :=
  s.modSnap asid fun n => { n with cross := n.cross || n.crossed || s.pick 5600 2 == 1 }

/-- PACKAGE_REPORT: a report reaches the coordinator package. -/
def execPackageReport (o : LinkItem) (s : State) : Out :=
  match o.body with
  | .packet d0 d1 _ _ =>
    match s.jobOfTag (pkTag d0) with
    | none => .next s
    | some a =>
      let j := s.job a
      if pkKind d0 ≠ 2 ∨ j.snap.coord ≠ j.pkg ∨ !j.snap.running ∨ pkGen d1 ≠ j.snap.gen % 2 ^ 32 then .next s
      else
        let s := s.hearCross a
        if pkCode d1 = 3 then .next (s.abortGen a (pkCause d1)).tickFree
        else .next ((s.addReport a (pkPkg d0) (pkCode d1)).judge a).tickFree
  | _ => .next s

/-- An aborted generation of which a package hears before it has met a trigger: its dies cut at once (R347). -/
def State.abortUnmet (s : State) (asid gen cause coord scb : Nat) (full : Bool) : State :=
  (s.modSnap asid fun n =>
    { n with
      state := 1, cause := 0, cross := false, crossed := false, asked := false, gen := gen, full := full, coord := coord,
      scb := scb, cuts := [], stage := .off, slot := 0,
      manifest := [], reports := [] }).abortGen asid cause

/-- VERDICT: the coordinator package's word reaches another package. -/
def execVerdict (o : LinkItem) (s : State) : Out :=
  match o.body with
  | .packet d0 d1 d2 _ =>
    match s.jobOfTag (pkTag d0) with
    | none => .next s
    | some a =>
      let j := s.job a
      if pkKind d0 ≠ 3 then .next s
      else if !j.snap.running ∧ !j.snap.rollback ∧ pkCode d1 = 3 ∧ pkGen d1 = (j.snap.latest + 1) % 2 ^ 32 ∧
          stampOf (s.epochOf a 8) o.epoch = .new then
        .next (s.abortUnmet a (pkGen d1) (pkCause d1) (pkPkg d0) d2.toNat (d1.getLsbD 32))
      else if j.snap.coord = j.pkg ∨ !j.snap.running ∨ pkGen d1 ≠ j.snap.gen % 2 ^ 32 then .next s
      else
        let s := s.hearCross a
        match pkCode d1 with
        | 0 => .next (s.modSnap a fun n => { n with state := 2 }).tickFree
        | 2 => .next (s.modSnap a fun n => { n with state := 3, cause := 0, stage := .off, done := true }).tickFree
        | 3 => .next (s.abortGen a (pkCause d1)).tickFree
        | _ => .next s.tickFree
  | _ => .next s

/-- HEARTBEAT_TIMEOUT (R354): a package is silent; a generation for which it has not reported drained is aborted. -/
def execHeartbeatTimeout (asid package : Nat) (s : State) : Out :=
  let j := s.job asid
  if j.present && j.snap.running && j.snap.coord == j.pkg && package < j.pkgs && package != j.pkg &&
      !j.snap.reports.contains (package, 1) then .next (s.abortGen asid 4)
  else .next s

/-- CUT_DELAY_TIMEOUT (R334): 2 ms. -/
def execCutDelayTimeout (asid die : Nat) (s : State) : Out :=
  match (s.cutOf asid die).delayed with
  | some t => if t + 3400000 ≤ s.tick then .next (s.abortHere asid 1) else .next s
  | none => .next s

/-! Waymarks. -/

/-- What came on a UALink port has been taken. -/
def State.taken (s : State) (i : Instr) : State := { s with env := s.env.erase i }

/-- Where an operation's open parts lie, by home die. -/
def Op.homes (o : Op) : List Nat :=
  o.parts.flatMap fun p => if p.st == .fin then []
    else match p.place with
      | .home pa _ => [homeDie pa]
      | _ => p.ats.filterMap fun a => match a.place with | .home pa _ => some (homeDie pa) | _ => none

/-- Whether items of an epoch before a die's cut are still on their way to it: a waymark does not overtake them (R333, R336). -/
def State.oldOnTheWay (s : State) (asid die : Nat) : Bool :=
  let old (stamp : Nat) : Bool := stampOf (s.epochOf asid die + (if (s.cutOf asid die).cut then 0 else 1)) stamp == .old
  (s.ops.any fun o => o.asid.toNat == asid && !o.held && o.kind.isMem && old (o.stampAt die) && o.homes.contains die) ||
    (s.commits.any fun c => c.asid.toNat == asid && old c.stamp && c.bytes.any fun b => homeDie b.pa == die) ||
    (s.cores.any fun e => e.2.courier.any fun m => m.asid.toNat == asid && !m.held && old (m.stampAt die true) && (m.kind == .st || m.kind == .g) &&
      (upto m.len).any fun j => !m.sent.contains j && (match s.sidePlace m.dst j with
        | .home pa _ => homeDie pa == die
        | _ => false))

/-- Each die whose cut is complete; when all are, and nothing old is still on its way to any of them, the package reports it and begins to
drain (R336, R337). -/
def State.noteComplete (s : State) (asid : Nat) : State :=
  let n := (s.job asid).snap
  if n.running && n.stage == .off && !n.asked && (upto 10).all (fun d => s.cutComplete asid d && !s.oldOnTheWay asid d) then
    (s.modSnap asid fun n => { n with stage := .granules }).report asid 0
  else s

/-- WAYMARK_ARRIVAL (R333, R336): on a die-to-die link, once the sender has cut; on a UALink port, as the peer sent it. One of a
generation that this package knows to have been aborted comes with its own epoch, and starts nothing. -/
def execWaymarkArrival (link : Nat) (o : LinkItem) (s : State) : Out :=
  if 1000 ≤ link then
    let a := linkStart link
    let b := linkEnd link
    let n := (s.job o.asid).snap
    if !isDieLink link || !s.linkUp link || !n.running || !(s.cutOf o.asid a).cut ||
        (s.cutOf o.asid b).seen.contains link || s.oldOnTheWay o.asid b then .next s
    else .next ((s.waymark o.asid b link n.gen n.full n.coord n.scb).noteComplete o.asid)
  else
    match o.body with
    | .packet d0 d1 d2 _ =>
      match s.jobOfTag (pkTag d0) with
      | none => .next s
      | some a =>
        let j := s.job a
        let n := j.snap
        let s0 := s.taken (.waymarkArrival link o)
        if 16 ≤ link ∨ !s.linkUp link ∨ !j.ports.getLsbD link then .next s
        else if pkKind d0 ≠ 1 ∨ n.rollback ∨ (n.running ∧ pkGen d1 ≠ n.gen % 2 ^ 32) ∨
            (!n.running ∧ (pkGen d1 ≠ (n.latest + 1) % 2 ^ 32 ∨ stampOf (s.epochOf a (portDie link)) o.epoch ≠ .new)) then .next s0
        else
          let coord := if n.running then n.coord else pkPkg d0
          .next ((s0.waymark a (portDie link) link (pkGen d1) (d1.getLsbD 32) coord d2.toNat).noteComplete a)
    | _ => .next s

/-! Items that arrive (R244, R332, R334, R336). -/

/-- The bytes of a masked write within one line, as a log record (R345). -/
def maskedRecord (lineVa : Nat) (bs : List (Nat × Byte)) : List Byte :=
  let mask := bs.foldl (fun (m : Nat) e => m ||| 2 ^ e.1) 0
  leBytes (1 + 2 ^ 16 * 128) 8 ++ leBytes lineVa 8 ++ leBytes mask 8 ++ leBytes (mask / 2 ^ 64) 8 ++
    (upto 128).map fun i => match bs.find? fun e => e.1 = i with | some e => e.2 | none => 0

/-- The records of a write of bytes at offsets from an address. -/
def State.writeRecords (s : State) (asid pa : Nat) (bs : List (Nat × Byte)) : List Byte :=
  (dedup (bs.map fun e => (pa + e.1) / 128)).flatMap fun line =>
    maskedRecord (s.mappedVa asid (128 * line))
      ((bs.filter fun e => (pa + e.1) / 128 = line).map fun e => ((pa + e.1) % 128, e.2))

/-- A response to a peer crosses from its home to the I/O die of a port, which a new one cuts, and leaves with that die's epoch (R332,
R333). -/
def State.respond (s : State) (asid die link : Nat) (b : LinkBody) : State :=
  let (s, _) := s.stampOk asid (portDie link) (s.epochOf asid die)
  { s with linkOut := s.linkOut ++ [(link, s.item asid (s.epochOf asid (portDie link)) b)] }

/-- The address by which the job maps a byte of this package, and whether its page is encrypted. -/
def State.mappedAt (s : State) (asid pa : Nat) : Place × Nat :=
  match (s.jobGranules asid).find? fun e => e.2.1 == pa / 65536 with
  | some e => (.home pa e.2.2.1, e.1 + pa % 65536)
  | none => (.home pa false, pa)

/-- n bytes that a peer reads at their home. -/
def State.peerRead (s : State) (asid pa n : Nat) : State × List Byte :=
  let (p, va) := s.mappedAt asid pa
  let s := match p with | .home _ enc => (s.fill asid pa enc n va).countDead pa | _ => s
  (s, s.physBytes pa n)

/-- Whether a lane of a peer's atomic holds an uncorrectable error: none of it is then performed (R357). -/
def State.lanesPoisoned (s : State) (lanes : List (Nat × Word × Word)) : Bool :=
  lanes.any fun (e : Nat × Word × Word) => s.poisoned (e.1 / 4 * 4) 4

/-- The lanes of a peer's atomic, one after another in one step (R222). -/
def State.peerLanes (s : State) (asid opc : Nat) (lanes : List (Nat × Word × Word)) : State × List Word :=
  lanes.foldl (fun (r : State × List Word) e =>
    let (pa, v, c) := e
    let (t, old) := r.1.peerRead asid pa 4
    let m : Word := BitVec.ofNat 32 (leNat old)
    let (p, va) := t.mappedAt asid pa
    (t.sharedWrite asid p va (leBytes (atomOp opc m v c).toNat 4), r.2 ++ [m])) (s, [])

/-- A peer's request is performed at its home, and whether it was: not while it must wait for a delayed cut or a reserve frame.
A peer's write and atomic are
those of a party that committed first and is non-relaunchable (R223); whether a load's party is cannot be read from the item, and is
free (R334). -/
def State.serveItem (s : State) (asid link stamp pa : Nat) (writes : Bool) (f : State → State × LinkBody) (log : State → List Byte) :
    State × Bool :=
  let die := homeDie pa
  let (t, ok) := s.stampOk asid die stamp
  if !ok || (writes && !t.cowReady asid pa) then (t, false)
  else
    let t := t.markCross asid pa stamp (writes || t.pick 5500 2 == 0)
    let t := if writes && t.isOld asid die stamp then t.logReceived asid die (log t) else t
    let (u, b) := f t
    (u.respond asid die link b, true)

/-- Whether an answer may be delivered: at once to a non-relaunchable party, else as any item (R334). -/
def State.answerOk (s : State) (asid die stamp : Nat) (exempt : Bool) : State × Bool :=
  let (s, ok) := s.stampOk asid die stamp
  (s, ok || exempt)

/-- The die and exemption of the access that a request number names. -/
def State.requester (s : State) (req : Nat) : Option (Nat × Bool) :=
  if req < 2 ^ 62 then (s.op? (req / 2048)).map fun o => (o.die, s.exempts o.party)
  else if req < 2 ^ 63 then
    (tkeys s.wings).findSome? fun w => ((s.wing w).drover.beat? (req - 2 ^ 62)).map fun e =>
      (dieOfCore (coreOfWing w), s.exempts (s.coach e.2.coach).party)
  else (tkeys s.cores).findSome? fun c => ((s.core c).courier.find? fun m => m.id = (req - 2 ^ 63) / 2 ^ 19).map fun m => (m.die, s.exempts m.party)

/-- An answer reaches what awaits it. -/
def State.handAnswer (s : State) (req : Nat) (bs : List Byte) : State :=
  if req < 2 ^ 62 then s.peerAnswer req bs else if req < 2 ^ 63 then s.beatAnswer req bs else s.cmdAnswer req bs

/-- What awaits a request consumes the error that its peer found (R357): a syllable, a walk's beat, a command. -/
def State.handPoison (s : State) (req : Nat) : State :=
  if req < 2 ^ 62 then
    match s.op? (req / 2048) with
    | some o => s.consumeAt o 5 ((o.parts[req % 2048]?).elim 0 (·.place.key))
    | none => s
  else if req < 2 ^ 63 then
    match (tkeys s.wings).findSome? fun w => ((s.wing w).drover.beat? (req - 2 ^ 62)).map fun e => (w, e.2) with
    | some (w, b) => s.consume b.coach 5 b.place.key (s.wing w).drover.addr
    | none => s
  else
    match s.cmd? ((req - 2 ^ 63) / 2 ^ 19) with
    | some (_, m, _) => s.consumeFor m.coach m.party m.asid.toNat 5 (s.sidePlace m.src ((req - 2 ^ 63) % 2 ^ 18)).key m.addr
    | none => s

/-- An answer arrives for the die that asked, with its data or an error; whether it was delivered. -/
def State.answerItem (s : State) (asid stamp req : Nat) (bs : Option (List Byte)) : State × Bool :=
  match s.requester req with
  | none => (s, true)
  | some (die, exempt) =>
    let (t, ok) := s.answerOk asid die stamp exempt
    (if ok then (match bs with | some b => t.handAnswer req b | none => t.handPoison req) else t, ok)

/-- The addresses at which an item accesses this package. -/
def reachesOf : LinkBody → List Nat
  | .read _ pa len => [pa, pa + len - 1]
  | .write _ pa bs => bs.map fun (e : Nat × Byte) => pa + e.1
  | .atomic _ _ lanes => lanes.map fun (e : Nat × Word × Word) => e.1
  | _ => []

/-- The request that an item answers. -/
def answersOf : LinkBody → Option Nat
  | .readResp r _ => some r
  | .ack r => some r
  | .atomicResp r _ => some r
  | .poisoned r => some r
  | _ => none

/-- What an item does on the die that it is for, and whether it has: not while it must wait. -/
def State.applyItem (s : State) (link : Nat) (o : LinkItem) : State × Bool :=
  let asid := o.asid
  match o.body with
  | .read req pa len => s.serveItem asid link o.epoch pa false
      (fun t => let (u, bs) := t.peerRead asid pa len; (u, if u.poisoned pa len then .poisoned req else .readResp req bs)) (fun _ => [])
  | .write req pa bs => s.serveItem asid link o.epoch pa true
      (fun t => (bs.foldl (fun (t : State) (e : Nat × Byte) =>
        let (p, va) := t.mappedAt asid (pa + e.1)
        t.sharedWrite asid p va [e.2]) t, .ack req))
      (fun t => t.writeRecords asid pa bs)
  | .atomic req opc lanes => s.serveItem asid link o.epoch ((lanes.map fun (e : Nat × Word × Word) => e.1).headD 0) true
      (fun t =>
        if t.lanesPoisoned lanes then (t, .poisoned req)
        else let (t, olds) := t.peerLanes asid opc lanes; (t, .atomicResp req olds))
      (fun t => if t.lanesPoisoned lanes then [] else lanes.flatMap
         fun (e : Nat × Word × Word) => atomicRecord (t.mappedVa asid e.1) opc e.2.1 e.2.2)
  | .readResp req bs => s.answerItem asid o.epoch req (some bs)
  | .ack req => s.answerItem asid o.epoch req (some [])
  | .atomicResp req olds => s.answerItem asid o.epoch req (some (olds.flatMap fun (w : Word) => leBytes w.toNat 4))
  | .poisoned req => s.answerItem asid o.epoch req none
  | .message _ => (s, true)
  | .packet _ _ _ _ => (s, true)

/-- LINK_ITEM_ARRIVAL: an item of a job arrives on a UALink port. It is discarded during a rollback until the port's notice has
come (R352); a new one cuts the I/O die it reaches, and then the die it is for. An access beyond the package's memory has no
home. -/
def execLinkItemArrival (link : Nat) (o : LinkItem) (s : State) : Out :=
  let asid := o.asid
  let j := s.job asid
  let iod := portDie link
  if 16 ≤ link ∨ !s.linkUp link ∨ !j.ports.getLsbD link ∨ o.index ≠ j.index then .next s
  else if j.snap.rollback ∧ !(s.cutOf asid iod).notices.contains link then .next (s.taken (.linkItemArrival link o))
  else
    match (reachesOf o.body).find? fun a => !addressable a 1 with
    | some a => .fault (.noMemory a)
    | none =>
      let (s1, ok) := s.answerOk asid iod o.epoch (((answersOf o.body).bind s.requester).elim false (·.2))
      if !ok then .next s1
      else
        let (t, done) := s1.applyItem link o
        if done then .next (t.taken (.linkItemArrival link o)).tickFree else .next t

/-! Draining (R343 to R346). -/

/-- Bytes written at a job's address, page piece by page piece; whether every piece had a place, and one in a peer window a port by which
to leave (R343). -/
def State.writeBytes (s : State) (asid va : Nat) (bs : List Byte) : State × Bool :=
  let s := s.noteAgent asid va bs.length true
  (chunks 64 bs).zipIdx.foldl (fun (r : State × Bool) e =>
    match r.1.jobPlace asid (va + 64 * e.2) with
    | .nowhere => (r.1, false)
    | .peer q pa => (r.1.agentStore asid (.peer q pa) e.1, r.2 && (r.1.wayOut asid).isSome)
    | p => (r.1.agentStore asid p e.1, r.2)) (s, true)

/-- Bytes of a slot of the drain target (R343). -/
def slotBytes : Nat := 0x10040

/-- Writes the content of slot i, padded: false if the target is full or the write failed. -/
def State.writeSlot (s : State) (asid i : Nat) (content tag : List Byte) : State × Bool :=
  let e := (s.job asid).snap.entry
  let body := content ++ List.replicate (65536 - content.length) 0 ++ tag
  if (nth e 3 0).toNat ≤ i then (s, false)
  else s.writeBytes asid ((nth e 2 0).toNat + slotBytes * i) (body ++ List.replicate (slotBytes - body.length) 0)

/-- A granule's content as the drain reads it: the copy if it is held (R339). -/
def State.granuleContent (s : State) (asid g : Nat) : List Byte :=
  match (s.granule asid g).c with
  | .held f => s.plainRead (s.jobPlace asid ((nth (s.job asid).snap.entry 4 0).toNat + 65536 * f)) 65536
  | _ => s.physBytes (g * 65536) 65536

/-- One granule is drained (R343, R344): its slot, its manifest entry, and P := 0. -/
def State.drainOne (s : State) (asid : Nat) (e : Nat × Nat × Bool × Nat) : State :=
  let n := (s.job asid).snap
  let (va, g, enc, key) := e
  let plain := s.granuleContent asid g
  let (body, tag) :=
    if enc then Config.gcmSeal (sget KeySlot.blank s.keys key).key (leBytes n.gen 4 ++ leBytes va 8) plain
    else (plain, [])
  let (t, ok) := s.writeSlot asid n.slot body tag
  if !ok then t.abortHere asid 3
  else
    let rec1 := leBytes va 8 ++ leBytes (bnat enc) 8 ++ digest body
    (t.putGranule g { t.granule asid g with p := false }).modSnap asid fun n =>
      { n with slot := n.slot + 1, manifest := n.manifest ++ rec1 }

/-- The next unplaced party of a launch on a die, as that die recorded it; a launch that came after its cut has them all
before it. -/
def State.nextImage (s : State) (asid die l : Nat) : Dbl :=
  match s.recsOf asid die (2 ^ 63) l with
  | r :: _ => nth r 1 0
  | [] =>
    match (s.launch l).parties.filter fun p => (s.party p).die = die with
    | p :: _ => s2Image (s.party p).d (s.party p).c
    | [] => BitVec.allOnes 64

/-- The records of one launch (R346). -/
def State.launchRecords (s : State) (asid l : Nat) : List Dbl :=
  let at8 := nth (s.recsOf asid 8 (2 ^ 62) l) 0 []
  let per := (upto 8).flatMap fun d => s.recsOf asid d (2 ^ 63) l
  let sum (i : Nat) : Nat := per.foldl (fun (n : Nat) r => n + (nth r i 0).toNat) 0
  let tiles := ((upto 8).flatMap fun d => s.recsOf asid d (2 ^ 61) l).map fun r => nth r 1 0
  let ps := (upto 8).flatMap fun d => s.recsOf asid d 0 l
  (upto 16).map (fun i => nth (s.launch l).doubles i 0) ++
    [dnat l, nth at8 1 0, s.nextImage asid 0 l, dnat (sum 2 + 2 ^ 32 * sum 3), dnat tiles.length, dnat ps.length] ++
    (upto 7).map (fun j => s.nextImage asid (j + 1) l) ++ [0, 0, 0] ++ padDbls 4 tiles ++ ps.flatMap id

/-- The records section: the launches that I/O die 0 recorded. -/
def State.recordsOf (s : State) (asid : Nat) : List Dbl :=
  ((chunks 8 (s.cutOf asid 8).recs).filter fun r => (nth r 0 0).toNat / 2 ^ 61 == 2).flatMap fun r =>
    s.launchRecords asid ((nth r 0 0).toNat - 2 ^ 62)

/-- The manifest stream of a package: header, entries, records, log (R343, R344, R345). -/
def State.stream (s : State) (asid : Nat) : List Byte × List Byte :=
  let j := s.job asid
  let n := j.snap
  let recs := bytesOfDbls (s.recordsOf asid)
  let log := (upto 10).flatMap fun d => (s.cutOf asid d).log
  let ticks := (upto 10).map fun d => (s.cutOf asid d).tick
  let first := (least? ticks).getD 0
  let last := ticks.foldl max 0
  let head := bytesOfDbls [dnat (n.gen % 2 ^ 32 + 2 ^ 32 * j.pkg + 2 ^ 42 * bnat n.full), dnat (n.manifest.length / 48),
    dnat recs.length, dnat log.length, dnat first, dnat last]
  let root := digest (head ++ n.manifest ++ recs ++ log)
  (head ++ root ++ List.replicate (80 - root.length) 0 ++ n.manifest ++ recs, log)

/-- After the last granule: the manifest and the log at their addresses, then the stream in the slots that follow (R343). -/
def State.drainManifest (s : State) (asid : Nat) : State :=
  let n := (s.job asid).snap
  let (man, log) := s.stream asid
  let e (i : Nat) : Nat := (nth n.entry i 0).toNat
  if e 1 < man.length ∨ e 7 < log.length then s.abortHere asid 2
  else
    let (s1, ok1) := s.writeBytes asid (e 0) man
    let (s2, ok2) := s1.writeBytes asid (e 6) log
    let (s3, ok3) := (chunks 65536 (man ++ log)).zipIdx.foldl (fun (r : State × Bool) c =>
      let (t, ok) := r.1.writeSlot asid (n.slot + c.2) c.1 []
      (t, r.2 && ok)) (s2, true)
    if !(ok1 && ok2 && ok3) then s3.abortHere asid 3
    else (s3.modSnap asid fun n => { n with stage := .fin }).report asid 1

/-- GRANULE_DRAIN (R343): the next granule, or what follows the last; it begins once the cut is complete, whichever link or access was the
last to be awaited. -/
def execGranuleDrain (asid : Nat) (s : State) : Out :=
  let n := (s.job asid).snap
  if !n.running then .next s
  else if n.stage == .off then .next (s.noteComplete asid)
  else if n.stage != .granules then .next s
  else
    match s.drainList asid with
    | e :: _ => .next (s.drainOne asid e)
    | [] => .next (s.drainManifest asid)

end Sys2Proof.Machine
end

