-- ==== Sys2Proof/Machine/Rollback.lean ====
section
/-! DEFINITION. Rollback (R351, R352): ROLLIN, the stop, rollback notices, and the restore, replay, relaunch and resume of a
job on this package. -/

namespace Sys2Proof.Machine

/-! Storage. -/

/-- An entry of the chain table (R351): target base, generation, package. -/
structure ChainEntry where
  base : Nat
  gen : Nat
  pkg : Nat
  deriving DecidableEq, Repr

/-- The chain table at an address, its count in the first entry. -/
def State.chainAt (s : State) (asid va : Nat) : List ChainEntry :=
  let n := dbits (s.agentDbl asid (va + 8)) 63 48
  (upto n).map fun i =>
    let d := s.agentDbl asid (va + 16 * i + 8)
    { base := (s.agentDbl asid (va + 16 * i)).toNat, gen := dbits d 31 0, pkg := dbits d 41 32 }

/-- Whether a reserved bit of the chain table is set. -/
def State.chainReserved (s : State) (asid va : Nat) : Bool :=
  (upto (dbits (s.agentDbl asid (va + 8)) 63 48)).any fun i =>
    let d := s.agentDbl asid (va + 16 * i + 8)
    dbits d 47 42 != 0 || (i != 0 && dbits d 63 48 != 0)

/-- Whether n bytes from an address can be read through a job's context (R351). -/
def State.readable (s : State) (asid va n : Nat) : Bool := s.mapsRange asid va n 0

/-- A double of slot i of a target. -/
def State.slotDbl (s : State) (asid base i off : Nat) : Dbl := s.agentDbl asid (base + slotBytes * i + off)

/-- Bytes of a target from a position of the stream that begins in slot i, 64 KiB to a slot. -/
def State.streamBytes (s : State) (asid base i : Nat) (pos n : Nat) : List Byte :=
  (upto n).flatMap fun j =>
    let p := pos + j
    s.plainRead (s.jobPlace asid (base + slotBytes * (i + p / 65536) + p % 65536)) 1

/-- Requests to the host for the first n bytes of the stream that begins in slot i (R207). -/
def State.noteStream (s : State) (asid base i n : Nat) : State :=
  (upto ((n + 65535) / 65536)).foldl (fun s j =>
    s.noteAgent asid (base + slotBytes * (i + j)) (min 65536 (n - 65536 * j)) false) s

/-- The slot of a manifest (R343): the slot whose header names the generation and package and counts the slots before
it. -/
def State.manifestSlot (s : State) (asid : Nat) (e : ChainEntry) : Nat → Nat → Option Nat
  | 0, _ => none
  | f + 1, i =>
    let d := s.slotDbl asid e.base i 0
    if !s.readable asid (e.base + slotBytes * i) 48 then none
    else if dbits d 31 0 = e.gen ∧ dbits d 41 32 = e.pkg ∧ (s.slotDbl asid e.base i 8).toNat = i then some i
    else s.manifestSlot asid e f (i + 1)

/-- The most granules that a package can have. -/
def granuleMax : Nat := memEnd / 65536

/-- A manifest as read from storage: its slot, COUNT, RECLEN, LOGLEN, FULL. -/
structure Manifest where
  entry : ChainEntry
  slot : Nat
  count : Nat
  reclen : Nat
  loglen : Nat
  full : Bool
  deriving DecidableEq, Repr

def State.manifest? (s : State) (asid : Nat) (e : ChainEntry) : Option Manifest :=
  (s.manifestSlot asid e (granuleMax + 1) 0).map fun i =>
    { entry := e, slot := i, count := (s.slotDbl asid e.base i 8).toNat, reclen := (s.slotDbl asid e.base i 16).toNat,
      loglen := (s.slotDbl asid e.base i 24).toNat, full := (s.slotDbl asid e.base i 0).getLsbD 42 }

/-- Whether a manifest's ROOT holds (R344). -/
def State.rootOk (s : State) (asid : Nat) (m : Manifest) : Bool :=
  let rd (pos n : Nat) : List Byte := s.streamBytes asid m.entry.base m.slot pos n
  rd 48 32 == digest (rd 0 48 ++ rd 128 (48 * m.count + m.reclen + m.loglen))

/-- Position of a granule in a manifest. -/
def State.listed? (s : State) (asid : Nat) (m : Manifest) (va : Nat) : Option Nat :=
  (upto m.count).find? fun i => leNat (s.streamBytes asid m.entry.base m.slot (128 + 48 * i) 8) = va

/-- The manifests of a package up to a generation, newest first. -/
def State.manifestsOf (s : State) (asid pkg gen : Nat) (chain : List ChainEntry) : List Manifest :=
  let es := chain.filter fun e => e.pkg == pkg && e.gen ≤ gen
  (sortBy (fun e => gen - e.gen) es).filterMap (s.manifest? asid)

/-- Whether the whole stream of a manifest, its records and its log can be read from its slots. -/
def State.manifestReads (s : State) (asid : Nat) (m : Manifest) : Bool :=
  let n := 128 + 48 * m.count + m.reclen + m.loglen
  (upto ((n + 65535) / 65536)).all fun j => s.readable asid (m.entry.base + slotBytes * (m.slot + j)) (min 65536 (n - 65536 * j))

/-- Status 4 (R351). -/
def State.chainShort (s : State) (asid gen va : Nat) : Bool :=
  let chain := s.chainAt asid va
  !s.readable asid va (16 * max 1 chain.length) ||
    (chain.any fun e => match s.manifest? asid e with | some m => !s.manifestReads asid m | none => true) ||
    (upto (s.job asid).pkgs).any fun q => !((s.manifestsOf asid q gen chain).any (·.full))

/-! The stop. -/

/-- The parties of a job. -/
def State.jobParties (s : State) (asid : Nat) : List Nat :=
  (tkeys s.parties).filter fun p => (s.launch (s.party p).launch).asid.toNat == asid && (s.party p).launch != 0

/-- A party is ended without a record. -/
def State.dismiss (s : State) (p : Nat) : State :=
  (s.removeParty p).modParty p fun x => { x with
    st := .ended, coaches := [], held := [], replay := [], tile := none, beyond := [], arrays := [], slot := none }

/-- Step 1 of R352: a generation in progress is aborted; the parties of the job end, and everything of theirs is discarded.
Launches end without DONE. -/
def State.stopJob (s : State) (asid : Nat) : State :=
  let s := s.abortGen asid 5
  let ps := s.jobParties asid
  let ls := s.openLaunches asid
  let s := ps.foldl State.dismiss s
  let s := { s with
    ops := s.ops.filter fun o => !ps.contains o.party, commits := s.commits.filter fun c => !ps.contains c.party,
    cores := s.cores.map fun e => (e.1, { e.2 with courier := e.2.courier.filter fun m => !ps.contains m.party }) }
  ls.foldl (fun s l => s.modLaunch l fun x => { x with fin := true, pools := [] }) s

/-- A rollback begins on this package: the job stops, and a notice leaves on every UALink port of the job. Notices between
dies of the package stand in the stop itself. -/
def State.startRollback (s : State) (asid gen : Nat) (block : Place) (here : Bool) : State :=
  let s := s.stopJob asid
  let s := s.modSnap asid fun n =>
    { n with
      state := 5, cause := 0, rollback := true, rollGen := gen, rollBlock := block, rollHere := here, ending := none, stage := .off,
      cuts := n.cuts.map fun e => (e.1, { e.2 with notices := [] }) }
  let n := (s.job asid).snap
  let pk (die : Nat) : LinkBody :=
    .packet (dnat (4 + 256 * die + 65536 * (s.job asid).pkg + 2 ^ 32 * (s.job asid).tag)) (dnat (gen % 2 ^ 32 + 2 ^ 32 * bnat n.full))
      (dnat n.scb) (dnat (s.cutOf asid die).tick)
  (s.sendPorts asid 8 (pk 8)).sendPorts asid 9 (pk 9)

/-! Restore. -/

/-- The content that storage gives for a granule: none if no manifest lists it; its address, and a Bool that says whether it matches
its entry. -/
def State.stored? (s : State) (asid va : Nat) (enc : Bool) (key : Nat) (ms : List Manifest) : Option (List Byte × Nat × Bool) :=
  match ms.findSome? fun m => (s.listed? asid m va).map fun i => (m, i) with
  | none => none
  | some (m, i) =>
    let at' := m.entry.base + slotBytes * i
    let body := s.plainRead (s.jobPlace asid at') 65536
    let want := s.streamBytes asid m.entry.base m.slot (128 + 48 * i + 16) 32
    let sealed := (s.streamBytes asid m.entry.base m.slot (128 + 48 * i + 8) 1) == [1]
    let ok := digest body == want
    if sealed && enc then
      let tag := s.plainRead (s.jobPlace asid (m.entry.base + slotBytes * i + 65536)) 16
      let k := (sget KeySlot.blank s.keys key).key
      match Config.gcmOpen k (leBytes m.entry.gen 4 ++ leBytes va 8) body tag with
      | some plain => some (plain, at', ok)
      | none => some (body, at', false)
    else some (body, at', ok)

/-- A granule's content as a rollback restores it (step 2 of R352), with the address that it is read from: none if it stays as it is; 1
and 2 are outcomes. -/
def State.restoreOf (s : State) (asid gen : Nat) (store : Bool) (ms : List Manifest) (next : Option Manifest)
    (e : Nat × Nat × Bool × Nat) : Except Nat (Option (List Byte × Nat)) :=
  let (va, g, enc, key) := e
  let r := s.granule asid g
  let fromStore : Except Nat (Option (List Byte × Nat)) :=
    match s.stored? asid va enc key ms with
    | some (b, v, true) => .ok (some (b, v))
    | some (_, _, false) => .error 1
    | none => .error 2
  let later := (s.job asid).snap.gen == gen + 1 && (match next with
    | some m => (s.listed? asid m va).isSome
    | none => false)
  if store || later then fromStore
  else match r.c with
    | .held f =>
      let v := (nth (s.job asid).snap.entry 4 0).toNat + 65536 * f
      .ok (some (s.plainRead (s.jobPlace asid v) 65536, v))
    | .released => fromStore
    | .armed => if r.d then fromStore else .ok none

/-- The granules of a job restored one after another, or the outcome that ends the rollback. -/
def State.restoreAll (s : State) (asid gen : Nat) (store : Bool) (ms : List Manifest) (next : Option Manifest) :
    List (Nat × Nat × Bool × Nat) → State → Except Nat State
  | [], t => .ok t
  | e :: es, t =>
    match s.restoreOf asid gen store ms next e with
    | .error n => .error n
    | .ok none => s.restoreAll asid gen store ms next es t
    | .ok (some (b, v)) =>
      let t := t.noteAgent asid v 65536 false
      let t := { t with mem := msets t.mem (e.2.1 * 65536) b }.markDirty (t.slotOf asid e.2.2.1) (e.2.1 * 65536) 65536
      s.restoreAll asid gen store ms next es (t.unpoison (e.2.1 * 65536) 65536)

/-- The granules as after the cut of the restored generation: armed, and not written since. -/
def State.rearm (s : State) (asid : Nat) (es : List (Nat × Nat × Bool × Nat)) : State :=
  es.foldl (fun s e => s.putGranule e.2.1
    { asid := BitVec.ofNat 16 asid, d := false, p := false, c := .armed, cut := sget 0 (s.job asid).cuts (homeDie (e.2.1 * 65536)) }) s

/-- Lines of the job are dropped from every L1, instruction cache and L2: the copies that cores hold of its granules, and what L2 holds, which is
written back first. -/
def State.dropLines (s : State) (es : List (Nat × Nat × Bool × Nat)) : State :=
  let mine (pa : Nat) : Bool := es.any fun e => e.2.1 == pa / 65536
  let s := ((s.l2.filter fun e => mine (128 * e.1)).map (·.1)).foldl State.leaveLine s
  let s := (upto 8).foldl (fun s d =>
    ((s.die d).icache.filter fun l => mine (128 * l.pline)).foldl (fun s l => s.dropDLine d l.pline) s) s
  { s with
    cores := s.cores.map fun e => (e.1, { e.2 with l1 := e.2.l1.filter fun w => !mine (4 * w.1) }),
    owner := s.owner.filter fun e => !mine (4 * e.1) }

/-! Replay. -/

/-- The place that the address of a log record names: in the peer package for a record that was logged on its way there, else through this
package's context (R345, R352). -/
def State.logPlace (s : State) (asid va : Nat) : Place :=
  match (s.job asid).snap.away.find? fun e => e.1 == va / 65536 with
  | some e => .peer e.2.1 (e.2.2 * 65536 + va % 65536)
  | none => s.jobPlace asid va

/-- A logged record applied to its home again (step 3 of R352), that of an item for a peer at the peer; what follows it. -/
def State.replayOne (s : State) (asid : Nat) (bs : List Byte) : State × List Byte :=
  let d (i : Nat) : Nat := leNat ((bs.drop (8 * i)).take 8)
  let va := d 1
  if d 0 % 256 = 1 then
    let mask := d 2 + 2 ^ 64 * d 3
    let data := (bs.drop 32).take 128
    let one (s : State) (i : Nat) : State := s.sharedWrite asid (s.logPlace asid (va + i)) (va + i) [nth data i 0]
    ((upto 128).foldl (fun s i => if mask.testBit i then one s i else s) s, bs.drop 160)
  else match s.logPlace asid va with
  | .peer _ pa =>
    ((s.sendItem asid (s.epochOf asid 8) [] (fun _ => []) (.atomic (2 ^ 80) (d 0 / 256 % 256) [(pa, BitVec.ofNat 32 (d 2), BitVec.ofNat 32 (d 3))])).1,
      bs.drop 32)
  | p =>
    let m : Word := BitVec.ofNat 32 (leNat (s.plainRead p 4))
    (s.sharedWrite asid p va (leBytes (atomOp (d 0 / 256 % 256) m (BitVec.ofNat 32 (d 2)) (BitVec.ofNat 32 (d 3))).toNat 4), bs.drop 32)

/-- A log applied in order; the fuel is its length. -/
def State.replayLog (s : State) (asid : Nat) : Nat → List Byte → State
  | 0, _ => s
  | _, [] => s
  | f + 1, bs =>
    let (t, r) := s.replayOne asid bs
    t.replayLog asid f r

/-! Relaunch. -/

/-- The parts of a launch's records (R346): head doubles, tiles, party entries; what follows. -/
def splitRecords (ds : List Dbl) : (List Dbl × List Nat × List (List Dbl)) × List Dbl :=
  let n := (nth ds 20 0).toNat
  let m := (nth ds 21 0).toNat
  let rest := ds.drop 32
  let tiles := (rest.take n).map (·.toNat)
  let rest := rest.drop (roundUp n 4)
  ((ds.take 32, tiles, chunks 8 (rest.take (8 * m))), rest.drop (8 * m))

/-- A party as its record leaves it (step 4 of R352). -/
def recordedParty (p : Party) (e : List Dbl) : Party :=
  { p with
    token := nth e 2 0, replay := if tbit (nth e 3 0).toNat 63 then [dbits (nth e 3 0) 31 0] else [],
    skip := (nth e 4 0).toNat, past := (nth e 4 0).toNat, ssteps := (nth e 4 0).toNat, relaunches := (nth e 5 0).toNat }

/-- The first unplaced party of die j in a launch entry. -/
def nextOf (head : List Dbl) (j : Nat) : Dbl := if j = 0 then nth head 18 0 else nth head (21 + j) 0

/-- Whether coordinates are at or after an s2 image in the Ostler's order. -/
def atOrAfter (d c : Nat) (img : Dbl) : Bool :=
  img != BitVec.allOnes 64 && (dbits img 63 32 < d || (dbits img 63 32 == d && dbits img 31 0 ≤ c))

/-- A launch is re-created from its records: recorded parties are pending with what their records hold, unplaced ones stay
pending, the others have ended. Its replay tiles go to the first of its dies that has a party still to run (log 89). -/
def State.recreate (s : State) (asid : Nat) (r : List Dbl × List Nat × List (List Dbl)) : State :=
  let (head, tiles, es) := r
  let d := head.take 16
  let l := (nth head 16 0).toNat
  let kn := (s.kernelAt asid (nth d 1 0).toNat).getD (s.launch l).kernel
  let ps := newParties l s.nextId s.tick kn d
  let faulted := dbits (nth head 19 0) 63 32
  let mk (acc : List (Nat × Party) × Nat) (q : Nat × Party) : List (Nat × Party) × Nat :=
    match es.find? fun e => nth e 1 0 == s2Image q.2.d q.2.c with
    | some e => (acc.1 ++ [(q.1, recordedParty q.2 e)], acc.2)
    | none =>
      if atOrAfter q.2.d q.2.c (nextOf head q.2.die) then (acc.1 ++ [q], acc.2)
      else (acc.1 ++ [(q.1, { q.2 with st := .ended, faulted := decide (acc.2 < faulted) })], acc.2 + 1)
  let (out, ended) := ps.foldl mk ([], 0)
  let open_ (die : Nat) : Bool := out.any fun e => e.2.die == die && e.2.st != .ended
  let die0 := ((diesOf d).find? open_).getD ((diesOf d).headD 0)
  let new : Launch :=
    { doubles := d, kernel := kn, asid := BitVec.ofNat 16 asid, key := BitVec.ofNat 8 (dbits (nth d 14 0) 23 16),
      parties := out.map (·.1), ended := ended, faults := faulted, nextTile := (nth head 17 0).toNat,
      pools := sset [] [] die0 tiles, slots := upto (dbits (nth d 7 0) 47 32), accepted := s.tick, fin := false }
  out.foldl (fun s e => s.putParty e.1 e.2) ({ s with nextId := s.nextId + ps.length }.putLaunch l new)

/-- Every launch of a records section; the fuel is its length. -/
def State.recreateAll (s : State) (asid : Nat) : Nat → List Dbl → State
  | 0, _ => s
  | _, [] => s
  | f + 1, ds =>
    let (r, rest) := splitRecords ds
    (s.recreate asid r).recreateAll asid f rest

/-! Resume. -/

/-- The end of a rollback with an outcome: DONE where this package was given the block. A rollback that fails leaves the job
stopped. -/
def State.endRollback (s : State) (asid outcome : Nat) : State :=
  let n := (s.job asid).snap
  let s := if n.rollHere then
      s.agentShared asid (n.rollBlock.plus 0x18) 0 (leBytes (n.rollGen % 2 ^ 32 + 2 ^ 32 + 2 ^ 40 * outcome) 8)
    else s
  s.modSnap asid fun n => { n with
    state := 3, cause := 0, cross := false, crossed := false, asked := false, gen := n.rollGen, rollback := false, ending := none, cuts := [],
    stopped := outcome != 0 }

/-- This package has done its part of a rollback: the job goes on when every package has (R352). -/
def State.partDone (s : State) (asid outcome : Nat) : State :=
  if (s.job asid).pkgs ≤ 1 then s.endRollback asid outcome else s.modSnap asid fun n => { n with ending := some outcome }

/-- The packages of a job have all done their parts: when, and whether another's failed, is free, for no packet of R335 says it (logs 1
and 89). -/
def State.rollbacksEnd (s : State) : State :=
  (tkeys s.jobs).foldl (fun s a => match (s.job a).snap.ending with
    | some n => if s.pick (9940 + a) 64 = 1 then s.endRollback a (if n = 0 then s.pick (75500 + a) 3 else n) else s
    | none => s) s

/-- Steps 2 to 5 of R352 on this package, once every die has had its notices. -/
def State.finishRollback (s : State) (asid : Nat) : State :=
  let j := s.job asid
  let n := j.snap
  let rd (off : Nat) : Dbl := BitVec.ofNat 64 (leNat (s.plainRead (n.rollBlock.plus off) 8))
  let chain := s.chainAt asid (rd 0x10).toNat
  let gen := n.rollGen
  let ms := s.manifestsOf asid j.pkg gen chain
  let next := (chain.find? fun e => e.pkg == j.pkg && e.gen == gen + 1).bind (s.manifest? asid)
  let es := sortBy (fun e => e.1) (s.jobGranules asid)
  let s := (s.noteAgent asid (rd 0x10).toNat (16 * chain.length) false)
  let s := ms.foldl (fun s m => s.noteStream asid m.entry.base m.slot (128 + 48 * m.count + m.reclen + m.loglen)) s
  if !ms.all (s.rootOk asid) then s.partDone asid 1
  else
    match ms.find? fun m => m.entry.gen == gen with
    | none => s.partDone asid 2
    | some m =>
      match s.restoreAll asid gen ((rd 8).getLsbD 32) ms next es s with
      | .error o => s.partDone asid o
      | .ok t =>
        let recs := dblsOfBytes (s.streamBytes asid m.entry.base m.slot (128 + 48 * m.count) m.reclen)
        let log := s.streamBytes asid m.entry.base m.slot (128 + 48 * m.count + m.reclen) m.loglen
        let t := ((t.dropLines es).rearm asid es).replayLog asid log.length log
        (t.recreateAll asid recs.length recs).partDone asid 0

/-- Whether a die has had a notice on every incoming link that is up. -/
def State.noticed (s : State) (asid die : Nat) : Bool :=
  (s.jobLinksIn asid die).all fun l => (s.cutOf asid die).notices.contains l

/-- A notice reaches a die. -/
def State.takeNotice (s : State) (asid die link : Nat) : State :=
  let had := (s.cutOf asid die).notices.contains link
  let s := s.modCut asid die fun c => if had then c else { c with notices := c.notices ++ [link] }
  if !had && (upto 10).all (s.noticed asid) then s.finishRollback asid else s

/-- ROLLBACK_NOTICE (R352): between dies of the package, or from a peer, whose first notice starts the rollback here. Where this package
finds its rollback block no notice says: a free value (logs 1 and 89). -/
def execRollbackNotice (link : Nat) (o : LinkItem) (s : State) : Out :=
  if 1000 ≤ link then
    let b := linkEnd link
    if (s.job o.asid).snap.rollback && isDieLink link && s.linkUp link && !(s.cutOf o.asid b).notices.contains link then
      .next (s.takeNotice o.asid b link)
    else .next s
  else
    match o.body with
    | .packet d0 d1 _ _ =>
      match s.jobOfTag (pkTag d0) with
      | none => .next s
      | some a =>
        if 16 ≤ link ∨ !s.linkUp link ∨ !(s.job a).ports.getLsbD link then .next s
        else if pkKind d0 ≠ 4 then .next (s.taken (.rollbackNotice link o))
        else
          let s := s.taken (.rollbackNotice link o)
          let s := if (s.job a).snap.rollback then s
            else s.startRollback a (pkGen d1) (s.jobPlace a ((Config.freeDbl s.freeCtr 5300).toNat % 2 ^ 57)) false
          .next (s.takeNotice a (portDie link) link).tickFree
    | _ => .next s

/-! ROLLIN. -/

/-- ROLLIN (R351). -/
def execRollin (o : CMem) (s : State) : Out :=
  onCoach s fun k c =>
    if s.active c o.g = 0 then .next (s.putCoach k (c.sclSkip s.cur.seq))
    else if !c.priv then raise s k (privTrap 3)
    else
      let off := (s.rdS c o.b).toNat
      if off % 32 ≠ 0 then raise s k (illegal 3 4 51)
      else
        withChk s k (checkOne s c o.h off 32 1#4) (
          let h := s.readH c o.h
          issueScalarOp s k c o.d o.f (.rollin (c.cDest o.d)) [s.recordPart h off 32])

/-- The status of a rollback block (R351). -/
def State.rollStatus (s : State) (d : List Dbl) : Nat :=
  let x (i : Nat) : Dbl := nth d i 0
  let asid := dbits (x 0) 15 0
  let j := s.job asid
  if dbits (x 0) 63 16 ≠ 0 ∨ dbits (x 1) 63 33 ≠ 0 ∨ dbits (x 2) 63 48 ≠ 0 ∨ (j.present ∧ s.chainReserved asid (x 2).toNat) then 1
  else if !j.present then 3
  else if j.snap.rollback then 5
  else if !j.snap.done ∨ dbits (x 1) 31 0 ≠ j.snap.latest then 2
  else if s.chainShort asid (dbits (x 1) 31 0) (x 2).toNat then 4
  else 0

/-- A rollback block that has been read: the status, and the rollback (R351). -/
def State.decideRollin (s : State) (o : Op) (d : Nat) : State :=
  let ds := dblsOfBytes (o.parts.flatMap (·.got))
  let st := s.rollStatus ds
  let s := s.finishScalar o d (dnat st)
  if st ≠ 0 then s
  else
    match o.parts with
    | p :: _ => s.startRollback (dbits (nth ds 0 0) 15 0) (dbits (nth ds 1 0) 31 0) p.place true
    | [] => s

end Sys2Proof.Machine
end

