-- ==== Sys2Proof/Machine/Tcq.lean ====
section
/-! DEFINITION. The translation command queue: its header and commands (R200, R201), invalidation points (R202), completion
(R203), Drover suspension (R315), the effect on host pages (R207) and on instruction caches (R91). -/

namespace Sys2Proof.Machine

/-! The queue. -/

/-- A header of R200 is valid. -/
def queueHeaderOk (base cap : Dbl) : Bool := base.toNat % 64 == 0 && ringCapOk cap.toNat

/-- What a queue of R200 offers: nothing, a malformed header with its BASE and CAP, or the slot address of a command. -/
inductive QueueHead where
  | nothing
  | malformed (base cap : Nat)
  | command (slot cons : Nat)
  deriving DecidableEq, Repr

def State.queueHead (s : State) (hdr : Nat) : QueueHead :=
  let base := s.sysDbl hdr
  let cap := s.sysDbl (hdr + 8)
  let prod := dbits (s.sysDbl (hdr + 16)) 31 0
  let cons := dbits (s.sysDbl (hdr + 24)) 31 0
  if hdr = 0 then .nothing
  else if !queueHeaderOk base cap then .malformed base.toNat cap.toNat
  else if prod = cons then .nothing
  else .command (base.toNat + 64 * (cons % cap.toNat)) cons

def TcqCmd.kind (c : TcqCmd) : Nat := dbits (nth c.ds 0 0) 7 0
def TcqCmd.asid (c : TcqCmd) : Nat := dbits (nth c.ds 0 0) 31 16
def TcqCmd.seqNo (c : TcqCmd) : Nat := dbits (nth c.ds 0 0) 63 32
def TcqCmd.arg (c : TcqCmd) (i : Nat) : Dbl := nth c.ds i 0

/-- The range of a revocation: first address, and the address after the last. -/
def TcqCmd.lo (c : TcqCmd) : Nat := if c.kind = 5 then 0 else (c.arg 1).toNat
def TcqCmd.hi (c : TcqCmd) : Nat := if c.kind = 5 then 2 ^ 57 else (c.arg 1).toNat + (c.arg 2).toNat

/-- How many doubles a command of a kind uses (R201). -/
def tcqUsed (kind : Nat) : Nat :=
  match kind with
  | 1 => 5
  | 2 => 3
  | 3 => 3
  | 4 => 2
  | _ => 1

/-- Whether a command breaks R200, R201 or R209 in itself. -/
def tcqMalformed (c : TcqCmd) : Bool :=
  c.kind == 0 || 5 < c.kind || dbits (c.arg 0) 15 8 != 0 || (c.ds.drop (tcqUsed c.kind)).any (· != 0) ||
    ((c.kind == 2 || c.kind == 3) && (dbits (c.arg 1) 11 0 != 0 || dbits (c.arg 2) 11 0 != 0)) ||
    (c.kind == 1 && (dbits (c.arg 2) 63 48 != 0 || dbits (c.arg 2) 19 0 != 0 || dbits (c.arg 2) 47 40 == 0)) ||
    (c.kind == 4 && dbits (c.arg 1) 63 17 != 0)

/-- The command at a slot. -/
def State.readCommand (s : State) (slot : Nat) (refused : TcqCmd → Bool) : TcqCmd :=
  let c : TcqCmd :=
    { ds := (upto 8).map fun i => s.sysDbl (slot + 8 * i), passed := [], awaitOps := [], refused := false, done := false,
      host := false }
  { c with refused := refused c, done := refused c }

/-- What reading a queue's header, and the command that it offers, leaves. -/
def State.noteHead (s : State) (hdr : Nat) : State :=
  if hdr = 0 then s
  else
    let t := s.noteSys hdr 32
    match s.queueHead hdr with
    | .command slot _ => t.noteSys slot 64
    | _ => t

/-- TCQ_TAKE (R200): the coordinator takes the next command, or reports a malformed header once. -/
def execTcqTake (s : State) : Out :=
  if s.tcq.isSome || s.cfg.st < 2 then .next s
  else
    let s := s.noteHead s.cfg.tcq
    match s.queueHead s.cfg.tcq with
    | .nothing => .next { s with tcqBad := none }
    | .malformed b n =>
      if s.tcqBad = some (b, n) then .next s
      else .next ({ s with tcqBad := some (b, n) }.errLog 12 7 s.cfg.tcq 0 0 0 0 s.cfg.tcq)
    | .command slot cons =>
      let c := s.readCommand slot fun c => tcqMalformed c || (c.kind != 1 && !(s.job c.asid).present)
      .next ({ s with tcqBad := none, tcq := some c }.sysWrite (s.cfg.tcq + 24) [dnat ((cons + 1) % 2 ^ 32)])

/-! CONTEXT and PRESP. -/

/-- Entry i of the job table, if it is well formed (R381): ASID, tag and number; package count; port mask; reserved. -/
def State.jobEntryAt? (s : State) (i : Nat) : Option (List Dbl) :=
  let e := (upto 4).map fun j => s.sysDbl (s.cfg.jobtab + 32 * i + 8 * j)
  let d (j : Nat) : Dbl := nth e j 0
  if s.cfg.jobtab != 0 && dbits (d 0) 63 58 == 0 && decide (1 ≤ (d 1).toNat) && decide ((d 1).toNat ≤ 1024) &&
      dbits (d 2) 63 16 == 0 && d 3 == 0 then some e else none

/-- The job table entry of an ASID with its index. -/
def State.jobEntry? (s : State) (asid : Nat) : Option (Nat × List Dbl) :=
  (upto 64).findSome? fun i => match s.jobEntryAt? i with
    | some e => if dbits (nth e 0 0) 15 0 = asid then some (i, e) else none
    | none => none

/-- CONTEXT (R201, R381, R385): the job's context is created or replaced from the command and the job table. No rule refuses a root that is not
aligned: it is taken as given (log 31). -/
def execContext (s : State) : Out :=
  match s.tcq with
  | none => .next s
  | some c =>
    if c.kind ≠ 1 || c.done then .next s
    else
      let s := s.noteSys s.cfg.jobtab 2048
      match s.jobEntry? c.asid with
      | none => .next { s with tcq := some { c with refused := true, done := true } }
      | some (i, e) =>
        let d (j : Nat) : Dbl := nth e j 0
        let j := s.job c.asid
        .next ({ s with tcq := some { c with done := true } }.putJob c.asid { j with
          present := true, root := (c.arg 1).toNat, key := BitVec.ofNat 8 (dbits (c.arg 2) 47 40), pasid := dbits (c.arg 2) 39 20,
          notifq := (c.arg 3).toNat, pageq := (c.arg 4).toNat, tag := dbits (d 0) 47 16, pkg := dbits (d 0) 57 48,
          pkgs := (d 1).toNat, ports := (d 2).setWidth 16, index := i, meas := List.replicate 32 0 })

/-- PRESP (R197, R201): the device-half request of the tag is answered, granted or refused. Where the job has none outstanding of that tag the
command completes without effect (log 31). -/
def execPresp (s : State) : Out :=
  match s.tcq with
  | none => .next s
  | some c =>
    if c.kind ≠ 4 || c.done then .next s
    else
      let s1 := { s with tcq := some { c with done := true } }
      match s1.pageReqs.find? fun r => r.tag == dbits (c.arg 1) 15 0 && !r.host && r.asid.toNat == c.asid with
      | none => .next s1
      | some r => .next (s1.answerRequest r)

/-! Invalidation points (R202). -/

/-- Whether a handle describes a page that a range touches. -/
def Handle.hit (asid lo hi : Nat) (h : Handle) : Bool :=
  (h.st == .valid || h.st == .absent || h.st == .poisoned) && h.asid.toNat == asid && decide (h.vbase.toNat < hi) &&
    decide (lo < h.vbase.toNat + pageBytes h.size)

/-- A handle register at the point: emptied, or write-blocked by WBSET. -/
def Handle.revoke (asid lo hi : Nat) (drop : Bool) (h : Handle) : Handle :=
  if h.hit asid lo hi then
    (if drop then Handle.blank else if h.st = .valid then { h with wb := true } else h)
  else h

/-- XLATE results that land after the point come to land pending, their walks made anew: the results and the walks. -/
def revokeLandings (k asid lo hi : Nat) : List Landing → State → List Landing × State
  | [], s => ([], s)
  | f :: fs, s =>
    match f.w with
    | .hnd n h =>
      if h.hit asid lo hi then
        let (id, s1) := s.freshId
        let w : Walk := { id := id, coach := k, h := n, va := BitVec.ofNat 57 h.walk, mask := h.mask, asid := h.asid }
        let (r, s2) := revokeLandings k asid lo hi fs { s1 with walks := s1.walks ++ [w] }
        ({ f with w := .hnd n (pendingImage h.walk h.asid id) } :: r, s2)
      else
        let (r, s1) := revokeLandings k asid lo hi fs s
        (f :: r, s1)
    | _ =>
      let (r, s1) := revokeLandings k asid lo hi fs s
      (f :: r, s1)

/-- Where the frame of a valid handle lies, as a range of place keys. -/
def State.frameOf (s : State) (h : Handle) : Nat × Nat := ((s.handlePlace h 0).key, pageBytes h.size)

/-- The frames that a core knows for pages of a range, from its handles and its translation cache. -/
def State.framesAt (s : State) (core asid lo hi : Nat) : List (Nat × Nat) :=
  let own := s.coaches.flatMap fun e => if coreOf e.1 = core then e.2.h.map (·.2) else []
  ((own ++ (s.core core).tcache).filter fun h => h.st == .valid && h.hit asid lo hi).map s.frameOf

/-- A coach at the point: its monitor is lost if the page that it was armed on meets the range, whatever its handle register holds now. -/
def State.revokeCoach (s : State) (k asid lo hi : Nat) (drop : Bool) : State :=
  let c := s.coach k
  let lost := drop && (match c.mon with
    | .armed _ _ _ => decide (c.monPage.1 < hi) && decide (lo < c.monPage.1 + c.monPage.2)
    | _ => false)
  let (fl, s1) := revokeLandings k asid lo hi c.inflight s
  let (ts, s2) := revokeLandings k asid lo hi c.trapset s1
  let s3 := if lost then s2.disarm k else s2
  s3.putCoach k { c with
    h := (upto 16).foldl (fun t n => sset Handle.blank t n ((sget Handle.blank t n).revoke asid lo hi drop)) c.h,
    inflight := fl, trapset := ts, mon := if lost then .lost else c.mon }

/-- A running walk through a matching handle is suspended (R315). -/
def Drover.revoke (d : Drover) (asid lo hi : Nat) : Drover :=
  let ns := ([6, 7, 8].filter fun st => (sget Handle.blank d.hs st).hit asid lo hi).map (streamHnd d.active)
  match d.st, least? ns with
  | .running, some n => { d with st := .suspended, shnd := n }
  | _, _ => d

/-- Whether the page of a size that an access went through meets a range (R202). -/
def pageMeets (lo hi va page : Nat) : Bool := va / page * page < hi && lo < va / page * page + page

/-- Whether a part goes through a page that meets a range. -/
def Part.through (p : Part) (lo hi : Nat) : Bool :=
  (match p.place with
    | .sram _ _ => false
    | .nowhere => false
    | _ => true) && pageMeets lo hi p.va p.page

/-- Whether an operation still accesses memory through a matching handle. -/
def Op.uses (o : Op) (lo hi : Nat) : Bool := o.parts.any fun p => p.open && p.through lo hi

def Side.hit (asid lo hi : Nat) : Side → Bool
  | .box _ _ h => h.hit asid lo hi
  | _ => false

/-- Whether a party holds uncommitted stores into a matching page: bytes, stores on their way to being held, and Courier writes
(R203, R260). -/
def State.holdsIn (s : State) (p asid lo hi : Nat) : Bool :=
  let x := s.party p
  (s.launch x.launch).asid.toNat == asid &&
    (x.held.any (fun h => pageMeets lo hi h.va h.page) ||
      s.ops.any (fun o => o.party == p && o.held && o.parts.any fun r => r.through lo hi) ||
      (s.core x.core).courier.any fun m => m.party == p && m.held && m.dst.hit asid lo hi)

/-- What must be performed at its homes before the command completes: operations, commits, Courier commands and Drover beats
of a core, by number (R203, R260, R315). -/
def State.pointAwaits (s : State) (core asid lo hi : Nat) : List Nat :=
  ((s.ops.filter fun o => coreOf o.coach == core && o.asid.toNat == asid && o.uses lo hi).map (·.id)) ++
    ((s.commits.filter fun c => (s.party c.party).core == core && c.asid.toNat == asid &&
      c.bytes.any fun b => pageMeets lo hi b.va b.page).map (·.id)) ++
    (((s.core core).courier.filter fun m => m.asid.toNat == asid && (m.src.hit asid lo hi || m.dst.hit asid lo hi)).map (·.id)) ++
    ((upto 4).flatMap fun i =>
      let d := (s.wing (4 * core + i)).drover
      ((d.sa ++ d.q0 ++ d.q1).filter fun b => !b.here && (s.coach b.coach).asid.toNat == asid && 1 < b.page && pageMeets lo hi b.va b.page).map (·.id))

/-- The host-page entries of a range (R202, R207): WBSET marks every page; INVAL and RELEASE clear WB and the counts. -/
def State.revokeHostPages (s : State) (asid lo hi : Nat) (drop : Bool) : State :=
  if drop then
    { s with hostPages := (s.hostPages.map fun e =>
        if hostPageKey asid (lo / 4096) ≤ e.1 && e.1 < hostPageKey asid ((min hi (2 ^ 56) + 4095) / 4096) then
          (e.1, { e.2 with count := 0, wb := false }) else e).filter fun e => e.2 != HostPage.blank }
  else
    (upto ((min hi (2 ^ 56) + 4095) / 4096 - lo / 4096)).foldl (fun s i =>
      s.putHostPage asid (lo / 4096 + i) { s.hostPage asid (lo / 4096 + i) with wb := true }) s

/-- The invalidation point of a command at a core (R202, R205). -/
def State.point (s : State) (c : TcqCmd) (core : Nat) : State :=
  let asid := c.asid
  let (lo, hi) := (c.lo, c.hi)
  let drop := c.kind != 3
  let frames := s.framesAt core asid lo hi
  let s := if c.passed.isEmpty then s.revokeHostPages asid lo hi drop else s
  let s := (tkeys s.parties).foldl (fun s p =>
    let x := s.party p
    if x.core == core && x.st != .ended && x.st != .pending && s.holdsIn p asid lo hi then s.commitHard p else s) s
  let waits := s.pointAwaits core asid lo hi
  let s := (tkeys s.coaches).foldl (fun s k =>
    if coreOf k == core && (s.coach k).present && (s.coach k).asid.toNat == asid then s.revokeCoach k asid lo hi drop
    else s) s
  let s := s.modCore core fun x => { x with
    tcache := x.tcache.filter fun h => !h.hit asid lo hi,
    l1 := if drop then x.l1.filter fun e => !(e.2.asid.toNat == asid && e.2.base < hi && lo < e.2.base + e.2.page) &&
        !frames.any fun f => f.1 / 4 ≤ e.1 && e.1 < (f.1 + f.2) / 4
      else x.l1,
    icache := if drop then x.icache.filter fun l => !(l.asid.toNat == asid && pageMeets lo hi (l.vline * 128) l.page)
      else x.icache }
  let s := s.modDie (dieOfCore core) fun d => { d with
    tables := d.tables.filter fun e => !(e.asid == asid && e.range.1 < hi && lo < e.range.2) }
  let s := if drop then (upto 4).foldl (fun s i => s.modWing (4 * core + i) fun w =>
      { w with drover := w.drover.revoke asid lo hi }) s else s
  { s with tcq := some { c with passed := c.passed ++ [core], awaitOps := c.awaitOps ++ waits } }

/-- The cores of a package: 512, and a steward core for each compute die. -/
def coreCount : Nat := 520

/-- A command of a kind reaches a core. -/
def pointOf (kind core : Nat) (s : State) : Out :=
  match s.tcq with
  | none => .next s
  | some c =>
    if c.kind != kind || c.done || decide (coreCount ≤ core) || c.passed.contains core || (s.die (dieOfCore core)).gated then .next s
    else .next (s.point c core)

/-- INVAL (R202). -/
def execInval (core : Nat) (s : State) : Out := pointOf 2 core s
/-- WBSET (R202). -/
def execWbset (core : Nat) (s : State) : Out := pointOf 3 core s
/-- RELEASE (R202). -/
def execRelease (core : Nat) (s : State) : Out := pointOf 5 core s

/-- Whether one of some numbers still names something outstanding. -/
def State.stillWaits (s : State) (ids : List Nat) : Bool :=
  s.ops.any (fun o => ids.contains o.id && o.parts.any (·.open)) || s.commits.any (fun c => ids.contains c.id) ||
    s.cores.any (fun e => e.2.courier.any fun m => ids.contains m.id) ||
    s.wings.any fun e => (e.2.drover.sa ++ e.2.drover.q0 ++ e.2.drover.q1).any fun b => !b.here && ids.contains b.id

/-- The key slots bound to an ASID are cleared (R386). -/
def State.clearKeys (s : State) (asid : Nat) : State := { s with keys := s.keys.filter fun e => e.2.asid.toNat != asid }

/-- TCQ_COMMAND_COMPLETE (R200, R201, R203): DONE, or the completion of a host invalidation. RELEASE ends the context. -/
def execTcqCommandComplete (s : State) : Out :=
  match s.tcq with
  | none => .next s
  | some c =>
    if !(c.done || ((c.kind == 2 || c.kind == 3 || c.kind == 5) && c.passed.length == coreCount && !s.stillWaits c.awaitOps)) then
      .next s
    else
      let s := { s with tcq := none }
      let s := if c.kind == 5 && !c.refused then (s.clearKeys c.asid).putJob c.asid Job.blank else s
      if c.host then .next { s with hostOut := s.hostOut ++ [leBytes (s.job c.asid).pasid 4] }
      else
        let v := dnat (c.seqNo + 2 ^ 63 * bnat c.refused)
        .next ({ s with tcqDone := v }.sysWrite (s.cfg.tcq + 32) [v])

/-- ATS_INVALIDATION (R201): the host's request for a PASID is executed as an INVAL of its range; for a PASID of no job there
is nothing to invalidate. -/
def execAtsInvalidation (pasid va len : Nat) (s : State) : Out :=
  if s.tcq.isSome || s.cfg.st < 2 then .next s
  else
    match s.jobs.find? fun e => e.2.present && e.2.pasid == pasid with
    | none => .next { s with hostOut := s.hostOut ++ [leBytes pasid 4] }
    | some (a, _) =>
      let c : TcqCmd :=
        { ds := [dnat (2 + 65536 * a), dnat va, dnat len, 0, 0, 0, 0, 0], passed := [], awaitOps := [], refused := false,
          done := false, host := true }
      .next { s with tcq := some c }

end Sys2Proof.Machine
end

