-- ==== Sys2Proof/Machine/Kmq.lean ====
section
/-! DEFINITION. The key manager (R386) and the attestation quote (R384, R385). Where the operands of KSEAL and KIMPORT
stand in their commands the manual does not give: log 9. -/

namespace Sys2Proof.Machine

/-- Bytes at a job's address, page by page. -/
def State.agentBytes (s : State) (asid va n : Nat) : List Byte :=
  (upto n).flatMap fun i => s.agentRead (s.jobPlace asid (va + i)) 1

/-- Bytes written at a job's address, page by page. -/
def State.putAgentBytes (s : State) (asid va : Nat) (bs : List Byte) : State :=
  (upto bs.length).foldl (fun s i => s.agentShared asid (s.jobPlace asid (va + i)) (va + i) [nth bs i 0])
    (s.noteAgent asid va bs.length true)

/-- The slot of a command in the queue: kept in `passed`, which revocations alone use otherwise. -/
def TcqCmd.slotAddr (c : TcqCmd) : Nat := nth c.passed 0 0

/-- A command of the key manager ends: its status in its last double, then DONE (R200, R386). -/
def State.endKey (s : State) (c : TcqCmd) (status : Dbl) (refused : Bool) : State :=
  ({ s with kmq := none }.sysWrite (c.slotAddr + 56) [status]).sysWrite (s.cfg.kmq + 32)
    [dnat (c.seqNo + 2 ^ 63 * bnat refused)]

/-- KMQ_TAKE (R386): the next command, as the translation queue takes one; a malformed command ends with status 4. -/
def execKmqTake (s : State) : Out :=
  if s.kmq.isSome || s.cfg.st < 2 then .next s
  else
    let s := s.noteHead s.cfg.kmq
    match s.queueHead s.cfg.kmq with
    | .nothing => .next { s with kmqBad := none }
    | .malformed b n =>
      if s.kmqBad = some (b, n) then .next s
      else .next ({ s with kmqBad := some (b, n) }.errLog 12 7 s.cfg.kmq 0 0 0 0 s.cfg.kmq)
    | .command slot cons =>
      let c : TcqCmd := { s.readCommand slot fun _ => false with passed := [slot] }
      let s1 := { s with kmqBad := none }.sysWrite (s.cfg.kmq + 24) [dnat ((cons + 1) % 2 ^ 32)]
      if c.kind = 0 || decide (4 < c.kind) || dbits (c.arg 0) 15 8 != 0 then .next (s1.endKey c 4 true)
      else .next { s1 with kmq := some c }

/-- Runs for the command in execution if it is of a kind, on its job's slot; an ASID that names no job ends with status 2. -/
def onKey (kind : Nat) (s : State) (f : TcqCmd → Nat → Option KeySlot → Out) : Out :=
  match s.kmq with
  | none => .next s
  | some c =>
    if c.kind ≠ kind then .next s
    else if !(s.job c.asid).present then .next (s.endKey c 2 true)
    else
      let slot := (s.job c.asid).key.toNat
      f c slot ((s.keys.find? fun e => e.1 == slot).map (·.2))

/-- KGEN: a fresh key in the job's slot, bound to the ASID and its measurement; the slot number is returned. -/
def execKgen (s : State) : Out :=
  onKey 1 s fun c slot k =>
    if k.isSome then .next (s.endKey c 2 false)
    else
      let x : KeySlot := { key := Config.freshKey s.freeCtr, asid := BitVec.ofNat 16 c.asid, meas := (s.job c.asid).meas }
      let s1 := { s with keys := sset KeySlot.blank s.keys slot x }.tickFree
      .next ((s1.sysWrite (c.slotAddr + 48) [dnat slot]).endKey c 0 false)

/-- KCLEAR: the slot is zeroed. -/
def execKclear (s : State) : Out :=
  onKey 4 s fun c slot _ => .next ({ s with keys := sset KeySlot.blank s.keys slot KeySlot.blank }.endKey c 0 false)

/-- Whether a slot may serve a job: loaded, bound to it, and its measurement unchanged since KGEN. -/
def KeySlot.serves (k : KeySlot) (s : State) (asid : Nat) : Bool := k.asid.toNat == asid && k.meas == (s.job asid).meas

/-- The quote's 256 bytes (R385). -/
def State.quote (s : State) (asid : Nat) (nonce ek : List Byte) : List Byte :=
  leBytes s.cfg.iddig.toNat 32 ++ leBytes s.cfg.fwdig.toNat 32 ++
    digest (leBytes s.cfg.negmask.toNat 64) ++ nonce ++ leBytes asid 8 ++
    leBytes s.tick 8 ++ (s.job asid).meas ++ (if ek.isEmpty then List.replicate 32 0 else digest ek) ++ List.replicate 48 0

/-- KSEAL: double 1 is the address of the nonce, 2 that of the encapsulation key or 0, 3 that of the buffer which takes the
quote, its signature and the wrapped key. The leaf index advances before the signature leaves; a failed flash write or an
exhausted index refuses it (R384). -/
def execKseal (s : State) : Out :=
  onKey 2 s fun c _ k =>
    match k with
    | none => .next (s.endKey c 1 false)
    | some x =>
      if !x.serves s c.asid then .next (s.endKey c 1 false)
      else if 2 ^ 20 ≤ s.leaf || s.pick 9100 2 == 1 then .next (s.endKey c 3 false).tickFree
      else
        let nonce := s.agentBytes c.asid (c.arg 1).toNat 32
        let ek := if c.arg 2 = 0 then [] else s.agentBytes c.asid (c.arg 2).toNat 1568
        let q := s.quote c.asid nonce ek
        let out := q ++ Config.xmssSign s.seed s.leaf q ++ Config.kemWrap s.freeCtr ek x.key
        let s := s.noteAgent c.asid (c.arg 1).toNat 32 false
        let s := if c.arg 2 = 0 then s else s.noteAgent c.asid (c.arg 2).toNat 1568 false
        .next (({ s with leaf := s.leaf + 1 }.putAgentBytes c.asid (c.arg 3).toNat out).endKey c 0 false).tickFree

/-- Whether every byte of a device range lies in pages with ENC = 1 under a slot. -/
def State.encRange (s : State) (asid va len slot : Nat) : Bool :=
  tbit va 56 && (upto ((va + len + 65535) / 65536 - va / 65536)).all fun i =>
    let w := s.walk asid ((va / 65536 + i) * 65536)
    w.st == .valid && w.enc && w.key.toNat == slot

/-- KIMPORT: double 1 is the host-half address of a 12-byte nonce, the ciphertext and its tag, 2 the device address that
takes the plaintext, 3 the plaintext's length. A tag failure writes nothing; its status is not given and is free. -/
def execKimport (s : State) : Out :=
  onKey 3 s fun c slot k =>
    let src := (c.arg 1).toNat
    let dst := (c.arg 2).toNat
    let len := (c.arg 3).toNat
    match k with
    | none => .next (s.endKey c 1 false)
    | some x =>
      if !x.serves s c.asid then .next (s.endKey c 1 false)
      else if tbit src 56 then .next (s.endKey c 4 false)
      else if !s.encRange c.asid dst len slot then
        .next (((upto ((dst + len + 65535) / 65536 - dst / 65536)).foldl (fun s i =>
          let a := (dst / 65536 + i) * 65536
          s.logWalk (s.walk c.asid a) c.asid a) s).endKey c 4 false)
      else
        let s := s.noteAgent c.asid src (len + 28) false
        match Config.gcmOpen x.key (s.agentBytes c.asid src 12) (s.agentBytes c.asid (src + 12) len)
            (s.agentBytes c.asid (src + 12 + len) 16) with
        | none => .next (s.endKey c (dnat ((Config.freeDbl s.freeCtr 9101).toNat % 256)) false).tickFree
        | some bs => .next ((s.putAgentBytes c.asid dst (bs.take len)).endKey c 0 false)

end Sys2Proof.Machine
end

