-- ==== Sys2Proof/Machine/Debug.lean ====
section
/-! DEFINITION. The debug mailbox and what it commands (R363 to R366), lantern samples (R375), the link injectors (R359,
R360) and a link that goes down. -/

namespace Sys2Proof.Machine

/-! The mailbox. -/

/-- A command ends with a result. -/
def State.mbEnd (s : State) (result : Nat) : State := s.setMbox fun m => { m with stat := dnat result, busy := false }

/-- The command in execution. -/
def Mailbox.code (m : Mailbox) : Nat := dbits m.cmd 7 0
def Mailbox.arg (m : Mailbox) (i : Nat) : Dbl := nth m.args i 0

/-- Whether a held grant gives a scope bit: 0 stop, 1 injectors, 2 watch, 3 lantern (R364). -/
def State.granted (s : State) (bit : Nat) : Bool :=
  match s.mbox.grant with
  | none => false
  | some g => g.scope.getLsbD bit && decide (s.tick < g.expiry)

/-- Runs a mailbox command if it is the one in execution, with the scope that it needs. -/
def onMbox (code : Nat) (need : Option Nat) (s : State) (f : Mailbox → Out) : Out :=
  if !s.mbox.busy || s.mbox.code != code then .next s
  else match need with
    | some b => if s.granted b then f s.mbox else .next (s.mbEnd 1)
    | none => f s.mbox

/-- A register of the mailbox as the host reads it (R363). MBCMD is written only, and reads 0. -/
def Mailbox.read (m : Mailbox) (off : Nat) : Dbl :=
  match off with
  | 0x08 => m.arg 0
  | 0x10 => m.arg 1
  | 0x18 => m.arg 2
  | 0x20 => m.stat
  | 0x28 => m.data
  | _ => 0

/-- The number of the command by which the mailbox of a package in recovery takes an image (R380): none of the eight of R363 (log 88). -/
def imageCode : Nat := 9 + Config.imageCommand % 247

/-- A write of a mailbox register (R363): MBCMD starts a command, refused with result 3 while one is busy and with result
2 when it is none of the commands; the command of R380 is one in recovery alone. -/
def State.mbWrite (s : State) (off : Nat) (v : Dbl) : State :=
  match off with
  | 0x00 =>
    if s.mbox.busy then s.setMbox fun m => { m with stat := dnat (2 ^ 63 + 3) }
    else if dbits v 63 8 != 0 || dbits v 7 0 == 0 || (decide (8 < dbits v 7 0) && !(s.cfg.st == 0 && dbits v 7 0 == imageCode)) then
      s.setMbox fun m => { m with cmd := v, stat := dnat 2 }
    else s.setMbox fun m => { m with cmd := v, stat := dnat (2 ^ 63), busy := true }
  | 0x08 => s.setMbox fun m => { m with args := m.args.set 0 v }
  | 0x10 => s.setMbox fun m => { m with args := m.args.set 1 v }
  | 0x18 => s.setMbox fun m => { m with args := m.args.set 2 v }
  | _ => s

/-- The size of a signature of R383's parameter set (log 5). -/
def xmssBytes : Nat := 2820

/-- AUTH (R364): the grant of 96 bytes at a host address, then its signature. -/
def execAuth (s : State) : Out :=
  onMbox 1 none s fun m =>
    let at_ := (m.arg 0).toNat
    let g := mgets s.host at_ 96
    let expiry := leNat ((g.drop 40).take 8)
    let nonce := g.drop 48
    if !Config.xmssVerify (Config.recordDebugKey s.flash.record) g (mgets s.host (at_ + 96) xmssBytes) || leNat (g.take 32) != s.cfg.iddig.toNat ||
        decide (expiry ≤ s.tick) || s.mbox.nonces.contains nonce then .next (s.mbEnd 1)
    else
      .next ((s.setMbox fun m => { m with
        grant := some { scope := dnat (leNat ((g.drop 32).take 8)), expiry := expiry },
        nonces := m.nonces ++ [nonce] }).mbEnd 0)

/-- GRANT_EXPIRY (R364): injectors, lantern sampling and DBGEN end; stopped dies stay stopped. -/
def execGrantExpiry (s : State) : Out :=
  match s.mbox.grant with
  | none => .next s
  | some g =>
    if s.tick < g.expiry then .next s
    else
      let s := s.setMbox fun m => { m with grant := none }
      .next { s with
        injectors := s.injectors.map (fun e => (e.1, { e.2 with ctl := e.2.ctl &&& 0x7FFFFFFFFFFFFFFF#64 })),
        lantern := none,
        wings := s.wings.map (fun e => (e.1, { e.2 with
          bps := [], watches := [], lanInt := none, lanWant := false, tagged := [] })),
        jobs := s.jobs.map fun e => (e.1, { e.2 with dbgen := false }) }

/-! Precise stops. -/

/-- STOPAT (R365). -/
def execStopat (s : State) : Out :=
  onMbox 2 (some 0) s fun m =>
    if dbits (m.arg 1) 63 10 ≠ 0 then .next (s.mbEnd 2)
    else .next ((s.setMbox fun x => { x with
      stops := if m.arg 1 = 0 then x.stops else x.stops ++ [((m.arg 0).toNat, (m.arg 1).setWidth 10)] }).mbEnd 0)

/-- The dies that stops whose tick has come name. -/
def State.stopping (s : State) : List Nat := (upto 10).filter fun d => s.mbox.stops.any fun e => e.1 ≤ s.tick && e.2.getLsbD d

/-- A die is gated. -/
def State.gate (s : State) (d : Nat) : State :=
  if (s.die d).gated then s else s.modDie d fun x => { x with gated := true, gatedAt := s.tick }

/-- DIE_STOP (R365): every die that a stop names is gated in the period in which the tick equals its T, or at once when T has passed. -/
def execDieStop (die : Nat) (s : State) : Out :=
  if !s.stopping.contains die then .next s
  else .next ((s.stopping.foldl State.gate s).setMbox fun m => { m with stops := m.stops.filter fun e => !decide (e.1 ≤ s.tick) })

/-- A tick moved on by the time that a die stood since: none of it counts (R365). -/
def State.unstood (s : State) (d since : Nat) : Nat := since + (s.tick - max (s.die d).gatedAt since)

/-- A die runs again: the time that it stood is not counted by the 2 ms delay and the 4 ms promotion (R365). -/
def State.ungate (s : State) (d : Nat) : State :=
  if !(s.die d).gated then s
  else
    let t := s.modDie d fun x => { x with gated := false, gatedAt := 0 }
    let t := (tkeys s.parties).foldl (fun t p =>
      if (s.party p).die == d && (s.party p).st != .ended then t.modParty p fun x => { x with pendSince := s.unstood d x.pendSince } else t) t
    (tkeys s.jobs).foldl (fun t a => match (s.cutOf a d).delayed with
      | some u => t.modCut a d fun c => { c with delayed := some (s.unstood d u) }
      | none => t) t

/-- RESUME (R365). -/
def execResume (s : State) : Out :=
  onMbox 4 (some 0) s fun m =>
    if dbits (m.arg 1) 63 10 ≠ 0 then .next (s.mbEnd 2)
    else .next (((upto 10).foldl (fun s d => if (m.arg 1).getLsbD d then s.ungate d else s) s).mbEnd 0)

/-- A double of an array of a stopped die's storage that holds nothing of the program's: a free value, one while the die stands (log 1). -/
def State.staleDbl (s : State) (die target i : Nat) : Dbl :=
  Config.freeDbl (s.die die).gatedAt (2 ^ 64 * (1 + target) + i)

/-- Double i of a slice's data array (R366): its lines in ascending order of address, each by sector (log 88). -/
def State.sliceDbl (s : State) (slice i : Nat) : Option Dbl :=
  match (s.l2.filter fun e => sliceOf (128 * e.1) == slice)[i / 16]? with
  | some e => if e.2.valid.getLsbD (i / 4 % 4) then some (dnat (leNat (mgets s.mem (128 * e.1 + 8 * (i % 16)) 8))) else none
  | none => none

/-- Double i of the part of a core's SRAM that serves as its L1: the words that it holds, in ascending order of address (log 88). -/
def State.l1Dbl (s : State) (core i : Nat) : Option Dbl :=
  match ((s.core core).l1.drop (2 * i)).map (·.2.val) with
  | a :: b :: _ => some (dnat (a.toNat + 2 ^ 32 * b.toNat))
  | _ => none

/-- A double of a stopped die's state (R366); none if the target's die runs or the index is beyond it. -/
def State.scanDbl (s : State) (target i : Nat) : Option Dbl :=
  let kind := bits target 63 60
  let die := bits target 14 12
  let core := die * 64 + bits target 11 6
  let coach := core * 64 + bits target 5 0
  let share := (768 - (s.core core).l1share) * 128
  if !(s.die die).gated then none
  else match kind with
    | 1 =>
      if !(s.coach coach).present || bits target 59 15 != 0 then none
      else ((s.haltCoach coach).contextOf coach 0)[i]?
    | 2 =>
      if 98304 ≤ i then none
      else if share ≤ i then some ((s.l1Dbl core (i - share)).getD (s.staleDbl die target i))
      else some (dnat (leNat (mgets (s.core core).sram (8 * i) 8)))
    | 3 => if 393216 ≤ i then none else some ((s.sliceDbl (32 * die + bits target 4 0) i).getD (s.staleDbl die target i))
    | 4 => ((s.core core).statq.flatMap fun r => [r.d0, r.d1, r.d2, r.d3])[i]?
    | _ => none

/-- SCAN (R366). -/
def execScan (s : State) : Out :=
  onMbox 3 (some 0) s fun m =>
    match s.scanDbl (m.arg 0).toNat (m.arg 1).toNat with
    | none => .next (s.mbEnd 2)
    | some v => .next ((s.setMbox fun x => { x with data := v }).mbEnd 0)

/-- DBGEN (R363): clearing it disables every comparator of the ASID. -/
def execDbgen (s : State) : Out :=
  onMbox 5 (some 2) s fun m =>
    let a := dbits (m.arg 0) 15 0
    let on := (m.arg 0).getLsbD 16
    if dbits (m.arg 0) 63 17 ≠ 0 then .next (s.mbEnd 2)
    else
      let s := s.modJob a fun j => { j with dbgen := on }
      let s := if on then s else { s with wings := s.wings.map fun (e : Nat × Wing) => (e.1, { e.2 with
        bps := e.2.bps.filter (fun b => b.2.asid.toNat != a), watches := e.2.watches.filter fun b => b.2.asid.toNat != a }) }
      .next (s.mbEnd 0)

/-! Lantern samples. -/

/-- LANTERN (R363, R375). -/
def execLantern (s : State) : Out :=
  onMbox 6 (some 3) s fun m =>
    let hdr := (m.arg 0).toNat
    let k := dbits (m.arg 1) 4 0
    if hdr = 0 then
      .next ({ s with
        lantern := none,
        wings := s.wings.map fun (e : Nat × Wing) => (e.1, { e.2 with lanInt := none, lanWant := false, tagged := [] }) }.mbEnd 0)
    else if dbits (m.arg 1) 63 5 ≠ 0 ∨ k < 10 ∨ 24 < k then .next (s.mbEnd 2)
    else .next ({ s with lantern := some (hdr, k) }.mbEnd 0)

/-- LANTERN_SAMPLE (R375): the picked cycle of an interval has come, and the next bundle is tagged. -/
def execLanternSample (wing : Nat) (s : State) : Out :=
  match s.lantern with
  | none => .next s
  | some (_, k) =>
    let now := (s.die (dieOfCore (coreOfWing wing))).cycle
    let i := now / 2 ^ k
    if (s.wing wing).lanInt = some i || now % 2 ^ k < Config.lanternPick wing i k % 2 ^ k then .next s
    else .next (s.modWing wing fun w => { w with lanInt := some i, lanWant := true })

/-- Whether every syllable of a bundle has landed or been counted (R375). -/
def Coach.passed (c : Coach) (seq : Nat) : Bool :=
  !(c.inflight ++ c.trapset).any (fun f => f.seq == seq) && !c.flags.any fun e => e.seq == seq

/-- The tagged bundles of a wing all of whose syllables have landed or been counted in this cycle. -/
def State.noteTagged (s : State) (w : Nat) : State :=
  if (s.wing w).tagged.any fun t => t.fin.isNone && (s.coach t.coach).passed t.seq then
    s.modWing w fun x => { x with tagged := x.tagged.map fun t =>
      if t.fin.isNone && (s.coach t.coach).passed t.seq then { t with fin := some (s.die (dieOfCore (coreOfWing w))).cycle } else t }
  else s

/-- A LANTERN record's payload: the execution length runs from the last source read to the end, and the memory level is one of those
that may have served the bundle, 0 if it accessed no memory. The lengths of the other stages are the pipeline's own (log 1). -/
def State.lanPayload (s : State) (t : Tagged) (fin : Nat) : Dbl :=
  let f := (Config.freeDbl s.freeCtr 9400).toNat
  let collect := bits f 31 24
  let level := match t.levels with | [] => 0 | l :: ls => choose s 9402 l ls
  dnat (f % 2 ^ 32 + min (fin - t.cycle - collect) 65535 * 2 ^ 32 + bits f 55 48 * 2 ^ 48 + level % 16 * 2 ^ 56)

/-- LANTERN_RECORD (R375): of the first tagged bundle that has ended. -/
def execLanternRecord (wing : Nat) (s : State) : Out :=
  match s.lantern, (s.wing wing).tagged.find? fun t => t.fin.isSome with
  | some (hdr, _), some t =>
    let d0 := 1 + 256 * (t.coach % 16) + 4096 * (wing % 4) + 16384 * (s.pick 9401 4) + 65536 * t.asid.toNat
    let s1 := (ringAppend State.sysDbl State.sysWrite (fun s a w => s.noteQueue 0 (s.sysPlace a) a w) true s hdr 32
        [dnat d0, t.addr, dnat s.tick, s.lanPayload t (t.fin.getD 0)]).1
    .next (s1.modWing wing fun w => { w with tagged := w.tagged.erase t }).tickFree
  | _, _ => .next s

/-! Injectors (R359). -/

/-- The injector that MBARG0 names, and its register. -/
def injOf (a : Dbl) : Nat := 4 * dbits a 2 2 + dbits a 1 0
def State.injector (s : State) (i : Nat) : Injector := sget Injector.reset s.injectors i

/-- The links of an injector's LINK (R359, R388): its UALink port, or one of the two links to a compute die, in both directions. -/
def injLinks (i link : Nat) : List Nat :=
  let io := i / 4
  if link < 8 then [8 * io + link]
  else
    let dies := if io = 0 then [0, 1, 4, 5] else [2, 3, 6, 7]
    let c := nth dies ((link - 8) / 2) 0
    let plane := (link - 8) % 2
    [dieLinkOf (8 + io) c plane, dieLinkOf c (8 + io) plane]

/-- The count at which an injection is over (R360). -/
def Injector.last (j : Injector) : Dbl := dnat (min (j.trig.toNat + max 1 (dbits j.ctl 15 0) - 1) (2 ^ 64 - 1))

/-- Flits pass an armed injector (R359): how many is the link's affair, free (log 1), and none go by unseen the last that the injection hits. -/
def Injector.count (j : Injector) (n : Nat) : Injector :=
  if !j.ctl.getLsbD 63 then j
  else if j.trig != 0 && decide (j.cnt ≤ j.last) then { j with cnt := dnat (min (j.cnt.toNat + n) j.last.toNat) }
  else { j with cnt := dnat (min (j.cnt.toNat + n) (2 ^ 64 - 1)) }

/-- Flits pass the armed injectors whose links are up. -/
def State.countFlits (s : State) : State :=
  if s.injectors.all fun e => !e.2.ctl.getLsbD 63 then s
  else
    { s with injectors := s.injectors.map fun (e : Nat × Injector) =>
        if (injLinks e.1 (dbits e.2.ctl 55 48)).all s.linkUp then (e.1, e.2.count (Config.choice s.freeCtr (9500 + e.1))) else e }.tickFree

/-- Whether a value may be written to an injector register. -/
def injOk (reg : Nat) (old : Injector) (v : Dbl) : Bool :=
  match reg with
  | 0 =>
    dbits v 62 60 == 0 && dbits v 46 38 == 0 && dbits v 31 16 == 0 && decide (dbits v 59 56 ≤ 2) && decide (dbits v 55 48 ≤ 15) &&
      decide (dbits v 37 32 < (if dbits v 55 48 < 8 then 4 else 64))
  | 1 => true
  | 3 => dbits v 63 32 == 0 && !(dbits old.ctl 59 56 == 2 && dbits v 31 24 != 0)
  | _ => false

/-- INJRD (R359). -/
def execInjrd (s : State) : Out :=
  onMbox 7 none s fun m =>
    if !s.granted 1 then .next ((s.setMbox fun x => { x with data := 0 }).mbEnd 1)
    else if dbits (m.arg 0) 63 6 ≠ 0 ∨ dbits (m.arg 0) 3 3 ≠ 0 then .next (s.mbEnd 2)
    else
      let j := s.injector (injOf (m.arg 0))
      let v : Dbl := match dbits (m.arg 0) 5 4 with
        | 0 => j.ctl
        | 1 => j.trig
        | 2 => j.cnt
        | _ => j.data
      .next ((s.setMbox fun x => { x with data := v }).mbEnd 0)

/-- INJWR (R359): arming clears the count. -/
def execInjwr (s : State) : Out :=
  onMbox 8 (some 1) s fun m =>
    let i := injOf (m.arg 0)
    let reg := dbits (m.arg 0) 5 4
    let v := m.arg 1
    let j := s.injector i
    if dbits (m.arg 0) 63 6 ≠ 0 || dbits (m.arg 0) 3 3 ≠ 0 || !injOk reg j v then .next (s.mbEnd 2)
    else
      let j1 : Injector := match reg with
        | 0 => { j with ctl := v, cnt := if v.getLsbD 63 && !j.ctl.getLsbD 63 then 0 else j.cnt }
        | 1 => { j with trig := v }
        | _ => { j with data := v }
      .next ({ s with injectors := sset Injector.reset s.injectors i j1 }.mbEnd 0)

/-! A link goes down (R360). -/

/-- The two directions of a link. -/
def bothWays (link : Nat) : List Nat :=
  if link < 1000 then [link] else [link, dieLinkOf (linkEnd link) (linkStart link) (linkPlane link)]

/-- The link that an arriving item comes on. -/
def arrivesOn : Instr → Option Nat
  | .linkItemArrival l _ => some l
  | .waymarkArrival l _ => some l
  | .rollbackNotice l _ => some l
  | _ => none

/-- A job that uses a link which went down is stopped until firmware rolls it back (R360); a generation in progress goes on with the links
that are up, or is aborted where a package of the job can no longer be reached (R355): no port of the job is up, or else, for how the other
packages are connected the manual does not say, as it turns out (log 1). -/
def State.haltJob (s : State) (asid : Nat) : State :=
  let gone := (s.jobPorts asid 8 ++ s.jobPorts asid 9).isEmpty || s.pick (9510 + asid) 2 == 1
  (if decide (1 < (s.job asid).pkgs) && gone then s.abortHere asid 4 else s).freezeJob asid

/-- Whether a number names a link of the package: a UALink port, or a die-to-die link in one direction. -/
def isLink (l : Nat) : Bool := l < 16 || isDieLink l

/-- Of what is in flight between dies, what a die-to-die link that goes down had on it is lost (R360): which that is is free (log 1). Where a
stop of the job drops it, nothing awaits it. -/
def State.loseFlight (s : State) : State :=
  let lost (id : Nat) : Bool := s.pick (2 ^ 51 + id) 2 == 0
  let away (die : Nat) (p : Place) : Bool := match p with | .home pa _ => homeDie pa != die | .host _ => die != 8 | .peer _ _ => true | _ => false
  { s with
    ops := s.ops.filter fun o =>
      !(o.asid != 0 && lost o.id && o.parts.any fun p => p.open && (away o.die p.place || p.ats.any fun a => away o.die a.place)),
    commits := s.commits.map fun c =>
      if c.asid != 0 then { c with bytes := c.bytes.filter fun b => !(homeDie b.pa != c.die && lost b.unit) } else c,
    cores := s.cores.map fun e => (e.1, { e.2 with courier := e.2.courier.filter fun m =>
      !(m.asid != 0 && lost m.id && (m.src.isBox || m.dst.isBox)) }),
    wings := s.wings.map fun e =>
      let keep (b : Beat) : Beat := if !b.here && away (dieOfCore (coreOfWing e.1)) b.place && lost b.id then { b with asked := true } else b
      let d := e.2.drover
      (e.1, { e.2 with drover := { d with sa := d.sa.map keep, q0 := d.q0.map keep, q1 := d.q1.map keep } }) }

/-- A link is down on a lane: a record, the items in flight lost, the jobs that use it stopped. -/
def State.takeDown (s : State) (lane link : Nat) : State :=
  let ls := bothWays link
  if !isLink link || !ls.any s.linkUp then s
  else
    let s := { s with
      linksDown := ssetAll 0 s.linksDown (ls.map fun l => (l, 1)),
      linkOut := s.linkOut.filter (fun e => !ls.contains e.1),
      env := s.env.filter fun i => match arrivesOn i with | some l => !ls.contains l | none => true }
    let s := if 1000 ≤ link then s.loseFlight else s
    let s := s.errLog 10 10 (link + 2 ^ 32 * lane) 0 0 0 0 0
    (tkeys s.jobs).foldl (fun s a =>
      if (s.job a).present && a != 0 && (decide (1000 ≤ link) || (s.job a).ports.getLsbD link) then s.haltJob a else s) s

/-- How many lanes a link has (R387, R388). -/
def lanesOfLink (link : Nat) : Nat := if link < 16 then 4 else 64

/-- LINK_DOWN (R360). On which lane the flit failed is free (log 1). -/
def execLinkDown (link : Nat) (s : State) : Out := .next (s.takeDown (s.pick 9505 (lanesOfLink link)) link).tickFree

/-- INJECTOR_FIRE (R360): the injection runs to its end. Short of a link going down it changes only timing: a delay above
1,700,000 ticks takes the link down; eight or more hits may fail one flit eight times. -/
def execInjectorFire (inj : Nat) (s : State) : Out :=
  let j := s.injector inj
  let link := dbits j.ctl 55 48
  let n := max 1 (dbits j.ctl 15 0)
  if !j.ctl.getLsbD 63 || j.trig = 0 || j.cnt != j.last || !(injLinks inj link).all s.linkUp then .next s
  else
    let hits := match dbits j.ctl 59 56 with
      | 0 => dbits j.data 31 0 != 0 && decide (8 ≤ n) && s.pick 9501 2 == 1
      | 1 => decide (8 ≤ n) && s.pick 9501 2 == 1
      | _ => decide (1700000 < dbits j.data 23 0)
    let j1 : Injector := { j with ctl := j.ctl &&& 0x7FFFFFFFFFFFFFFF#64 }
    let lane := dbits j.ctl 37 32
    let s1 := { s with injectors := sset Injector.reset s.injectors inj j1 }.errLog 9 10 ((injLinks inj link).headD 0 + 2 ^ 32 * lane) 0 0 0 0 0
    .next (if hits then (injLinks inj link).foldl (fun s l => s.takeDown lane l) s1 else s1).tickFree

end Sys2Proof.Machine
end

