-- ==== Sys2Proof/Machine/HostPort.lean ====
section
/-! DEFINITION. The host port and the configuration block (R376 to R378), boot, recovery and negotiation (R379 to R382),
liveness (R229, R378), refresh (R228), scrubbing (R356), link training (R379, R387) and the limiters (R389). -/

namespace Sys2Proof.Machine

/-! The configuration block. -/

/-- Double i of a field of several. -/
def wideDbl {n : Nat} (v : BitVec n) (i : Nat) : Dbl := dnat (v.toNat / 2 ^ (64 * i) % 2 ^ 64)

/-- A double of the block at an offset that is a multiple of 8 (R378). -/
def State.cfgRead (s : State) (off : Nat) : Dbl :=
  let c := s.cfg
  if off < 0x20 then wideDbl c.iddig (off / 8)
  else if off < 0x60 then wideDbl c.devmask ((off - 0x20) / 8)
  else if off < 0xA0 then wideDbl c.negmask ((off - 0x60) / 8)
  else if off < 0xE0 then wideDbl c.disable ((off - 0xA0) / 8)
  else if off = 0xE0 then c.timing
  else if off = 0xE8 then dnat (c.st + 256 * c.cause)
  else if off = 0xF0 then dnat c.tcq
  else if off = 0xF8 then dnat c.errlog
  else if off = 0x100 then dnat c.kmq
  else if off = 0x108 then dnat c.jobtab
  else if off = 0x110 then dnat c.livemap
  else if off = 0x118 then c.livegen
  else if 0x120 ≤ off ∧ off < 0x140 then wideDbl c.fwdig ((off - 0x120) / 8)
  else if 0x180 ≤ off ∧ off < 0x1C8 then dnat (sget 0 c.rings ((off - 0x180) / 8))
  else 0

/-- NEGOTIATE (R382): the one write to STATE that is accepted. -/
def State.negotiate (s : State) : State :=
  if s.cfg.st = 2 then s.setCfg fun c => { c with st := 3, negmask := (c.devmask &&& ~~~c.disable) ||| 1 } else s

def execNegotiate (s : State) : Out := .next s.negotiate

/-- A write of a driver's field (R378): accepted while STATE is 2; any other write is discarded. -/
def State.cfgWrite (s : State) (off value : Nat) : State :=
  if s.cfg.st ≠ 2 then s
  else s.setCfg fun c =>
    if 0xA0 ≤ off ∧ off < 0xE0 ∧ off % 8 = 0 then
      let i := (off - 0xA0) / 8
      let d := c.disable.toNat
      let new := d % 2 ^ (64 * i) + value % 2 ^ 64 * 2 ^ (64 * i) + d / 2 ^ (64 * (i + 1)) * 2 ^ (64 * (i + 1))
      { c with disable := BitVec.ofNat 512 new }
    else if off = 0xF0 then { c with tcq := value }
    else if off = 0xF8 then { c with errlog := value }
    else if off = 0x100 then { c with kmq := value }
    else if off = 0x108 then { c with jobtab := value }
    else if off = 0x110 then { c with livemap := value }
    else if 0x180 ≤ off ∧ off < 0x1C8 ∧ off % 8 = 0 then { c with rings := sset 0 c.rings ((off - 0x180) / 8) value }
    else c

/-- CONFIG_WRITE (R378): of a field without behaviour of its own. -/
def execConfigWrite (offset value : Nat) (s : State) : Out := .next (s.cfgWrite offset (value % 2 ^ 64))

/-- A double written through BAR0: STATE takes only 3; LIVEGEN may change in any STATE (R378), and an event that is due at once applies
the change, so that no access comes between. -/
def State.bar0Write (s : State) (off : Nat) (v : Dbl) : State :=
  if 0x100000 ≤ off then s.mbWrite (off - 0x100000) v
  else if off = 0xE8 then (if dbits v 7 0 = 3 then s.negotiate else s)
  else if off = 0x118 then
    (if s.cfg.livegen = v then s
     else { s with env := s.env ++ [Instr.livegenWrite] }.setCfg fun c => { c with livegen := v })
  else s.cfgWrite off v.toNat

def State.bar0Read (s : State) (off : Nat) : Dbl := if 0x100000 ≤ off then s.mbox.read (off - 0x100000) else s.cfgRead off

/-- Whether a function sees an offset of BAR0 (R377): a virtual function only its own request ring entry. -/
def bar0Sees (fn off : Nat) : Bool :=
  if fn = 0 then off < 0x1C8 || (decide (0x100000 ≤ off) && decide (off < 0x100030)) else off == 0x180 + 8 * fn

/-- Doubles touched by n bytes from an offset. -/
def dblsTouched (off n : Nat) : List Nat := (upto ((off + n + 7) / 8 - off / 8)).map fun i => 8 * (off / 8 + i)

/-- A read through BAR0; what a function does not see reads 0. -/
def State.bar0Bytes (s : State) (fn off n : Nat) : List Byte :=
  let bs := (dblsTouched off n).flatMap fun o => leBytes (if bar0Sees fn o then s.bar0Read o else 0).toNat 8
  (bs.drop (off % 8)).take n

/-- A write through BAR0, double by double. -/
def State.bar0Put (s : State) (fn off : Nat) (bs : List Byte) : State :=
  (dblsTouched off bs.length).foldl (fun s o =>
    if !bar0Sees fn o then s
    else
      let old := leBytes (s.bar0Read o).toNat 8
      let new := (upto 8).map fun i => if off ≤ o + i && o + i < off + bs.length then nth bs (o + i - off) 0 else nth old i 0
      s.bar0Write o (dnat (leNat new))) s

/-! BAR2. -/

/-- Whether a function's BAR2 reaches a range of device memory (R377). -/
def State.bar2Reaches (s : State) (fn off n : Nat) : Bool :=
  addressable off n && (fn == 0 || (sget BarFn.blank s.bars fn).ranges.any fun r => r.1 ≤ off && off + n ≤ r.1 + r.2)

/-- The first bytes of the granules that n bytes touch, after the first of which they begin. -/
def granulesOf (pa n : Nat) : List Nat := (upto ((pa + n + 65535) / 65536 - pa / 65536)).map fun i => max pa (65536 * (pa / 65536 + i))

/-- Bytes that the host writes at a device address, granule by granule (R339), as through a page that is not encrypted (R210, log 80). -/
def State.hostPut (s : State) (pa : Nat) (bs : List Byte) : State :=
  (granulesOf pa bs.length).foldl (fun s a => s.sharedWrite 0 (.home a false) a ((bs.drop (a - pa)).take (65536 - a % 65536))) s

/-- Bytes that the host reads at a device address. -/
def State.hostGet (s : State) (pa n : Nat) : State × List Byte :=
  let s := (s.fill 0 pa false n pa).countDead pa
  (s, s.physBytes pa n)

/-- Whether the host's write may be performed now: its granules' transitions find their frames, one after another (R340). -/
def State.hostMayPut (s : State) (pa n : Nat) : Bool :=
  (((granulesOf pa n).filter fun a => !s.isDead a).foldlM (fun (s : State) a => s.cowWrite 0 a) s).isSome

/-- An answer to the host: 0 success or 1 Unsupported Request, then data. -/
def State.answer (s : State) (status : Nat) (bs : List Byte) : State :=
  { s with hostOut := s.hostOut ++ [BitVec.ofNat 8 status :: bs] }

/-- HOST_BAR_ACCESS (R377). In recovery only BAR0 answers (R380). -/
def execHostBarAccess (o : HostAccess) (s : State) : Out :=
  if o.bar = 0 then
    if 8 < o.fn || 2 ^ 26 ≤ o.offset then .next (s.answer 1 [])
    else
      match o.op with
      | .read n => .next (s.answer 0 (s.bar0Bytes o.fn o.offset n))
      | .write bs => .next (s.bar0Put o.fn o.offset bs)
      | .atomic _ _ _ => .next (s.answer 1 [])
  else if o.bar ≠ 2 || 8 < o.fn then .next (s.answer 1 [])
  else if s.cfg.st < 2 then .next s
  else
    match o.op with
    | .read n =>
      if s.bar2Reaches o.fn o.offset n then
        let (t, bs) := s.hostGet o.offset n
        .next (t.answer 0 bs)
      else .next (s.answer 1 [])
    | .write bs =>
      if !s.bar2Reaches o.fn o.offset bs.length then .next (s.answer 1 [])
      else if !s.hostMayPut o.offset bs.length then .next s
      else .next (s.hostPut o.offset bs)
    | .atomic opc v c =>
      if !s.bar2Reaches o.fn o.offset 4 || !(opc == 0x30 || opc == 0x36 || opc == 0x37) then .next (s.answer 1 [])
      else if !s.hostMayPut o.offset 4 then .next s
      else
        let (s, old) := s.hostGet o.offset 4
        let m : Word := BitVec.ofNat 32 (leNat old)
        .next ((s.hostPut o.offset (leBytes (atomOp opc m v c).toNat 4)).answer 0 old)

/-- BAR_PROGRAMMING (R189, R377): a function's BAR2, a multiple of its 1 TiB, the ranges assigned to it, and AtomicOps. -/
def execBarProgramming (fn base : Nat) (ranges : List (Nat × Nat)) (atomicOp : Bool) (s : State) : Out :=
  if 8 < fn then .next s
  else
    let b : BarFn := { base := some (base / 2 ^ 40 * 2 ^ 40), ranges := ranges, atomicOp := atomicOp }
    .next { s with bars := sset BarFn.blank s.bars fn b }

/-! Liveness. -/

/-- Regions of 2 MiB. -/
def regionCount : Nat := 393216

/-- A region turns live: zeroed, its line counters afresh (R229). -/
def State.revive (s : State) (r : Nat) : State :=
  let lo := r * 2 ^ 21
  let inside (n a : Nat) : Bool := decide (lo / n ≤ a) && decide (a < (lo + 2 ^ 21) / n)
  { s with
    mem := s.mem.filter (fun e => !inside 1 e.1), lineCtr := s.lineCtr.filter (fun e => !inside 64 e.1),
    majors := s.majors.filter (fun e => !inside 2048 e.1), seals := s.seals.filter (fun e => !inside 64 e.1),
    l2 := s.l2.filter (fun e => !inside 128 e.1), dead := sset 0 s.dead r 0,
    poison := s.poison.filter fun p => match p with | .line x => !inside 1 x | _ => true }

/-- A region is marked not live: its L2 lines are discarded (R229). -/
def State.kill (s : State) (r : Nat) : State :=
  let lo := r * 2 ^ 21
  { s with
    l2 := s.l2.filter (fun e => !(decide (lo / 128 ≤ e.1) && decide (e.1 < (lo + 2 ^ 21) / 128))), dead := sset 0 s.dead r 1 }

/-- LIVEGEN_WRITE (R378): the controllers apply the bitmap, bit r % 8 of byte r / 8 for region r, 1 for live. The change is then no
longer to come. -/
def execLivegenWrite (s : State) : Out :=
  let s := { s with env := s.env.filter fun i => i != .livegenWrite }
  if s.cfg.st < 2 || s.cfg.livemap = 0 then .next s
  else
    let s := s.noteSys s.cfg.livemap 49152
    let map (i : Nat) : Byte := nth (s.plainRead (s.sysPlace (s.cfg.livemap + i)) 1) 0 0
    .next ((upto regionCount).foldl (fun t r =>
      let live := (map (r / 8)).getLsbD (r % 8)
      let was := sget 0 s.dead r == 0
      if live && !was then t.revive r else if !live && was then t.kill r else t) s)

/-! Refresh. -/

/-- A refresh falls due on a pseudo-channel: at most 8 are postponed (R228). -/
def State.refreshDue (s : State) (channel : Nat) : State :=
  let n := sget 0 s.refreshOwed channel
  if n < 8 then { s with refreshOwed := sset 0 s.refreshOwed channel (n + 1) } else s

/-- REFRESH (R228). -/
def execRefresh (channel : Nat) (s : State) : Out :=
  let n := sget 0 s.refreshOwed channel
  .next { s with refreshOwed := sset 0 s.refreshOwed channel (n - 1) }

/-- REFRESH_ALERT (R228): every owed refresh first if they are at the limit, then up to four refresh-management commands, counted. -/
def execRefreshAlert (channel : Nat) (s : State) : Out :=
  let n := sget 0 s.refreshOwed channel
  .next { s with
    refreshOwed := if n = 8 then sset 0 s.refreshOwed channel 0 else s.refreshOwed,
    refreshAlert := sset 0 s.refreshAlert channel (sget 0 s.refreshAlert channel + 1 + s.pick 9600 4) }.tickFree

/-! Scrubbing. -/

/-- The storage code and location of a word (R358). -/
def siteOf : Site → Nat × Nat
  | .vreg k n l => (1, l + 64 * n + 2 ^ 16 * k)
  | .sreg k n => (2, n + 2 ^ 16 * k)
  | .preg k n => (1, n + 2 ^ 16 * k)
  | .sram c w => (3, 4 * w + 2 ^ 20 * c)
  | .line pa => (5, pa)
  | .held p => (7, p)
  | .acc w a n => (6, n + 2 ^ 12 * a + 2 ^ 16 * w)
  | .lodge w n => (6, n + 2 ^ 16 * w)
  | .scale w n => (6, n + 2 ^ 16 * w)
  | .beat w q i => (7, i + 2 ^ 32 * q + 2 ^ 40 * w)
  | .node n => (8, n)
  | .latch k id l => (1, l + 64 * 256 + 2 ^ 16 * k + 2 ^ 32 * id)
  | .shadow k id => (1, 64 * 257 + 2 ^ 16 * k + 2 ^ 32 * id)
  | .hreg k n i => (2, 64 + 4 * n + i + 2 ^ 16 * k)
  | .flag k f => (2, 128 + f + 2 ^ 16 * k)
  | .sys k n => (2, 144 + n + 2 ^ 16 * k)
  | .staging c w => (3, 4 * w + 2 ^ 20 * c)

/-- A corrected error is counted with those of its word that have still to be recorded (R358). -/
def State.noteCorrected (s : State) (storage loc : Nat) : State :=
  if s.merging.any fun e => e.1 == (storage, loc) then
    { s with merging := s.merging.map fun e => if e.1 == (storage, loc) then (e.1, (e.2.1, e.2.2 + 1)) else e }
  else { s with merging := s.merging ++ [((storage, loc), (s.tick, 1))] }

/-- The corrected errors of 1 ms make one record (R358). -/
def State.recordCorrected (s : State) : State :=
  s.merging.foldl (fun t e =>
    if e.2.1 + 1700000 ≤ s.tick then
      { t with merging := t.merging.filter fun x => x.1 != e.1 }.errLog (1 + 2 ^ 32 * e.2.2) e.1.1 e.1.2 0 0 0 0 0
    else t) s

/-- SCRUB (R356): the word is found with a single-bit error, corrected and counted, or uncorrectable: poisoned and logged, but
fetched again where it lies in a clean L2 line and HBM holds it whole. Which of these is free. -/
def execScrub (o : Site) (s : State) : Out :=
  let (storage, loc) := siteOf o
  let refetch := match o with
    | .line pa => (s.l2Line (pa / 128)).valid.getLsbD (pa / 32 % 4) && !(s.l2Line (pa / 128)).dirty.getLsbD (pa / 32 % 4) && s.pick 9701 2 == 0
    | _ => false
  if s.poison.contains o then
    .next (if s.latent.contains o then { s with latent := s.latent.filter (· != o) }.errLog 3 storage loc 0 0 0 0 0 else s)
  else if s.pick 9700 2 = 0 then .next (s.noteCorrected storage loc).tickFree
  else
    let s1 := { s with poison := if refetch then s.poison else s.poison ++ [o], latent := s.latent.filter (· != o) }
    .next (s1.errLog 3 storage loc 0 0 0 0 0).tickFree

/-- Where a word is that an error can strike without being found: of memory, what a dirty L2 line holds; a clean one is fetched again (R356). -/
def State.strikable (s : State) (o : Site) : Bool :=
  !s.poison.contains o && (match o with
    | .line pa => pa % 8 == 0 && (s.l2Line (pa / 128)).dirty.getLsbD (pa / 32 % 4)
    | _ => true)

/-- An uncorrectable error arises in a word, and stays there unfound until the word is read or scrubbed (R356). -/
def State.upset (s : State) : State :=
  match Config.upset s.freeCtr with
  | some o => if s.strikable o then { s with poison := s.poison ++ [o], latent := s.latent ++ [o] } else s
  | none => s

/-! Boot. -/

/-- A steward coach as firmware starts it (R18): privileged, of identifier 0, at an address of the firmware's own. Its width and
budget are log 4's. -/
def State.startSteward (s : State) (d : Nat) : State :=
  let k := (512 + d) * 64
  s.putCoach k { Coach.blank with
    present := true, width := 16, budget := 24, priv := true, pc := Config.freeDbl s.freeCtr (5400 + d), launched := lanesBelow 16,
    live := lanesBelow 16, stack := [StackEntry.base (lanesBelow 16)] }

/-- The seed that the boot ROM derives (R379 step 1, R384). -/
def State.bootSeed (s : State) (o : BootInput) : Option (BitVec 256) := Config.fuzzySeed o.fingerprint (Config.recordHelper s.flash.record)

/-- Whether the vendor root key is the one whose digest the ROM holds, and signed these bytes (R379, R383). -/
def Flash.vouches (f : Flash) (bs sig : List Byte) : Bool :=
  Config.shake256 f.root == Config.rootDigest && Config.xmssVerify f.root bs sig

/-- The recovery cause of the first step of R379 that fails (R380); 0 if none does. -/
def State.bootCause (s : State) (o : BootInput) : Nat :=
  let f := s.flash
  if (s.bootSeed o).isNone then 3
  else if !f.vouches f.image f.imageSig then 1
  else if !f.vouches f.record f.recordSig then 2
  else if !Config.recordRepair f.record then 4
  else if !o.hbm then 5
  else if !o.links then 6
  else 0

/-- The limits that a configuration record requests, each clamped to the hardware's own (R389). -/
def recordLimits (record : List Byte) : Limits :=
  let m := Limits.reset
  { current := min (Config.recordCurrent record) m.current, power := min (Config.recordPower record) m.power,
    junction := min (Config.recordJunction record) m.junction }

/-- BOOT (R379, R380): recovery with the first failing step's cause, or the identity, the tick, the limits, the stewards and
STATE 2. -/
def execBoot (o : BootInput) (s : State) : Out :=
  if s.cfg.st ≠ 1 then .next s
  else if s.bootCause o ≠ 0 then .next (s.setCfg fun c => { c with st := 0, cause := s.bootCause o })
  else
    let seed := (s.bootSeed o).getD 0
    let s := s.setCfg fun c =>
      { c with st := 2, cause := 0, iddig := Config.shake256 (Config.xmssPublic seed), fwdig := Config.shake256 s.flash.image }
    let s := { s with seed := seed, tick := o.tick % 2 ^ 64, limits := recordLimits s.flash.record }
    .next ((upto 8).foldl State.startSteward s).tickFree

/-- RECOVERY_IMAGE_WRITE (R380): the mailbox's command in recovery. An image that the vendor root key signed goes to flash; of any other
the command ends with result 1 (log 88). -/
def execRecoveryImageWrite (image signature : List Byte) (s : State) : Out :=
  if s.cfg.st ≠ 0 || !s.mbox.busy || s.mbox.code != imageCode then .next s
  else if !s.flash.vouches image signature then .next (s.mbEnd 1)
  else .next ({ s with flash := { s.flash with image := image, imageSig := signature } }.mbEnd 0)

/-- UALINK_TRAINING (R379, R381, R361): a port that the job table names comes up; the tick, which never decreases, is aligned. -/
def execUalinkTraining (port : Nat) (s : State) : Out :=
  let named := (upto 64).any fun i => match s.jobEntryAt? i with
    | some e => (nth e 2 0).getLsbD port
    | none => false
  if 16 ≤ port || s.linkUp port || s.cfg.st < 2 || !named then .next s
  else .next { s with linksDown := sset 0 s.linksDown port 0, tick := s.later (Config.choice s.freeCtr 9800) }.tickFree

/-! Limiters (R389). -/

/-- CURRENT_LIMIT: above its limit, or while the dies together draw more than 16,000 A, a die's clock is stretched, never below
850 MHz; below it the stretch ends. -/
def execCurrentLimit (die current : Nat) (s : State) : Out :=
  if 8 ≤ die then .next s
  else
    let s := { s with amps := sset 0 s.amps die current }
    if s.limits.current < current || decide (16000 < ((upto 8).map fun d => sget 0 s.amps d).sum) then
      .next (s.modDie die fun d => { d with mhz := 850 + s.pick 9801 (max 1 (d.mhz - 850)) }).tickFree
    else .next (s.modDie die fun d => { d with mhz := 1700 })

/-- A step of 50 MHz down or up. -/
def mhzStep (mhz : Nat) (hot : Bool) : Nat := if hot then max 850 (mhz - 50) else min 1700 (mhz + 50)

/-- THERMAL_LIMIT: above the limit the arithmetic clock of all compute dies is lowered. -/
def execThermalLimit (power : Nat) (s : State) : Out := .next { s with thermal := mhzStep s.thermal (decide (s.limits.power < power)) }

/-- The package stops and resets: what flash holds, the host's memory and what is still to come from outside remain, and dies that the
mailbox stopped stay stopped (R364). -/
def State.restart (s : State) : State :=
  { State.reset with
    host := s.host, leaf := s.leaf, flash := s.flash, hostOut := s.hostOut, env := s.env.filter fun i => i != .livegenWrite,
    dies := (s.dies.filter fun e => e.2.gated).map fun e => (e.1, { Die.reset with gated := true }), freeCtr := s.freeCtr + 1 }

/-- JUNCTION_LIMIT: above the limit as the thermal limiter, with steps of its own; at 115 °C, stop and reset. -/
def execJunctionLimit (celsius : Nat) (s : State) : Out :=
  if 115 ≤ celsius then .next s.restart
  else .next { s with cooling := mhzStep s.cooling (decide (s.limits.junction < celsius)) }

end Sys2Proof.Machine
end

