-- ==== Sys2Proof/Machine/Flags.lean ====
section
/-! DEFINITION. FPMODE: the mode that a V syllable latches at issue (R103, R186) and the sticky flags that land with its
result (R105). -/

namespace Sys2Proof.Machine

/-- The rounding mode of FPMODE[1:0] (R102). -/
def rmOf (n : Nat) : RMode :=
  match n with
  | 0 => .near
  | 1 => .zero
  | 2 => .down
  | _ => .up

/-- FPMODE[3:0] as bundle q sees it: that of the last SYSWR two or more bundles before (R186). -/
def Coach.fpSeen (c : Coach) (q : Nat) : BitVec 4 :=
  match c.fpctl.find? fun e => e.1 ≤ q with
  | some e => e.2
  | none => 0

/-- What a syllable latches: rounding mode, DAZ, FTZ. -/
structure FpMode where
  rm : RMode
  daz : Bool
  ftz : Bool
  deriving DecidableEq, Repr

/-- The mode of a syllable, toward zero under .RZ (R103). -/
def Coach.fpMode (c : Coach) (q : Nat) (rz : Bool) : FpMode :=
  let m := c.fpSeen q
  { rm := if rz then .zero else rmOf (m.toNat % 4), daz := m.getLsbD 3, ftz := m.getLsbD 2 }

/-- The OR of the flags of the lanes in a mask. -/
def orFlags (m : Lanes) (fs : List Flags) : Flags :=
  (upto fs.length).foldl (fun a l => if m.getLsbD l then a ||| nth fs l 0 else a) 0

/-- Sticky flags land with a result (R105). -/
def Coach.flagsLater (c : Coach) (due seq : Nat) (b : Flags) : Coach :=
  if b = 0 then c else c.later due seq (.flags b) none

end Sys2Proof.Machine
end

