-- ==== Sys2Proof/Machine/Special.lean ====
section
/-! DEFINITION. The special functions (R176 to R178): the exact result, approximated in fixed point far below half an
ulp and rounded to nearest-even. The fixed-point precision of 512 bits exceeds what the hardest F32 argument of each
function needs (log 8). -/

namespace Sys2Proof.Machine

/-- Fixed-point fraction bits. -/
def fxP : Nat := 512

/-- One in fixed point. -/
def fxOne : Nat := 2 ^ fxP

/-- Sum of (1/d)^(2k+1) / (2k+1) with alternating or equal signs: `pow` is the next power, n the next odd number. -/
def oddSeries (alt : Bool) (d2 : Nat) : Nat → Nat → Nat → Int → Int
  | 0, _, _, acc => acc
  | fuel + 1, pow, n, acc =>
    let term : Int := (pow / n : Nat)
    oddSeries alt d2 fuel (pow / d2) (n + 2) (if alt && n % 4 == 3 then acc - term else acc + term)

/-- pi in fixed point, by Machin's formula. -/
def fxPi : Nat :=
  (16 * oddSeries true 25 120 (fxOne / 5) 1 0 - 4 * oddSeries true 57121 36 (fxOne / 239) 1 0).toNat

/-- ln 2 = 2 artanh(1/3) in fixed point. -/
def fxLn2 : Nat := (2 * oddSeries false 9 170 (fxOne / 3) 1 0).toNat

/-- Sum of t^k / k!: `term` is t^k / k!, k the next index. -/
def expSeries (t : Nat) : Nat → Nat → Nat → Nat → Nat
  | 0, _, _, acc => acc
  | fuel + 1, term, k, acc => expSeries t fuel (term * t / fxOne / k) (k + 1) (acc + term)

/-- e^t for t in fixed point. -/
def fxExp (terms t : Nat) : Nat := expSeries t terms fxOne 1 0

/-- The sine or cosine series from its first term: terms fall by t^2 / (k (k + 1)) and alternate. -/
def trigSeries (t2 : Nat) : Nat → Nat → Nat → Bool → Int → Int
  | 0, _, _, _, acc => acc
  | fuel + 1, term, k, neg, acc =>
    trigSeries t2 fuel (term * t2 / fxOne / (k * (k + 1))) (k + 2) (!neg) (if neg then acc - term else acc + term)

def fxSin (t : Nat) : Nat := (trigSeries (t * t / fxOne) 56 t 2 false 0).toNat
def fxCos (t : Nat) : Nat := (trigSeries (t * t / fxOne) 56 fxOne 1 false 0).toNat

/-- A finite magnitude in fixed point, rounded down. -/
def toFx (m : Nat) (e : Int) : Nat := if 0 ≤ e + fxP then m * 2 ^ (e + fxP).toNat else m / 2 ^ (-(e + fxP)).toNat

/-- A fixed-point result, inexact below its last bit, rounded to F32. -/
def fxRound (neg : Bool) (v : Nat) (e : Int) (inexact : Bool) : Nat :=
  (f32.round .near .ieee false neg v e inexact).1

/-- The integer square root below n, by bits from 2^k downward. -/
def isqrt (n : Nat) : Nat → Nat → Nat
  | 0, r => r
  | k + 1, r => let t := r + 2 ^ k; if t * t ≤ n then isqrt n k t else isqrt n k r

/-- A result: image and flags. -/
abbrev SfResult := Nat × Flags

def sfNan : SfResult := (f32.nan, flagIV)
def sfInf (neg : Bool) : Nat := f32.sign neg + 0x7F800000
def sfOne (neg : Bool) : Nat := f32.sign neg + 0x3F800000

/-- The exponent of m * 2^e made even, with at least 128 bits in m. -/
def evenScale (m : Nat) (e : Int) : Nat × Int :=
  let e1 := e - 256
  if e1 % 2 = 0 then (m * 2 ^ 256, e1) else (m * 2 ^ 257, e1 - 1)

def rcpOp (neg : Bool) (m : Nat) (e : Int) : SfResult :=
  if m = 0 then (sfInf neg, flagDZ)
  else (fxRound neg (2 ^ 256 / m) (-256 - e) (2 ^ 256 % m != 0), 0)

def sqrtOp (neg : Bool) (m : Nat) (e : Int) : SfResult :=
  if m = 0 then (f32.sign neg, 0)
  else if neg then sfNan
  else
    let (n, g) := evenScale m e
    let r := isqrt n 160 0
    (fxRound false r (g / 2) (r * r != n), 0)

/-- The reciprocal of the square root of n = m * 2^e, e even: the root of 2^800 / n. -/
def rsqOp (neg : Bool) (m : Nat) (e : Int) : SfResult :=
  if m = 0 then (sfInf neg, flagDZ)
  else if neg then sfNan
  else
    let (n, g) := if e % 2 = 0 then (m, e) else (2 * m, e - 1)
    let q := 2 ^ 800 / n
    let r := isqrt q 401 0
    (fxRound false r (-400 - g / 2) (r * r * n != 2 ^ 800), 0)

def exp2Op (neg : Bool) (m : Nat) (e : Int) : SfResult :=
  if m = 0 then (sfOne false, 0)
  else
    let big := 151 * 2 ^ fxP ≤ toFx m e
    if big then (if neg then 0 else sfInf false, 0)
    else
      let x : Int := if neg then -(toFx m e : Int) else (toFx m e : Int)
      let i := x / (fxOne : Int)
      let f := (x % (fxOne : Int)).toNat
      if f = 0 then (fxRound false 1 i false, 0)
      else (fxRound false (fxExp 100 (f * fxLn2 / fxOne)) (i - fxP) true, 0)

/-- Sum of z^(2k+1) / (2k+1). -/
def atanhSum (z2 : Nat) : Nat → Nat → Nat → Nat → Nat
  | 0, _, _, acc => acc
  | fuel + 1, pow, n, acc => atanhSum z2 fuel (pow * z2 / fxOne) (n + 2) (acc + pow / n)

/-- log2 of y = m / 2^L * 2^(L + e): the integer part plus ln(m / 2^L) / ln 2, with m / 2^L taken in 0.75 to 1.5. -/
def log2Op (neg : Bool) (m : Nat) (e : Int) : SfResult :=
  if m = 0 then (sfInf true, flagDZ)
  else if neg then sfNan
  else
    let l := Nat.log2 m
    let n : Int := (l : Int) + e
    let wide := 3 * 2 ^ l ≤ 2 * m
    let (n, d) : Int × Nat := if wide then (n + 1, 2 ^ (l + 1)) else (n, 2 ^ l)
    let num : Int := (m : Int) - (d : Int)
    if num = 0 then (fxRound (n < 0) n.natAbs 0 false, 0)
    else
      let z : Nat := num.natAbs * fxOne / (m + d)
      let z2 : Nat := z * z / fxOne
      let at2 : Nat := 2 * (atanhSum z2 140 z 1 0)
      let r : Int := (at2 * fxOne / fxLn2 : Nat)
      let t := n * (fxOne : Int) + (if num < 0 then -r else r)
      (fxRound (t < 0) t.natAbs (-(fxP : Int)) true, 0)
/-- Quadrant and remainder of a magnitude modulo pi / 2. -/
def trigReduce (m : Nat) (e : Int) : Nat × Nat :=
  let x := toFx m e
  let h := fxPi / 2
  (x / h % 4, x % h)

/-- sin of |x| from its quadrant and remainder: sign and magnitude. -/
def sinQuad (k r : Nat) : Bool × Nat :=
  match k % 4 with
  | 0 => (false, fxSin r)
  | 1 => (false, fxCos r)
  | 2 => (true, fxSin r)
  | _ => (true, fxCos r)

def sinOp (neg : Bool) (m : Nat) (e : Int) : SfResult :=
  if m = 0 then (f32.sign neg, 0)
  else
    let (k, r) := trigReduce m e
    let (b, v) := sinQuad k r
    (fxRound (neg != b) v (-(fxP : Int)) true, 0)

def cosOp (_neg : Bool) (m : Nat) (e : Int) : SfResult :=
  if m = 0 then (sfOne false, 0)
  else
    let (k, r) := trigReduce m e
    let (b, v) := sinQuad (k + 1) r
    (fxRound b v (-(fxP : Int)) true, 0)

def tanhOp (neg : Bool) (m : Nat) (e : Int) : SfResult :=
  if m = 0 then (f32.sign neg, 0)
  else if 9 * fxOne ≤ toFx m e then (sfOne neg, 0)
  else
    let x := fxExp 260 (2 * toFx m e)
    (fxRound neg ((x - fxOne) * fxOne / (x + fxOne)) (-(fxP : Int)) true, 0)

/-- A special function on a lane: NaN, infinity and then the finite case (R178); FTZ flushes without a flag (R176). -/
def sfLane (onInf : Bool → SfResult) (f : Bool → Nat → Int → SfResult) (md : FpMode) (x : Nat) : SfResult :=
  let (w, fl) := match f32.read md.daz x with
    | .nan sig => (f32.nan, if sig then flagIV else 0)
    | .inf neg => onInf neg
    | .fin neg m e => f neg m e
  let body := w % 2 ^ 31
  (if md.ftz && body != 0 && body < 2 ^ 23 then w - body else w, fl)

def rcpLane : FpMode → Nat → SfResult := sfLane (fun neg => (f32.sign neg, 0)) rcpOp
def rsqLane : FpMode → Nat → SfResult := sfLane (fun neg => if neg then sfNan else (0, 0)) rsqOp
def sqrtLane : FpMode → Nat → SfResult := sfLane (fun neg => if neg then sfNan else (sfInf false, 0)) sqrtOp
def exp2Lane : FpMode → Nat → SfResult := sfLane (fun neg => (if neg then 0 else sfInf false, 0)) exp2Op
def log2Lane : FpMode → Nat → SfResult := sfLane (fun neg => if neg then sfNan else (sfInf false, 0)) log2Op
def sinLane : FpMode → Nat → SfResult := sfLane (fun _ => sfNan) sinOp
def cosLane : FpMode → Nat → SfResult := sfLane (fun _ => sfNan) cosOp
def tanhLane : FpMode → Nat → SfResult := sfLane (fun neg => (sfOne neg, 0)) tanhOp

end Sys2Proof.Machine
end

