-- ==== Sys2Proof/Machine/Vector.lean ====
section
/-! DEFINITION. The V slot (R162 to R188): integer, floating-point, conversion, special-function, cross-lane and block
syllables. -/

namespace Sys2Proof.Machine

/-! The shared forms. -/

/-- What a lane gives: the image and the flags it sets. -/
abbrev LaneRes := Word × Flags

/-- Lane results where the mask holds. -/
def laneRes (w : Nat) (m : Lanes) (f : Nat → LaneRes) : List LaneRes :=
  (upto w).map fun l => if m.getLsbD l then f l else (0, 0)

/-- A V syllable with a vector result: `f` gives a lane's result from the active mask. -/
def vResult (s : State) (op : Coach → Opnds) (d : VDst) (f : State → Coach → Lanes → Nat → LaneRes) : Out :=
  onCoach s fun k c =>
    let o := op c
    let m := s.active c o.guard
    let r := laneRes c.width m (f s c m)
    let due := s.vDue c o
    .next (s.putCoach k
      ((c.vecResult due s.cur.seq d m (r.map (·.1))).flagsLater due s.cur.seq (orFlags m (r.map (·.2)))))

/-- A V syllable with a predicate result. -/
def vPred (s : State) (op : Coach → Opnds) (p : Nat) (f : State → Coach → Lanes → Nat → Bool × Flags) : Out :=
  onCoach s fun k c =>
    let o := op c
    let m := s.active c o.guard
    let r := (upto c.width).map fun l => if m.getLsbD l then f s c m l else (false, 0)
    let due := s.vDue c o
    let b := lanesWhere c.width fun l => (nth r l (false, 0)).1
    .next (s.putCoach k
      ((c.prdResult due s.cur.seq p m b).flagsLater due s.cur.seq (orFlags m (r.map (·.2)))))

/-- An image without flags. -/
def plain (w : Word) : LaneRes := (w, 0)

/-- A number as an image. -/
def wnat (n : Nat) : Word := BitVec.ofNat 32 n

/-! Integer (R166, R167). -/

def vInt2 (opc : Nat) (f : Word → Word → Word) (o : VBin) (s : State) : Out :=
  vResult s (opVBin · opc o) o.d fun s c _ l =>
    plain (f (s.rdV c o.win intConst l o.a) (s.rdV c o.win intConst l o.b))

def vInt1 (opc : Nat) (f : Word → Word) (o : VUn) (s : State) : Out :=
  vResult s (opVUn · opc o) o.d fun s c _ l => plain (f (s.rdV c o.win intConst l o.a))

def vInt3 (opc : Nat) (f : Word → Word → Word → Word) (o : VTri) (s : State) : Out :=
  vResult s (opVTri · opc o) o.d fun s c _ l =>
    plain (f (s.rdV c o.win intConst l o.a) (s.rdV c o.win intConst l o.b) (s.rdV c o.win intConst l o.c))

def minI32v : Int := -(2 ^ 31)
def maxI32v : Int := 2 ^ 31 - 1

def iaddOp (sat : Bool) (a b : Word) : Word :=
  if sat then BitVec.ofInt 32 (clampInt minI32v maxI32v (a.toInt + b.toInt)) else a + b
def isubOp (sat : Bool) (a b : Word) : Word :=
  if sat then BitVec.ofInt 32 (clampInt minI32v maxI32v (a.toInt - b.toInt)) else a - b
def imulhI32Op (a b : Word) : Word := BitVec.ofInt 32 ((a.toInt * b.toInt) / 2 ^ 32)
def imulhN32Op (a b : Word) : Word := wnat (a.toNat * b.toNat / 2 ^ 32)
def iminI32Op (a b : Word) : Word := if a.toInt ≤ b.toInt then a else b
def imaxI32Op (a b : Word) : Word := if a.toInt ≤ b.toInt then b else a
def iminN32Op (a b : Word) : Word := if a.toNat ≤ b.toNat then a else b
def imaxN32Op (a b : Word) : Word := if a.toNat ≤ b.toNat then b else a
def vShlOp (a b : Word) : Word := if b.toNat < 32 then a <<< b.toNat else 0
def shrN32Op (a b : Word) : Word := if b.toNat < 32 then a >>> b.toNat else 0
def shrI32Op (a b : Word) : Word :=
  if b.toNat < 32 then a.sshiftRight b.toNat else if a.getLsbD 31 then BitVec.allOnes 32 else 0

/-- BFX (R167). -/
def vBfxOp (sx : Bool) (a b : Word) : Word :=
  if bits b.toNat 31 14 ≠ 0 ∨ bits b.toNat 7 5 ≠ 0 then 0
  else wnat (bfxNat 32 (bits b.toNat 4 0) (bits b.toNat 13 8) sx a.toNat)

/-- Byte k of an image, and as signed. -/
def byteOf (a : Word) (k : Nat) : Nat := a.toNat / 2 ^ (8 * k) % 256
def sbyteOf (a : Word) (k : Nat) : Int := (BitVec.ofNat 8 (byteOf a k)).toInt

def idp4I8Op (sat : Bool) (a b c : Word) : Word :=
  let z := (upto 4).foldl (fun z k => z + sbyteOf a k * sbyteOf b k) c.toInt
  BitVec.ofInt 32 (if sat then clampInt minI32v maxI32v z else z)

def idp4N8Op (sat : Bool) (a b c : Word) : Word :=
  let z := (upto 4).foldl (fun z k => z + byteOf a k * byteOf b k) c.toNat
  wnat (if sat then min z (2 ^ 32 - 1) else z)

def execIaddI32 (o : VBin) (s : State) : Out := vInt2 0x01 (iaddOp o.m) o s
def execIsubI32 (o : VBin) (s : State) : Out := vInt2 0x02 (isubOp o.m) o s
def execImulI32 (o : VBin) (s : State) : Out := vInt2 0x03 (· * ·) o s
def execImulhI32 (o : VBin) (s : State) : Out := vInt2 0x04 imulhI32Op o s
def execImulhN32 (o : VBin) (s : State) : Out := vInt2 0x05 imulhN32Op o s
def execImadI32 (o : VTri) (s : State) : Out := vInt3 0x06 (fun a b c => a * b + c) o s
def execIminI32 (o : VBin) (s : State) : Out := vInt2 0x07 iminI32Op o s
def execImaxI32 (o : VBin) (s : State) : Out := vInt2 0x08 imaxI32Op o s
def execIminN32 (o : VBin) (s : State) : Out := vInt2 0x09 iminN32Op o s
def execImaxN32 (o : VBin) (s : State) : Out := vInt2 0x0A imaxN32Op o s
def execVAnd (o : VBin) (s : State) : Out := vInt2 0x0B (· &&& ·) o s
def execVOr (o : VBin) (s : State) : Out := vInt2 0x0C (· ||| ·) o s
def execVXor (o : VBin) (s : State) : Out := vInt2 0x0D (· ^^^ ·) o s
def execVShl (o : VBin) (s : State) : Out := vInt2 0x0E vShlOp o s
def execShrN32 (o : VBin) (s : State) : Out := vInt2 0x0F shrN32Op o s
def execShrI32 (o : VBin) (s : State) : Out := vInt2 0x10 shrI32Op o s
def execVPopc (o : VUn) (s : State) : Out := vInt1 0x11 (fun a => wnat (popcount a.toNat 32)) o s
def execVClz (o : VUn) (s : State) : Out := vInt1 0x12 (fun a => wnat (leadingZeros a.toNat 32)) o s
def execVBfx (o : VBin) (s : State) : Out := vInt2 0x13 (vBfxOp o.m) o s
def execVMov (o : VUn) (s : State) : Out := vInt1 0x15 id o s
def execIdp4I8 (o : VTri) (s : State) : Out := vInt3 0x16 (idp4I8Op o.m) o s
def execIdp4N8 (o : VTri) (s : State) : Out := vInt3 0x17 (idp4N8Op o.m) o s

/-- SEL (R166): pc is read at issue in the lane. -/
def execSel (o : VSel) (s : State) : Out :=
  vResult s (opVSel · 0x14 o) o.d fun s c _ l =>
    plain (if (s.readP c o.pc).getLsbD l != o.m then s.rdV c o.win intConst l o.a else s.rdV c o.win intConst l o.b)

def execLaneid (o : VLane) (s : State) : Out := vResult s (opVLane · 0x18 o) o.d fun _ _ _ l => plain (wnat l)

def execIcmpI32 (o : VCmp) (s : State) : Out :=
  vPred s (opVCmp · 0x19 o) o.pd fun s c _ l =>
    (intCond o.cc (s.rdV c o.win intConst l o.a).toInt (s.rdV c o.win intConst l o.b).toInt, 0)

def execIcmpN32 (o : VCmp) (s : State) : Out :=
  vPred s (opVCmp · 0x1A o) o.pd fun s c _ l =>
    (intCond o.cc (s.rdV c o.win intConst l o.a).toNat (s.rdV c o.win intConst l o.b).toNat, 0)

/-- The active lanes in which CHK.V's operands differ (R184). -/
def chkVDiff (s : State) (c : Coach) (o : VChk) : Lanes :=
  let m := s.active c o.g
  lanesWhere c.width fun l => m.getLsbD l && s.rdV c o.win intConst l o.a != s.rdV c o.win intConst l o.b

def execChkV (o : VChk) (s : State) : Out :=
  onCoach s fun k c =>
    if chkVDiff s c o = 0 then .next s else raise s k (mkTrap 0x05 0 (chkVDiff s c o))

/-! Floating point (R169 to R175). -/

/-- Constants of F32 operands, and of packed pairs in both halves (R41). -/
def f32Const (k : Nat) : Word := wnat (f32.const k)
def pairConst (f : Fmt) (k : Nat) : Word := wnat (f.const k * 65537)

/-- A V syllable on F32 with three, two or one sources: `f` works on images under the latched mode. -/
def vFp2 (opc : Nat) (kf : Nat → Word) (rz : Bool) (f : FpMode → Nat → Nat → Nat × Flags) (o : VBin) (s : State) : Out :=
  vResult s (opVBin · opc o) o.d fun s c _ l =>
    let r := f (c.fpMode s.cur.seq rz) (s.rdV c o.win kf l o.a).toNat (s.rdV c o.win kf l o.b).toNat
    (wnat r.1, r.2)

def vFp3 (opc : Nat) (kf : Nat → Word) (f : FpMode → Nat → Nat → Nat → Nat × Flags) (o : VTri) (s : State) : Out :=
  vResult s (opVTri · opc o) o.d fun s c _ l =>
    let r := f (c.fpMode s.cur.seq o.m) (s.rdV c o.win kf l o.a).toNat (s.rdV c o.win kf l o.b).toNat
      (s.rdV c o.win kf l o.c).toNat
    (wnat r.1, r.2)

def vFp1 (opc : Nat) (kf : Nat → Word) (rz : Bool) (f : FpMode → Nat → Nat × Flags) (o : VUn) (s : State) : Out :=
  vResult s (opVUn · opc o) o.d fun s c _ l =>
    let r := f (c.fpMode s.cur.seq rz) (s.rdV c o.win kf l o.a).toNat
    (wnat r.1, r.2)

/-- The lane operations on one format. -/
def faddLane (f : Fmt) (md : FpMode) (a b : Nat) : Nat × Flags := f.addOp md.rm md.ftz (f.read md.daz a) (f.read md.daz b)
def fsubLane (f : Fmt) (md : FpMode) (a b : Nat) : Nat × Flags :=
  f.addOp md.rm md.ftz (f.read md.daz a) (f.read md.daz b).neg
def fmulLane (f : Fmt) (md : FpMode) (a b : Nat) : Nat × Flags := f.mulOp md.rm md.ftz (f.read md.daz a) (f.read md.daz b)
def ffmaLane (f : Fmt) (md : FpMode) (a b c : Nat) : Nat × Flags :=
  f.fmaOp md.rm md.ftz (f.read md.daz a) (f.read md.daz b) (f.read md.daz c)

/-- A pair operation from its element operation (R171). -/
def pair2 (g : FpMode → Nat → Nat → Nat × Flags) (md : FpMode) (a b : Nat) : Nat × Flags :=
  let lo := g md (a % 65536) (b % 65536)
  let hi := g md (a / 65536) (b / 65536)
  (lo.1 + 65536 * hi.1, lo.2 ||| hi.2)

def pair3 (g : FpMode → Nat → Nat → Nat → Nat × Flags) (md : FpMode) (a b c : Nat) : Nat × Flags :=
  let lo := g md (a % 65536) (b % 65536) (c % 65536)
  let hi := g md (a / 65536) (b / 65536) (c / 65536)
  (lo.1 + 65536 * hi.1, lo.2 ||| hi.2)

/-- FMIN and FMAX (R172), exact whatever FTZ holds (log 86). -/
def fminmaxLane (isMax : Bool) (md : FpMode) (a b : Nat) : Nat × Flags :=
  let x := f32.read md.daz a
  let y := f32.read md.daz b
  let first := if isMax then !Num.lt true x y else !Num.lt true y x
  let z := if x.isNan then (if y.isNan then .nan false else y) else if y.isNan then x else if first then x else y
  ((f32.encode .near .ieee false z).1, x.sigFlag ||| y.sigFlag)

/-- The conditions of FCMP (R165) and their flags (R173). -/
def fcmpLane (cc : BitVec 3) (md : FpMode) (a b : Nat) : Bool × Flags :=
  let x := f32.read md.daz a
  let y := f32.read md.daz b
  let un := x.isNan || y.isNan
  let lt := Num.lt false x y
  let gt := Num.lt false y x
  let sig := x.sigFlag ||| y.sigFlag
  let ordered := if un then flagIV else 0
  match cc.toNat with
  | 0 => (!un && !lt && !gt, sig)
  | 1 => (un || lt || gt, sig)
  | 2 => (!un && lt, ordered)
  | 3 => (!un && !gt, ordered)
  | 4 => (!un && gt, ordered)
  | 5 => (!un && !lt, ordered)
  | 6 => (un, sig)
  | _ => (!un, sig)

/-- FRND (R174). -/
def frndLane (md : FpMode) (a : Nat) : Nat × Flags :=
  match f32.read md.daz a with
  | .nan sig => (f32.nan, if sig then flagIV else 0)
  | .inf neg => (sfInf neg, 0)
  | .fin neg m e =>
    let z := (toIntegral md.rm neg m e).1
    ((f32.encode .near .ieee false (.fin neg z.natAbs 0)).1, 0)

def execFaddF32 (o : VBin) (s : State) : Out := vFp2 0x20 f32Const o.m (faddLane f32) o s
def execFsubF32 (o : VBin) (s : State) : Out := vFp2 0x21 f32Const o.m (fsubLane f32) o s
def execFmulF32 (o : VBin) (s : State) : Out := vFp2 0x22 f32Const o.m (fmulLane f32) o s
def execFfmaF32 (o : VTri) (s : State) : Out := vFp3 0x23 f32Const (ffmaLane f32) o s
def execFminF32 (o : VBin) (s : State) : Out := vFp2 0x24 f32Const false (fminmaxLane false) o s
def execFmaxF32 (o : VBin) (s : State) : Out := vFp2 0x25 f32Const false (fminmaxLane true) o s
def execFcmpF32 (o : VCmp) (s : State) : Out :=
  vPred s (opVCmp · 0x26 o) o.pd fun s c _ l =>
    fcmpLane o.cc (c.fpMode s.cur.seq false) (s.rdV c o.win f32Const l o.a).toNat (s.rdV c o.win f32Const l o.b).toNat
def execFrndF32 (o : VUn) (s : State) : Out := vFp1 0x27 f32Const o.m frndLane o s
def execFaddF16x2 (o : VBin) (s : State) : Out := vFp2 0x28 (pairConst f16) o.m (pair2 (faddLane f16)) o s
def execFmulF16x2 (o : VBin) (s : State) : Out := vFp2 0x29 (pairConst f16) o.m (pair2 (fmulLane f16)) o s
def execFfmaF16x2 (o : VTri) (s : State) : Out := vFp3 0x2A (pairConst f16) (pair3 (ffmaLane f16)) o s
def execFaddB16x2 (o : VBin) (s : State) : Out := vFp2 0x2B (pairConst b16) o.m (pair2 (faddLane b16)) o s
def execFmulB16x2 (o : VBin) (s : State) : Out := vFp2 0x2C (pairConst b16) o.m (pair2 (fmulLane b16)) o s
def execFfmaB16x2 (o : VTri) (s : State) : Out := vFp3 0x2D (pairConst b16) (pair3 (ffmaLane b16)) o s

/-! Conversions (R106, R107, R175). -/

/-- An integer to F32. -/
def cvtFromInt (md : FpMode) (v : Int) : Nat × Flags := f32.round md.rm .ieee false (v < 0) v.natAbs 0 false

/-- F32 to an integer range. -/
def cvtToInt (lo hi : Int) (md : FpMode) (a : Nat) : Nat × Flags :=
  let out (v : Int) : Nat := (BitVec.ofInt 32 v).toNat
  match f32.read md.daz a with
  | .nan _ => (0, flagIV)
  | .inf neg => (out (if neg then lo else hi), flagIV)
  | .fin neg m e =>
    let (z, inexact) := toIntegral md.rm neg m e
    if z < lo ∨ hi < z then (out (clampInt lo hi z), flagIV) else (out z, if inexact then flagNX else 0)

/-- F32 to a narrow format, nearest-even (R103, R106). FTZ applies to F16 and B16. -/
def cvtNarrow (f : Fmt) (ftz : Bool) (ns : Bool) (md : FpMode) (a : Nat) : Nat × Flags :=
  let x := f32.read md.daz a
  let r := f.encode .near (if ns then .ns else .sat) (ftz && md.ftz) x
  (r.1, r.2 ||| x.sigFlag)

/-- A pair conversion, elements of `w` bits (R101). -/
def cvtPair (f : Fmt) (ftz : Bool) (w : Nat) (ns : Bool) (md : FpMode) (a b : Nat) : Nat × Flags :=
  let lo := cvtNarrow f ftz ns md a
  let hi := cvtNarrow f ftz ns md b
  (lo.1 + 2 ^ w * hi.1, lo.2 ||| hi.2)

/-- A narrow format to F32; DAZ acts on F16 and B16 sources only. -/
def cvtWiden (f : Fmt) (daz : Bool) (w : Nat) (md : FpMode) (a : Nat) : Nat × Flags :=
  let x := f.read (daz && md.daz) (a % 2 ^ w)
  let r := f32.encode md.rm .ieee md.ftz x
  (r.1, r.2 ||| x.sigFlag)

/-- Constants of F16 and B16 sources stand in each half. -/
def execCvtF32I32 (o : VUn) (s : State) : Out :=
  vFp1 0x30 intConst o.m (fun md a => cvtFromInt md (wnat a).toInt) o s
def execCvtF32N32 (o : VUn) (s : State) : Out := vFp1 0x31 intConst o.m (fun md a => cvtFromInt md a) o s
def execCvtI32F32 (o : VUn) (s : State) : Out := vFp1 0x32 f32Const o.m (cvtToInt minI32v maxI32v) o s
def execCvtN32F32 (o : VUn) (s : State) : Out := vFp1 0x33 f32Const o.m (cvtToInt 0 (2 ^ 32 - 1)) o s
def execCvtF16x2F32 (o : VBin) (s : State) : Out := vFp2 0x34 f32Const false (cvtPair f16 true 16 o.m) o s
def execCvtB16x2F32 (o : VBin) (s : State) : Out := vFp2 0x35 f32Const false (cvtPair b16 true 16 o.m) o s
def execCvtF32F16 (o : VUn) (s : State) : Out := vFp1 0x36 (pairConst f16) false (cvtWiden f16 true 16) o s
def execCvtF32B16 (o : VUn) (s : State) : Out := vFp1 0x37 (pairConst b16) false (cvtWiden b16 true 16) o s
def execCvtE4m3x2F32 (o : VBin) (s : State) : Out := vFp2 0x38 f32Const false (cvtPair e4m3 false 8 o.m) o s
def execCvtE5m2x2F32 (o : VBin) (s : State) : Out := vFp2 0x39 f32Const false (cvtPair e5m2 false 8 o.m) o s
def execCvtF32E4m3 (o : VUn) (s : State) : Out := vFp1 0x3A intConst false (cvtWiden e4m3 false 8) o s
def execCvtF32E5m2 (o : VUn) (s : State) : Out := vFp1 0x3B intConst false (cvtWiden e5m2 false 8) o s

/-! Special functions (R176). -/

def execRcpF32 (o : VUn) (s : State) : Out := vFp1 0x40 f32Const false rcpLane o s
def execRsqF32 (o : VUn) (s : State) : Out := vFp1 0x41 f32Const false rsqLane o s
def execSqrtF32 (o : VUn) (s : State) : Out := vFp1 0x42 f32Const false sqrtLane o s
def execExp2F32 (o : VUn) (s : State) : Out := vFp1 0x43 f32Const false exp2Lane o s
def execLog2F32 (o : VUn) (s : State) : Out := vFp1 0x44 f32Const false log2Lane o s
def execSinF32 (o : VUn) (s : State) : Out := vFp1 0x45 f32Const false sinLane o s
def execCosF32 (o : VUn) (s : State) : Out := vFp1 0x46 f32Const false cosLane o s
def execTanhF32 (o : VUn) (s : State) : Out := vFp1 0x47 f32Const false tanhLane o s

/-! Cross-lane (R179 to R183). -/

/-- A shuffle: the source lane from W, the lane and k. -/
def shuffle (opc : Nat) (src : Nat → Nat → Nat → Nat) (o : VBin) (s : State) : Out :=
  vResult s (opVBin · opc o) o.d fun s c _ l =>
    plain (s.rdV c o.win intConst (src c.width l (s.rdV c o.win intConst l o.b).toNat) o.a)

/-- Source lanes by width, lane and B. -/
def srcIdx (w _l k : Nat) : Nat := k % w
def srcUp (_w l k : Nat) : Nat := if k ≤ l then l - k else l
def srcDn (w l k : Nat) : Nat := if l + k < w then l + k else l
def srcXor (w l k : Nat) : Nat := l ^^^ (k % w)

def execShflIdx (o : VBin) (s : State) : Out := shuffle 0x50 srcIdx o s
def execShflUp (o : VBin) (s : State) : Out := shuffle 0x51 srcUp o s
def execShflDn (o : VBin) (s : State) : Out := shuffle 0x52 srcDn o s
def execShflXor (o : VBin) (s : State) : Out := shuffle 0x53 srcXor o s

/-- The active lanes in which VOTE's source holds (R181). -/
def voteLanes (s : State) (c : Coach) (win : BitVec 2) (m : Lanes) : VoteSrc → Lanes
  | .prd p => s.readP c p &&& m
  | .vec a => lanesWhere c.width fun l => m.getLsbD l && s.rdV c win intConst l a != 0

def execVoteAny (o : VVote) (s : State) : Out :=
  vPred s (opVVote · 0x54 o) o.pd fun s c m _ => (voteLanes s c o.win m o.a != 0, 0)

def execVoteAll (o : VVote) (s : State) : Out :=
  vPred s (opVVote · 0x55 o) o.pd fun s c m _ => (voteLanes s c o.win m o.a == m, 0)

def execBallot (o : VBallot) (s : State) : Out :=
  vResult s (opVBallot · 0x56 o) o.d fun s c m _ =>
    let x := (s.readP c o.pa &&& m).toNat
    plain (wnat (if o.hi then x / 2 ^ 32 else x))

/-- The sum of a source over the active lanes that satisfy a condition. -/
def laneSum (s : State) (c : Coach) (win : BitVec 2) (a : VSrc) (m : Lanes) (p : Nat → Bool) : Word :=
  (upto c.width).foldl (fun z l => if m.getLsbD l && p l then z + s.rdV c win intConst l a else z) 0

def execRedIadd (o : VUn) (s : State) : Out :=
  vResult s (opVUn · 0x57 o) o.d fun s c m _ => plain (laneSum s c o.win o.a m fun _ => true)

def execScanIadd (o : VUn) (s : State) : Out :=
  vResult s (opVUn · 0x59 o) o.d fun s c m l =>
    plain (laneSum s c o.win o.a m fun i => if o.m then i < l else i ≤ l)

/-- One addition of the tree; the image is rounded in F32. -/
def redJoin (md : FpMode) (x y : Option (Num × Flags)) : Option (Num × Flags) :=
  match x, y with
  | none, y => y
  | x, none => x
  | some (a, f), some (b, g) =>
    let r := f32.addOp md.rm md.ftz a b
    some (f32.decode r.1, f ||| g ||| r.2)

/-- One level of the tree of R182: neighbours join. -/
def redPairs (md : FpMode) : List (Option (Num × Flags)) → List (Option (Num × Flags))
  | x :: y :: l => redJoin md x y :: redPairs md l
  | l => l

/-- The tree over up to 2^n lanes. -/
def redTree (md : FpMode) : Nat → List (Option (Num × Flags)) → List (Option (Num × Flags))
  | 0, l => l
  | n + 1, l => redTree md n (redPairs md l)

/-- RED.FADD.F32 (R182): the result's image and the flags of every addition. -/
def redFadd (s : State) (c : Coach) (o : VUn) (m : Lanes) : Nat × Flags :=
  let md := c.fpMode s.cur.seq o.m
  let ts : List (Option (Num × Flags)) := (upto c.width).map fun l =>
    if m.getLsbD l then
      let x := f32.read md.daz (s.rdV c o.win f32Const l o.a).toNat
      some (x, x.sigFlag)
    else none
  match (redTree md 6 ts).head? with
  | some (some (x, fl)) => ((f32.encode .near .ieee false x).1, fl)
  | _ => (0, 0)

def execRedFaddF32 (o : VUn) (s : State) : Out :=
  vResult s (opVUn · 0x58 o) o.d fun s c m _ => let r := redFadd s c o m; (wnat r.1, r.2)

/-! Block encoding (R99, R183, R187). -/

/-- The inputs of block j: +0 where no active lane stands. -/
def blockInputs (s : State) (c : Coach) (o : VUn) (m : Lanes) (j : Nat) : List Num :=
  (upto 32).map fun i =>
    let l := 32 * j + i
    if l < c.width && m.getLsbD l then f32.decode (s.rdV c o.win f32Const l o.a).toNat else .fin false 0 0

/-- The result word of a lane. -/
def blockWord (r : Nat × Nat × List Nat × BlockNote) (i : Nat) : Word :=
  wnat (nth r.2.2.1 i 0 + 2 ^ 8 * r.1 + 2 ^ 16 * r.2.1)

/-- The record of a block, if it has one. -/
def State.blockRecord (s : State) (k j : Nat) (d4 : Bool) (n : BlockNote) : State :=
  match n with
  | .none => s
  | .sat count => s.record k 0 0x20 s.cur.pc (dnat (j + 256 * count + 65536 * bnat d4))
  | .nan ovf => s.record k 0 0x21 s.cur.pc (dnat (j + 65536 * bnat d4 + 2 ^ 24 * bnat ovf))

def blkq (opc : Nat) (d4 : Bool) (o : VUn) (s : State) : Out :=
  let enc (s : State) (c : Coach) (m : Lanes) (j : Nat) := blockEncode d4 o.m (blockInputs s c o m j)
  let s1 := match s.cur.coach with
    | none => s
    | some k =>
      let c := s.coach k
      let m := s.active c o.g
      if m = 0 then s
      else (upto ((c.width + 31) / 32)).foldl (fun t j => t.blockRecord k j d4 (enc s c m j).2.2.2) s
  vResult s1 (opVUn · opc o) o.d fun s c m l => plain (blockWord (enc s c m (l / 32)) (l % 32))

def execBlkqD8 (o : VUn) (s : State) : Out := blkq 0x5A false o s
def execBlkqD4 (o : VUn) (s : State) : Out := blkq 0x5B true o s

/-- An empty syllable (R37). -/
def execNop (_slot : Slot) (_grd : BitVec 5) (s : State) : Out := .next s

end Sys2Proof.Machine
end

