-- ==== Sys2Proof/Machine/Issue.lean ====
section
/-! DEFINITION. Issue: which coach issues (R139, R140), the checks of one bundle in the order of R65, its syllables, and
what follows it: rotation, LEND, the delay bundle, the gap, the nominal schedule (R31, R33, R34, R51, R53). The
meaning of an instruction is a parameter here; Step gives it exec. -/

namespace Sys2Proof.Machine

/-! Checks. -/

/-- C opcodes that may not stand in a delay bundle (R119). -/
def delayForbidden (o : Nat) : Bool :=
  (0x20 ≤ o && o ≤ 0x26) || o == 0x2C || (0x38 ≤ o && o ≤ 0x3B) || (0x48 ≤ o && o ≤ 0x4A)

/-- C opcodes that may not stand in a LEND bundle (R34, R133). -/
def lendForbidden (o : Nat) : Bool := (0x20 ≤ o && o ≤ 0x23) || o == 0x26 || o == 0x2C

/-- The bundle in execution: its decoded form and raw syllables. -/
structure Bundle where
  d : Decoded
  raw : List RawSyl
  deriving DecidableEq, Repr

/-- The four slots in order. -/
def Bundle.slots (b : Bundle) : List SlotRes := [b.d.v, b.d.m, b.d.x, b.d.c]

/-- The bundle of some bytes. -/
def bundleOf (s : State) (bs : List Byte) : Bundle :=
  let ws := wordsOfBytes bs
  let n := bundleBits (ws.take 6)
  { d := decodeBundle s.feature (ws.take 6) (ws.drop 6),
    raw := [rawOfBits (n / 2 ^ 32), rawOfBits (n / 2 ^ 72), rawOfBits (n / 2 ^ 112), rawOfBits (n / 2 ^ 152)] }

/-- A bundle of coach k comes into execution. -/
def State.openBundle (s : State) (k : Nat) (b : Bundle) : State :=
  let c := s.coach k
  s.setCur fun _ =>
    { coach := some k, pc := c.pc, cycle := s.now k, seq := c.seq, gap := b.d.gap, litc := b.d.litc, status := .done,
      npc := none, pend := none, joined := false, delay := c.pend.isSome }

/-- The instruction of a well-formed slot. -/
def slotInstr? : SlotRes → Option Instr
  | .ok i => some i
  | _ => none

/-- The operands of a well-formed slot. -/
def slotOps (s : State) (c : Coach) (r : SlotRes) : Option Opnds := (slotInstr? r).bind (operands s c)

/-- Destinations that earlier slots name. -/
def earlierDests (s : State) (c : Coach) (b : Bundle) (n : Nat) : List (Nat × Nat) :=
  (b.slots.take n).flatMap fun r => match slotOps s c r with
    | some o => o.writes.map fun w => (w.kind, w.reg)
    | none => []

/-- A multi-register operand of a matrix syllable that reaches past v191: its field and code (R298, R299). -/
def runCause (s : State) (c : Coach) : Instr → List (Nat × Nat)
  | .mlodge o => if 192 < o.a + 1536 / c.width then [(3, 37)] else []
  | .mrd o => if 192 < o.d + runRegs c (s.rdS c o.b) then [(2, 37)] else []
  | .mwr o => if 192 < o.a + runRegs c (s.rdS c o.b) then [(3, 37)] else []
  | _ => []

/-- The destinations that the fields of a malformed syllable name, as kinds and registers: a cause of field D comes before
one of a later field (R65). Of an MRD run, the first register. -/
def rawDests (c : Coach) (n : Nat) (r : RawSyl) : List (Nat × Nat) :=
  let o := r.opc
  let vec (k : Nat) : List (Nat × Nat) := if r.d < 0xC0 then (upto k).map fun i => (0, c.renV (r.d + i)) else []
  let scl : List (Nat × Nat) := if r.d < 0x40 then [(1, c.renS r.d)] else []
  match n with
  | 0 =>
    if o = 0x19 ∨ o = 0x1A ∨ o = 0x26 then [(2, r.d % 16)]
    else if o = 0x54 ∨ o = 0x55 then [(2, r.d)]
    else if o = 0x1B then [] else vec 1
  | 1 =>
    let load := 0x08 ≤ o ∧ o ≤ 0x0C ∨ o = 0x1E ∨ o = 0x20
    if o = 0x01 ∨ o = 0x02 then [(3, r.d)]
    else if load then vec (mRegs o) ++ (if 4 ≤ r.mod then [(2, r.b / 16)] else [])
    else if o = 0x18 ∨ o = 0x19 ∨ o = 0x1C ∨ 0x30 ≤ o ∧ o ≤ 0x37 then vec (mRegs o)
    else if o = 0x41 then scl else []
  | 2 => if o = 0x14 ∨ o = 0x22 then vec 1 else if o = 0x06 ∨ o = 0x23 then scl else []
  | _ =>
    if o = 0x14 ∨ o = 0x15 ∨ 0x18 ≤ o ∧ o ≤ 0x1B ∨ o = 0x1D then [(2, r.d)]
    else if o ≤ 0x13 ∨ o = 0x1C ∨ o = 0x21 ∨ o = 0x23 ∧ r.mod % 2 = 1 ∨ o = 0x32 ∨ o = 0x3A ∨ o = 0x40 ∨ 0x48 ≤ o then scl
    else if o = 0x41 then scl ++ [(2, r.a), (2, r.a + 1)] else []

/-- A malformed target of a transfer that would be taken (R64, R118, R124): its field and value. Of a JTAB, whose table is read once
every index is in range, the index (R127). -/
def targetCause (s : State) (c : Coach) : Instr → List (Nat × Nat)
  | .bra o =>
    let a := s.target c o.t
    if s.active c o.g = 0 ∨ (o.all ∧ c.path &&& ~~~s.guardLanes c o.g ≠ 0) ∨ !badTarget a then [] else [(3, a.toNat)]
  | .call o => if s.active c o.g = 0 ∨ !badTarget (s.target c o.t) then [] else [(3, (s.target c o.t).toNat)]
  | .ret o =>
    let a := s.rdS c o.a
    let join := match c.stack with | t :: _ => t.dcall && t.dret.setWidth 64 == a | [] => false
    if s.active c o.g = 0 ∨ join = true ∨ !badTarget a then [] else [(3, a.toNat)]
  | .split o =>
    if c.path = 0 then []
    else (if badTarget (relTarget s o.els) then [(3, (relTarget s o.els).toNat)] else []) ++
      (if badTarget (relTarget s o.join) then [(4, (relTarget s o.join).toNat)] else [])
  | .jtab o =>
    let is := ((upto c.width).filter fun l => c.path.getLsbD l).map fun l => (s.rdOff c l o.a).toNat
    if is.any fun i => c.dtlen.toNat ≤ i then []
    else match (sortNat is).find? fun i => badTarget (s.dtEntry c i) with
      | some i => [(3, i)]
      | none => []
  | _ => []

/-- The causes that a slot has in step 2 of R65, as fields and values. -/
def slotCauses (s : State) (c : Coach) (delay : Bool) (b : Bundle) (n : Nat) : List (Nat × Nat) :=
  let r := nth b.raw n { opc := 0, grd := 0, d := 0, a := 0, b := 0, mod := 0 }
  let res := nth b.slots n (.bad ⟨0, 0⟩)
  let opc := if n = 3 ∧ ((delay && delayForbidden r.opc) || (b.d.lend && lendForbidden r.opc)) then [(0, r.opc)] else []
  let bad := match res with | .bad e => [(e.field, e.value)] | _ => []
  let dests := match slotOps s c res with
    | some o => o.writes.map fun (w : Use) => (w.kind, w.reg)
    | none => if bad = [] then [] else rawDests c n r
  let stage := b.d.lend && dests.any fun w => w.1 == 2 && 8 ≤ w.2 && w.2 ≤ 11
  let dup := dests.any fun w => (earlierDests s c b n).contains w
  let run := match slotInstr? res with | some i => runCause s c i ++ targetCause s c i | none => []
  opc ++ bad ++ run ++ if stage || dup then [(2, r.d)] else []

/-- The feature bit of the gated format that a matrix syllable selects (R278). -/
def formatGate : Instr → Option Nat
  | .mlodge o => if o.fmt = 5 then some 9 else none
  | .mstream o => if o.fmt = 5 then some 9 else none
  | _ => none

/-- The feature bit that a slot lacks, its opcode's or its format's (R63, R278). -/
def missingGate (s : State) : SlotRes → Option Nat
  | .gated bit => some bit
  | .ok i => (formatGate i).filter fun bit => !s.feature bit
  | _ => none

/-- The least field's cause. -/
def firstCause (l : List (Nat × Nat)) : Option (Nat × Nat) := (sortBy (fun p => p.1) l).head?

/-- Steps 1 to 4 of R65. -/
def decodeTrap (s : State) (c : Coach) (delay : Bool) (b : Bundle) : Option Trap :=
  let hdrBad := b.d.hdrBad || (b.d.lend && (delay || !c.ecnt.getLsbD 63))
  if hdrBad then
    some { code := 0x01, slot := 0, hdr := true, imp := false, info := dnat (7 + 256 * b.d.hdr.toNat) }
  else
    match (upto 4).findSome? fun n => (firstCause (slotCauses s c delay b n)).map fun p => illegal n p.1 p.2 with
    | some t => some t
    | none =>
      match (upto 4).findSome? fun n => (missingGate s (nth b.slots n (.bad ⟨0, 0⟩))).map fun bit => mkTrap 0x02 n (dnat bit) with
      | some t => some t
      | none =>
        (upto 4).findSome? fun n => match slotOps s c (nth b.slots n (.bad ⟨0, 0⟩)) with
          | none => none
          | some o =>
            let past := (o.writes ++ o.reads).filter fun u => u.kind == 0 && 8 * c.budget ≤ u.reg
            let us := sortBy (fun u => u.field * 256 + u.reg) past
            us.head?.map fun u => mkTrap 0x03 n (dnat (u.field + 256 * u.reg))

/-! Readiness and selection. -/

/-- Whether a coach's next bundle would raise a flag above 63 (R56): only asked when some flag counts 61 or more, since a bundle
names at most three. -/
def State.wouldOverflow (s : State) (k : Nat) : Bool :=
  let c := s.coach k
  ((upto 16).any fun f => 60 < c.count f) &&
    match s.fetchBundle k c.pc.toNat (c.delayImg.getD []) with
    | none => false
    | some (bs, s1) =>
      let s1 := s1.openBundle k (bundleOf s1 bs)
      let named := ((bundleOf s1 bs).slots.filterMap (slotOps s1 c)).filter fun o => s1.active c o.guard != 0
      (upto 16).any fun f => 63 < c.count f + (named.filter fun o => o.flag == some f).length

/-- Whether the wing delivers something else than a bundle at the coach's boundary: TRAP's operand, a step, a bad address. -/
def Coach.diverted (c : Coach) : Bool :=
  c.soft.isSome || (c.stepDue && !c.intrap) || badTarget c.pc

/-- R139 in a cycle: the gap, the stops and the freeze; the next bundle is fetched, and it would not raise a flag above 63. -/
def State.ready (s : State) (k : Nat) : Bool :=
  let c := s.coach k
  s.runnable k && c.next ≤ s.now k && c.heldAt != some (s.now k) &&
    (c.diverted || (!s.bundleAway k && !s.wouldOverflow k))

/-- Issue classes of R140 rule 2: copy, matrix, others. -/
def roleRank : Role → Nat
  | .copy => 0
  | .matrix => 1
  | _ => 2

/-- Whether coach a is selected before coach b (R140). -/
def State.before (s : State) (a b : Nat) : Bool :=
  let x := s.coach a
  let y := s.coach b
  let ux := x.waitCtr ≥ 32
  let uy := y.waitCtr ≥ 32
  if ux != uy then ux
  else if !ux && roleRank x.role != roleRank y.role then roleRank x.role < roleRank y.role
  else if x.waitCtr != y.waitCtr then x.waitCtr > y.waitCtr
  else a < b

/-- The coach that a wing selects (R140, R141): squashed bundles issue again first, in their order (R160). -/
def State.select (s : State) (w : Nat) : Option Nat :=
  let again := s.toReplay w
  let ks := (s.coachesOfWing w).filter s.ready
  let best (l : List Nat) : Option Nat := l.foldl (fun o k => match o with
    | none => some k
    | some j => if s.before k j then some k else some j) none
  if s.squashes w then best (ks.filter fun k => !again.contains k)
  else (again.find? fun k => ks.contains k).orElse fun _ => best ks

/-! The nominal schedule (R51, R53). -/

/-- A register as the schedule tracks it: a latch by its entry. -/
def nomKey (c : Coach) (u : Use) : Nat × Nat :=
  let id (ls : List Latch) : Nat := match latchAt c.seq u.reg ls with | some e => e.id + 1 | none => 0
  match u.kind with
  | 4 => (4, id c.lat.v)
  | 5 => (4, id c.lat.m)
  | 6 => (4, id c.lat.c)
  | k => (k, u.reg)

/-- How far a read is short: none if it is not (R53). -/
def shortRead (c : Coach) (key : Nat × Nat) : Option Nat :=
  let ws := c.nomWrites.filter fun w => w.kind == key.1 && w.reg == key.2 && (key.1 != 4 || key.2 != 0)
  if ws.any fun w => w.due.isNone && !w.covered then some 0
  else
    let m := ws.foldl (fun m w => max m ((w.due.getD 0) - c.nom)) 0
    if m = 0 then none else some m

/-- How far a fixed-latency write would land before an earlier one. -/
def shortWrite (c : Coach) (due : Nat) (key : Nat × Nat) : Option Nat :=
  let ws := c.nomWrites.filter fun w => w.kind == key.1 && w.reg == key.2
  if ws.any fun w => w.due.isNone && !w.covered then some 0
  else
    let m := ws.foldl (fun m w => max m ((w.due.getD 0) - due)) 0
    if m = 0 then none else some m

/-- The register number that SYSRD or SYSWR names, if it is FPMODE (R105). -/
def fpmodeUse : Instr → Option Bool
  | .sysrd o => if o.n = 0 then some false else none
  | .syswr o => if o.n = 0 then some true else none
  | _ => none

/-- SCHED for a field of a slot and a short count. -/
def schedAt (n : Nat) (p : Nat × Nat) : Trap := mkTrap 0x04 n (dnat (p.1 + 256 * p.2))

/-- How far a read or write of the sticky field at a nominal cycle is short (R105). -/
def shortSticky (c : Coach) (at_ : Nat) : Option (Nat × Nat) :=
  let m := (c.nomWrites.filter fun (x : NomWrite) => x.kind == 7).foldl (fun m (x : NomWrite) => max m ((x.due.getD 0) - at_)) 0
  if m = 0 then none else some (3, m)

/-- Whether SCHED is never raised for a syllable: SYSRD and SYSWR of any register but FPMODE (R153). -/
def schedExempt : Instr → Bool
  | .sysrd o => o.n != 0
  | .syswr o => o.n != 0
  | _ => false

/-- The first short read of a slot (R53, R65): in the order guard, A, B, c, then what the operand in D reads; SYSRD of FPMODE
reads the sticky field. -/
def slotShortRead (s : State) (c : Coach) (n : Nat) (i : Instr) : Option Trap :=
  match operands s c i with
  | none => none
  | some o =>
    let order (f : Nat) : Nat := if f = 2 then 7 else f
    let rd := (sortBy (fun u => order u.field) o.reads).findSome? fun u =>
      (shortRead c (nomKey c u)).map fun m => (u.field, m)
    if schedExempt i then none
    else (rd.orElse fun _ => if (fpmodeUse i).isSome then shortSticky c c.nom else none).map (schedAt n)

/-- The stage predicates, as the schedule names them (R132, R133). -/
def stageKeys : List (Nat × Nat) := [8, 9, 10, 11].map fun p => (2, p)

/-- The vector registers that a matrix syllable reads when it starts (R282). -/
def matrixSources (o : Opnds) : List Nat :=
  if o.slot = 2 && (o.opc == 0x10 || o.opc == 0x12 || o.opc == 0x15) then (o.reads.filter fun u => u.kind == 0).map (·.reg) else []

/-- Whether a write of the matrix queue itself: it starts after the operations before it in the queue have read their registers, and lands
after their count (R281, R407). -/
def queued : Instr → Bool
  | .mrd _ => true
  | _ => false

/-- The first write of a slot that would land out of order (R53, R65), or that overwrites what a matrix operation of an earlier
bundle, or one of this bundle, has still to read (`srcs`, R282). A syllable that takes no effect, as `live` has it, writes nothing. LSETUP
writes the stage predicates, which are no destination field: it is reported against its opcode. A write of variable latency is never
reported (log 77). -/
def slotShortWrite (s : State) (c : Coach) (live : Opnds → Bool) (srcs : List Nat) (n : Nat) (i : Instr) : Option Trap :=
  match (operands s c i).filter live with
  | none => none
  | some o =>
    let hit := o.writes.findSome? fun (u : Use) =>
      if !queued i && u.kind == 0 && (srcs.contains u.reg || c.nomWrites.any fun w => w.kind == 10 && w.reg == u.reg && !w.covered) then
        some (u.field, 0) else none
    let wr := hit.orElse fun _ => match i, o.lat with
      | .lsetup _, _ => stageKeys.findSome? fun key => (shortWrite c (c.nom + 1) key).map fun m => (0, m)
      | _, none => none
      | _, some l =>
        let due := c.nom + l + (if n = 0 then bankDelay o.reads + (if c.width = 64 then 1 else 0) else 0)
        o.writes.findSome? fun (u : Use) => if u.kind == 1 && u.reg == 0 then none else (shortWrite c due (u.kind, u.reg)).map fun m => (u.field, m)
    if schedExempt i then none else wr.map (schedAt n)

/-- SCHED of a LEND bundle's header (R133): the shift reads p8 to p10 and writes p8 to p11. R53 names no field for it: the model
reports it as a cause of the header, field 7 (log 77). -/
def lendSched (c : Coach) (lend : Bool) (f : Nat × Nat → Option Nat) (keys : List (Nat × Nat)) : Option Trap :=
  if lend && (c.lcnt != 0 || dbits c.ecnt 1 0 != 0) then
    (keys.findSome? f).map fun m => { code := 0x04, slot := 0, hdr := true, imp := false, info := dnat (7 + 256 * m) }
  else none

/-- Whether a syllable takes effect: some lane is active (R57). -/
def State.takesEffect (s : State) (c : Coach) (o : Opnds) : Bool := s.active c o.guard != 0

/-- Step 5 of R65: the short reads of every slot come before the writes. `live` says which syllables write. -/
def schedTrap (s : State) (c : Coach) (live : Opnds → Bool) (b : Bundle) : Option Trap :=
  if !c.schk then none
  else
    let first (f : Nat → Instr → Option Trap) : Option Trap := (upto 4).findSome? fun n => match nth b.slots n (.bad ⟨0, 0⟩) with
      | .ok i => f n i
      | _ => none
    let srcs := match slotOps s c b.d.x with
      | some o => if live o then matrixSources o else []
      | none => []
    (first (slotShortRead s c)).orElse fun _ =>
      (lendSched c b.d.lend (shortRead c) (stageKeys.take 3)).orElse fun _ =>
        (first (slotShortWrite s c live srcs)).orElse fun _ => lendSched c b.d.lend (shortWrite c (c.nom + 1)) stageKeys

/-- V opcodes that write the sticky field (R105): floating point, conversions, special functions, RED.FADD. -/
def setsFlags (opc : Nat) : Bool := (0x20 ≤ opc && opc ≤ 0x47) || opc == 0x58

/-- The place of slot n's operation among those that the bundle's syllables put on one flag, `live` saying which take effect. -/
def flagPlace (s : State) (c : Coach) (live : Opnds → Bool) (is : List Instr) (n : Nat) : Nat :=
  let f := ((is[n]?).bind (operands s c)).bind (·.flag)
  (((is.take n).filterMap (operands s c)).filter fun o => live o && o.flag.isSome && o.flag == f).length

/-- What a syllable adds to the nominal schedule, `after` being its coach with the syllable's latch and flag entries, of which on its flag
the j-th of its bundle is its own. -/
def nomWritesOf (s0 : State) (c0 : Coach) (after : Coach) (n j : Nat) (i : Instr) : List NomWrite :=
  match operands s0 c0 i with
  | none => []
  | some o =>
    let mk (kind reg : Nat) (due : Option Nat) (fe : Nat) : NomWrite :=
      { kind := kind, reg := reg, due := due, covered := false, fe := fe, seq := c0.seq }
    let latch := match o.enters with
      | some 4 => after.lat.v.head?
      | some 5 => after.lat.m.head?
      | some 6 => after.lat.c.head?
      | _ => none
    let keys := (o.writes.filter fun u => !(u.kind == 1 && u.reg == 0)).map (fun u => (u.kind, u.reg)) ++
      (match latch with | some e => [(4, e.id + 1)] | none => [])
    match o.lat with
    | some l =>
      let due := c0.nom + l + (if n = 0 then bankDelay o.reads + (if c0.width = 64 then 1 else 0) else 0)
      keys.map (fun k => mk k.1 k.2 (some due) 0) ++
        (if n = 0 && setsFlags o.opc then [mk 7 0 (some due) 0] else [])
    | none =>
      match o.flag with
      | some f =>
        let fe := match (after.flags.filter fun e => e.f == f && e.seq == c0.seq)[j]? with | some e => e.id + 1 | none => 0
        let srcs := (matrixSources o).map fun r => mk 10 r none fe
        keys.map (fun k => mk k.1 k.2 none fe) ++ srcs ++ [mk 9 f none fe]
      | none => if i = .rett then [] else match fpmodeUse i with
        | some true => [mk 7 0 (some (c0.nom + 1)) 0]
        | _ => match i with
          | .lsetup _ => [8, 9, 10, 11].map fun p => mk 2 p (some (c0.nom + 1)) 0
          | _ => []

/-- What the syllables of a bundle that take effect, as `live` has it, add to the nominal schedule. -/
def nomAdds (s0 : State) (c0 : Coach) (after : Coach) (live : Opnds → Bool) (is : List Instr) : List NomWrite :=
  (upto 4).flatMap fun n => match is[n]? with
    | none => []
    | some i => if (operands s0 c0 i).any live then nomWritesOf s0 c0 after n (flagPlace s0 c0 live is n) i else []

/-! One bundle. -/

/-- How a bundle's syllables ended when each is run alone from the state at issue. -/
inductive Verdict where
  | go
  | hold (s : State)
  | trap (s : State)
  | stop (o : Out)

/-- Runs each syllable from the state at issue: the trap of the least step and first slot. A hold is found among the
checks of step 6 (R198) and stands in slot order with them. -/
def judge (ex : Instr → State → Out) (s : State) : List Instr → Verdict → Nat → Verdict
  | [], v, _ => v
  | i :: is, v, best =>
    match ex i s with
    | .fault r => .stop (.fault r)
    | .refused r => .stop (.refused r)
    | .next t =>
      match t.cur.status with
      | .trapped n => if n < best then judge ex s is (.trap t) n else judge ex s is v best
      | .held =>
        match v with
        | .go => judge ex s is (.hold t) 6
        | _ => judge ex s is v best
      | .done => judge ex s is v best

/-- Runs the syllables one after another. -/
def runAll (ex : Instr → State → Out) : List Instr → State → Out
  | [], s => .next s
  | i :: is, s =>
    match ex i s with
    | .next t => runAll ex is t
    | o => o

/-- The rotation of R131: each base with a nonzero size steps back by one. -/
def rotAdvance (r : Dbl) : Dbl :=
  let v := if rotVSize r = 0 then rotVBase r else (rotVBase r + rotVSize r - 1) % rotVSize r
  let q := if rotSSize r = 0 then rotSBase r else (rotSBase r + rotSSize r - 1) % rotSSize r
  dnat (v + rotVSize r * 2 ^ 8 + q * 2 ^ 20 + rotSSize r * 2 ^ 24)

/-- ROT (R33, R131): the bases advance after the bundle, those that an LSETUP of the bundle set among them (log 78). -/
def execRot (s : State) : Out := onCoach s fun k c => .next (s.putCoach k { c with rotb := rotAdvance c.rotb })

/-- LEND (R133): the counts and stage predicates, and the next address unless a join step, or a SPLIT or RETT of the bundle, gave it
(log 79). -/
def execLend (s : State) : Out :=
  onCoach s fun k c =>
    let due := s.dueAt 1
    let seq := s.cur.seq
    let (p8, p9, p10) := (s.readP c 8, s.readP c 9, s.readP c 10)
    let goto (s : State) (a : Dbl) : State := if s.cur.joined || s.cur.npc.isSome then s else s.setCur fun u => { u with npc := some a }
    if c.lcnt ≠ 0 then
      let c := { c with lcnt := c.lcnt - 1 }
      .next (goto (s.putCoach k (c.stages due seq (BitVec.allOnes 64) p8 p9 p10)) c.lbody)
    else if dbits c.ecnt 1 0 ≠ 0 then
      let c := { c with ecnt := ecntOf true (dbits c.ecnt 1 0 - 1) }
      .next (goto (s.putCoach k (c.stages due seq 0 p8 p9 p10)) c.lbody)
    else .next (s.putCoach k { c with ecnt := 0 })

/-- The bundle after a delay bundle (R119, R127, R128). -/
def State.resolve (s : State) (k : Nat) (p : Pending) : State :=
  match p with
  | .target a => s.modCoach k fun c => { c with pc := a, pend := none }
  | .join =>
    let (s, a) := s.joinStep k
    s.modCoach k fun c => { c with pc := a.getD c.pc, pend := none }
  | .push rpc es a =>
    let c := s.coach k
    let es := es.map fun e => { e with mask := e.mask &&& c.live }
    let c := { c with stack := es ++ setRpc (rpc.getD s.cur.seqPc) c.stack, pc := a, pend := none }
    let s := s.putCoach k c
    if c.path = 0 then
      let (s, b) := s.joinStep k
      s.modCoach k fun c => { c with pc := b.getD c.pc }
    else s

/-- Whether a slot's syllable is not empty. -/
def busy : SlotRes → Bool
  | .ok (.nop _ _) => false
  | _ => true

/-- What a bundle adds to the nominal schedule. -/
def State.nomOfBundle (s0 : State) (c0 c : Coach) (b : Bundle) (is : List Instr) : List NomWrite :=
  if !c0.schk then []
  else nomAdds s0 c0 c (s0.takesEffect c0) is ++
    (if b.d.lend && (c0.lcnt != 0 || dbits c0.ecnt 1 0 != 0) then
      stageKeys.map fun key => { kind := key.1, reg := key.2, due := some (c0.nom + 1), covered := false, fe := 0, seq := c0.seq }
     else [])

/-- The flag and count of a WAIT that takes effect. -/
def State.waitOf? (s : State) (c : Coach) : Instr → Option (Nat × Nat)
  | .wait o => if s.active c o.g = 0 then none else some (o.f, (s.rdS c o.b).toNat)
  | _ => none

/-- The nominal schedule after a bundle that c0 issued, with what the bundle adds and what its WAIT covers (R51): the next bundle is gap + 1
cycles on. After RETT the program's schedule goes on where the trap broke it off (R149). -/
def Coach.nomAfter (c c0 : Coach) (gap : Nat) (rett : Bool) (wait : Option (Nat × Nat)) (new : List NomWrite) : Coach :=
  if !c0.schk then { c with nomWrites := [] }
  else if rett then
    c.nomBack (c0.nom + gap + 1) ((c0.nomWrites.filter fun w => w.due.isSome) ++ new)
  else
    let d := { c with nomWrites := c.nomWrites ++ new }
    let d := wait.elim d fun w => d.coverNom w.1 w.2
    { d with
      nom := c.nom + gap + 1,
      nomWrites := d.nomWrites.filter fun w => match w.due with
        | some d => c.nom + gap + 1 < d
        | none => !(w.covered && 9 ≤ w.kind) }

/-- The memory levels of R375 from which a part of an access may be served: 1 scratchpad, 2 read-only L1, 3 home L2 slice, 4 HBM, 5 peer,
6 host. -/
def Place.levels (load : Bool) : Place → List Nat
  | .home _ _ => (if load then [2] else []) ++ [3, 4]
  | .host _ => (if load then [2] else []) ++ [6]
  | .peer _ _ => (if load then [2] else []) ++ [5]
  | .sram _ _ => [1]
  | .nowhere => []

/-- Whether an instruction accesses the scratchpad (R214). -/
def Instr.onScratch : Instr → Bool
  | .ldsW _ => true
  | .ldsQ _ => true
  | .stsW _ => true
  | .stsQ _ => true
  | _ => false

/-- The memory levels from which a side of a Courier command may be served. -/
def Side.levels : Side → List Nat
  | .box _ _ _ => [3, 4, 5, 6]
  | .sp _ _ => [1]
  | .nothing => []

/-- The memory levels that may serve a coach's bundle (R375). -/
def State.levelsOf (s : State) (k seq : Nat) (is : List Instr) : List Nat :=
  dedup ((if is.any Instr.onScratch then [1] else []) ++
    (((s.core (coreOf k)).courier.filter fun m => m.coach == k && m.cycle == s.cur.cycle).flatMap fun m => m.src.levels ++ m.dst.levels) ++
    ((s.ops.filter fun o => o.coach == k && o.seq == seq).flatMap fun o =>
      let load := match o.kind with | .load _ _ _ _ _ => true | _ => false
      o.parts.flatMap fun p => p.place.levels load ++ p.ats.flatMap fun a => a.place.levels false))

/-- What follows a bundle that issued: the next address, the gap, the wing, the nominal schedule. -/
def State.afterIssue (s0 s : State) (k : Nat) (b : Bundle) (is : List Instr) : State :=
  let c0 := s0.coach k
  let u := s.cur
  let s := s.modCoach k fun c =>
    { c with
      seq := c0.seq + 1, waitCtr := 0, next := max c.next (u.cycle + u.gap + 1),
      exemptBp := c.exemptBp && is.contains .rett, exemptWatch := c.exemptWatch && is.contains .rett,
      nom := c.nom }
  let s := s.modCoach k fun c => c.nomAfter c0 u.gap (is.contains .rett) (is.findSome? (s0.waitOf? c0)) (s0.nomOfBundle c0 c b is)
  let s := s.countDone k
  let s := s.modWing (wingOf k) fun w =>
    { w with
      next := u.cycle + (if c0.width = 64 && busy b.d.v then 2 else 1), again := w.again.filter fun e => e.1 ≠ k,
      tagged := if w.lanWant then
          w.tagged ++ [{ coach := k, asid := c0.asid, seq := c0.seq, addr := u.pc, cycle := u.cycle, levels := s.levelsOf k c0.seq is, fin := none }]
        else w.tagged,
      lanWant := false }
  if (s.coach k).ended || !(s.coach k).present then s
  else if u.joined then s.modCoach k fun c => { c with pc := u.npc.getD c.pc, pend := none }
  else
    match c0.pend with
    | some p => s.resolve k p
    | none => s.modCoach k fun c => { c with pc := u.npc.getD u.seqPc, pend := u.pend }

/-- Whether a flag of the coach counts above 63 (R56). -/
def Coach.overflows (c : Coach) : Bool := (upto 16).any fun f => 63 < c.count f

/-- The bundle in execution is over. -/
def State.endBundle (s : State) : State := { s with cur := Cur.blank }.tickFree

/-- The wing has selected a coach whose bundle does not take effect: it selects no other in this cycle (R140). -/
def State.spend (s : State) (k cycle : Nat) : State :=
  s.modWing (wingOf k) fun w => { w with next := max w.next (cycle + 1), again := w.again.filter fun e => e.1 ≠ k }

/-- A bundle that a mismatch squashes: nothing of it happens, no trap arises, and it will issue again (R147, R160). -/
def State.squash (s : State) (k : Nat) : State :=
  (s.modWing (wingOf k) fun w =>
    { w with next := max w.next (s.now k + 1), again := w.again ++ [(k, (s.coach k).pc)] }).endBundle

/-- Coach k consumes an error in its bundle at an address, which takes no effect (R357). -/
def State.consumeNow (s : State) (k : Nat) (pc : Dbl) (e : Nat × Nat) : Out :=
  .next ((s.consume k e.1 e.2 pc).spend k (s.now k)).endBundle

/-- The error that taking a trap reads: one in TVEC (R145, R357). -/
def State.vectorPoison (s : State) (k : Nat) : Option (Nat × Nat) :=
  if !(s.coach k).intrap && s.poison.contains (.sys k 1) then some (2, 145) else none

/-- A trap that is not a syllable's, before the bundle at its address. -/
def State.boundaryTrap (s : State) (k : Nat) (t : Trap) : Out :=
  match s.vectorPoison k with
  | some e => s.consumeNow k (s.coach k).pc e
  | none => .next (((s.enterTrap k t (s.coach k).pc (s.now k)).spend k (s.now k)).endBundle)

/-- Whether the M slot holds a syllable at which a held touch is delivered (R226). -/
def deliversGuard : SlotRes → Bool
  | .ok (.arrive _) => true
  | .ok (.arrivew _) => true
  | .ok (.bwait _) => true
  | .ok (.sstep _) => true
  | _ => false

/-- Whether a breakpoint comparator of the wing matches (R369). -/
def State.breakAt (s : State) (k : Nat) (c : Coach) : Option Nat :=
  if c.exemptBp then none
  else (s.wing (wingOf k)).bps.findSome? fun e => if e.2.on && e.2.addr == c.pc && e.2.asid == c.asid then some e.1 else none

/-- The checks of a decoded bundle up to its execution, in the order of R65. -/
def bundleTrap (s : State) (k : Nat) (c : Coach) (b : Bundle) : Option Trap :=
  match decodeTrap s c c.pend.isSome b with
  | some t => some t
  | none =>
    match schedTrap s c (s.takesEffect c) b with
    | some t => some t
    | none =>
      match (if deliversGuard b.d.m && !c.intrap then c.spguard else none) with
      | some info => some { code := 0x11, slot := 1, hdr := false, imp := true, info := info }
      | none => (s.breakAt k c).map fun i => brkTrap 1 i 0

/-- Whether the next bundle of a coach is held by what it names (R198): the coach is then not ready for it (R139, R140). -/
def State.wouldHold (ex : Instr → State → Out) (s : State) (k : Nat) : Bool :=
  let c := s.coach k
  !c.diverted &&
    match s.fetchBundle k c.pc.toNat (c.delayImg.getD []) with
    | none => false
    | some (bs, s1) =>
      let b := bundleOf s1 bs
      let s2 := s1.openBundle k b
      (bundleTrap s2 k c b).isNone && (match Sys2Proof.Machine.judge ex s2 (b.slots.filterMap slotInstr?) .go 100 with
        | .hold _ => true
        | _ => false)

/-- The source lanes of a shuffle's active lanes (R163, R184). -/
def shuffleLanes (s : State) (c : Coach) (act : Lanes) (i : Instr) : Lanes :=
  let of (src : Nat → Nat → Nat → Nat) (o : VBin) : Lanes :=
    ((upto c.width).filter fun l => act.getLsbD l).foldl (fun m l => m ||| (1#64 <<< src c.width l (s.rdV c o.win intConst l o.b).toNat)) 0
  match i with
  | .shflIdx o => of srcIdx o
  | .shflUp o => of srcUp o
  | .shflDn o => of srcDn o
  | .shflXor o => of srcXor o
  | _ => 0

/-- Whether a register stands where ROTB renames (R131). -/
def Coach.rotates (c : Coach) (u : Use) : Bool :=
  (u.kind == 0 && decide (160 ≤ u.reg) && decide (u.reg < 160 + rotVSize c.rotb)) ||
    (u.kind == 1 && decide (48 ≤ u.reg) && decide (u.reg < 48 + rotSSize c.rotb))

/-- The system and loop registers that a syllable or header flag reads (R105, R127, R130, R131, R152, R153). -/
def sysUses (c : Coach) (o : Opnds) : Instr → List Nat
  | .sysrd x => if x.n = 0x0F then [0x0E] else [x.n.toNat]
  | .rett => [4, 5, 6]
  | .jtab _ => [7, 8]
  | .lend => [9, 10, 11]
  | .rot => [12]
  | _ =>
    (if o.slot == 0 && ((decide (0x20 ≤ o.opc) && decide (o.opc < 0x50)) || o.opc == 0x58 || decide (0x5A ≤ o.opc)) then [0] else []) ++
      (if (o.reads ++ o.writes).any c.rotates then [12] else [])

/-- The flags whose counts a syllable reads: the one that it raises, and WAIT's (R54, R135). -/
def flagUses (o : Opnds) : Instr → List Nat
  | .wait x => [x.f]
  | _ => o.flag.toList

/-- The shadow record that SYSRD TSHDAT reads (R153). -/
def recordUse (c : Coach) : Instr → Option Nat
  | .sysrd x => if x.n = 0x0F then (c.trapset[dbits c.tshsel 15 8]?).map (·.id) else none
  | _ => none

/-- What an instruction names, the header flags' nothing among them. -/
def operandsOr (s : State) (c : Coach) (i : Instr) : Option Opnds :=
  match i with
  | .lend => some (opAlone 0)
  | .rot => some (opAlone 0)
  | _ => operands s c i

/-- A poisoned word that a bundle's syllables read for use (R163, R357): storage and location. A lane-level syllable reads its active
lanes, and a shuffle's field A the source lanes of those, a syllable with none its guard alone; matrix syllables read their sources when
they start. -/
def State.issuePoison (s : State) (k : Nat) (c : Coach) (is : List Instr) : Option (Nat × Nat) :=
  if s.poison.isEmpty then none
  else is.findSome? fun i => (operandsOr s c i).bind fun o =>
    let names (kind r : Nat) : Bool := o.reads.any fun u => u.kind == kind && u.reg == r
    let latch (id : Nat) (kind : Nat) (ls : List Latch) (field : Nat → Bool) : Bool := o.reads.any fun u =>
      u.kind == kind && field u.field && ((latchAt s.cur.seq u.reg ls).map (·.id)) == some id
    let vecLatch (id : Nat) (field : Nat → Bool) : Bool := latch id 4 c.lat.v field || latch id 5 c.lat.m field
    let act := s.active c o.guard
    let far := shuffleLanes s c act i
    let reg (r q : Nat) (b : Bool) : Option (Nat × Nat) := if q == k && act != 0 && b then some (2, r) else none
    let guards (r : Nat) : Bool := o.reads.any fun u => u.kind == 2 && u.reg == r && u.field == 1
    let inA (r : Nat) : Bool := o.reads.any fun u => u.kind == 0 && u.reg == r && u.field == 3
    s.poison.findSome? fun p => match p with
      | .vreg q r l => if q == k && o.slot != 2 && ((act.getLsbD l && names 0 r) || (far.getLsbD l && inA r)) then
          some (1, l + 64 * r) else none
      | .sreg q r => if q == k && act != 0 && names 1 r then some (2, r) else none
      | .preg q r => if q == k && (guards r || (act != 0 && names 2 r)) then some (1, r) else none
      | .latch q id l =>
        if q == k && ((act.getLsbD l && vecLatch id fun _ => true) || (far.getLsbD l && vecLatch id (· == 3)) ||
            (act != 0 && latch id 6 c.lat.c fun _ => true)) then some (1, l + 64 * 256) else none
      | .shadow q id => if q == k && act != 0 && recordUse c i == some id then some (1, 64 * 257) else none
      | .hreg q n x => reg (64 + 4 * n + x) q (names 3 n)
      | .flag q f => reg (128 + f) q ((flagUses o i).contains f)
      | .sys q n => reg (144 + n) q ((sysUses c o i).contains n)
      | _ => none

/-- Whether a bundle committed a held-store area that holds an error (R356). -/
def State.heldPoison (s t : State) (p : Nat) : Bool :=
  s.poison.contains (.held p) && !(s.party p).held.isEmpty && (t.party p).held.isEmpty

/-- Executes a decoded bundle of coach k. One that a syllable holds only beside an earlier slot of the bundle is held too. One that traps
consumes no error of what it would have read: no rule orders the two (log 92). -/
def runBundle (ex : Instr → State → Out) (s : State) (k : Nat) (b : Bundle) : Out :=
  let c := s.coach k
  let s := s.openBundle k b
  match bundleTrap s k c b with
  | some t =>
    let s := if t.imp then s.putCoach k { c with spguard := none } else s
    match s.vectorPoison k with
    | some e => s.consumeNow k c.pc e
    | none => .next ((s.enterTrap k t c.pc (s.now k)).spend k (s.now k)).endBundle
  | none =>
    let is := b.slots.filterMap slotInstr?
    let all := is ++ (if b.d.lend then [.lend] else []) ++ (if b.d.rot then [.rot] else [])
    match judge ex s is .go 100 with
    | .stop o => o
    | .trap t =>
      match s.vectorPoison k with
      | some e => s.consumeNow k c.pc e
      | none => .next (t.spend k (s.now k)).endBundle
    | .hold t => .next t.endBundle
    | .go =>
      match s.issuePoison k c all with
      | some e => s.consumeNow k c.pc e
      | none =>
      let s1 := s.modCoach k fun c =>
        let n := if c.intrap then c.steps else c.steps - 1
        { c with delayImg := none, steps := n, stepDue := c.stepDue || (!c.intrap && c.steps == 1) }
      match runAll ex all s1 with
      | .next t =>
        if s.heldPoison t c.party then
          { s with poison := s.poison.filter (· != Site.held c.party) }.consumeNow k c.pc (7, c.party)
        else if t.cur.status == .held || (t.coach k).overflows then
          .next (s.modCoach k fun c => { c with heldAt := some s.cur.cycle }).endBundle
        else .next ((s.afterIssue t k b is).settleSpill k c.stack).endBundle
      | o => o

/-- The step trap (R370): BRK with source 2 before the next bundle. -/
def State.stepTrapNow (s : State) (k : Nat) : Out := (s.modCoach k fun c => { c with stepDue := false }).boundaryTrap k (brkTrap 2 0 0)

/-- A coach that the wing has selected takes a trap that is due at the boundary, or fetches and executes its next
bundle (R90, R119, R151, R152, R370). The slot that TCAUSE names where no syllable causes the trap is the model's: V for a bundle that cannot be
fetched, C for an address that is no bundle's, restored ones among them (log 91). -/
def issueCoach (ex : Instr → State → Out) (s : State) (k : Nat) : Out :=
  let c := s.coach k
  match c.soft with
  | some v => s.boundaryTrap k (mkTrap 0x10 3 v)
  | none =>
    if c.stepDue && !c.intrap then s.stepTrapNow k
    else if s.squashes (wingOf k) then
      if s.wouldHold ex k then .next (s.modCoach k fun c => { c with heldAt := some (s.now k) }).endBundle else .next (s.squash k)
    else if badTarget c.pc then s.boundaryTrap k (illegal 3 6 c.pc.toNat)
    else
      let bad := match c.pend with | some (.target a) => if badTarget a then some a else none | _ => none
      match bad with
      | some a => s.boundaryTrap k (illegal 3 6 a.toNat)
      | none =>
        match s.fetchBundle k c.pc.toNat (c.delayImg.getD []) with
        | none => (s.noteFailed k (c.pc.toNat + (c.delayImg.getD []).length)).boundaryTrap k (mkTrap 0x08 0 c.pc)
        | some (bs, s1) =>
          match s1.badText k c.pc.toNat bs.length with
          | some at_ => .next ((s1.consume k 4 at_ c.pc).spend k (s1.now k)).endBundle
          | none => runBundle ex s1 k (bundleOf s1 bs)

end Sys2Proof.Machine
end

