-- ==== Sys2Proof/Machine/Events.lean ====
section
/-! DEFINITION. The events that end what a bundle began: landings (R46, R50), the ends of stops (R135 to R138, R370),
the performing and counting of outstanding operations (R54, R55), and commits that drain (R338). -/

namespace Sys2Proof.Machine

/-! Landings. -/

/-- Whether a coach's results of fixed latency land: its party is neither halted nor saved, or the coach had ended before the halt, and
its die runs. -/
def State.landing (s : State) (k : Nat) : Bool :=
  let p := s.party (s.coach k).party
  (s.coach k).present && !(s.die (dieOf k)).gated &&
    (p.launch == 0 || p.st == .running || p.st == .ended || (p.st == .draining && (s.coach k).ended))

/-- Whether a result of fixed latency may land: it is not held by its wing's mismatch, after which it lands as much later as the replay
begins (R160). -/
def State.lands (s : State) (k : Nat) (f : Landing) : Bool :=
  s.landing k && !((s.wing (wingOf k)).squash.any fun t => t ≤ f.due)

/-- Whether one landing comes before another: earlier cycle, flags of FPMODE last (R186), then earlier bundle (R50). -/
def Landing.sooner (f g : Landing) : Bool :=
  let late (x : Landing) : Nat := match x.w with | .flags _ => 1 | _ => 0
  decide (f.due < g.due) || (f.due == g.due && (decide (late f < late g) || (late f == late g && decide (f.seq < g.seq))))

/-- RESULT_LANDING (R46): a result reaches its register and latch; one that a flag counts lands when it is counted (R55). -/
def execResultLanding (coach idx : Nat) (s : State) : Out :=
  let c := s.coach coach
  match c.inflight[idx]? with
  | none => .next s
  | some f =>
    let now := s.now coach
    let c1 := { c with inflight := c.inflight.eraseIdx idx }
    if now < f.early then .next s
    else match f.fe with
      | none =>
        if !s.lands coach f || c.inflight.any (fun g => g.fe.isNone && g.sooner f) then .next s
        else
          let ws := (c1.prevails f.seq f.w).elim [] fun w => [w]
          .next (((s.putCoach coach (c1.landOne f)).noteLanded coach ws).unshadow coach f ws)
      | some id =>
        if !c.present || (s.die (dieOf coach)).gated then .next s
        else .next ((s.putCoach coach c1).finishFlag coach (some id) [f.w] [] f.w.dbl)

/-! Ends of stops. -/

/-- Whether a coach's stop can end now. -/
def State.awake (s : State) (k : Nat) : Bool :=
  let p := s.party (s.coach k).party
  (s.coach k).present && !(s.die (dieOf k)).gated && (p.launch == 0 || p.st == .running)

/-- WAIT_END (R135). -/
def execWaitEnd (coach : Nat) (s : State) : Out :=
  let c := s.coach coach
  match c.stop with
  | .wait f n =>
    if s.awake coach && decide (c.count f ≤ n) then
      .next (s.putCoach coach (c.wake (s.now coach)))
    else .next s
  | _ => .next s

/-- MWAIT_WAKE (R137): the line was written, or the monitor is lost. -/
def execMwaitWake (coach : Nat) (s : State) : Out :=
  match (s.coach coach).stop, (s.coach coach).mon.reason with
  | .mwait _ _ _ _, some r => if s.awake coach then .next (s.endMwait coach r) else .next s
  | _, _ => .next s

/-- MWAIT_TIMEOUT (R137). -/
def execMwaitTimeout (coach : Nat) (s : State) : Out :=
  match (s.coach coach).stop with
  | .mwait (some t) _ _ _ => if s.awake coach && decide (t ≤ s.tick) then .next (s.endMwait coach 1) else .next s
  | _ => .next s

/-- YIELD_EXPIRE (R138). -/
def execYieldExpire (coach : Nat) (s : State) : Out :=
  let c := s.coach coach
  match c.stop with
  | .yield t =>
    if s.awake coach && decide (t ≤ s.now coach) then .next (s.putCoach coach (c.wake t)) else .next s
  | _ => .next s

/-- STEP_TRAP (R370): at the bundle boundary after the count has reached 0. -/
def execStepTrap (coach : Nat) (s : State) : Out :=
  let c := s.coach coach
  if c.stepDue && !c.intrap && c.soft.isNone && s.ready coach && !(s.die (dieOf coach)).gated then s.stepTrapNow coach
  else .next s

/-! Outstanding operations. -/

/-- MEMORY_ACCESS_COMPLETE (R54): part of an operation is performed, or the whole is counted. -/
def execMemoryAccessComplete (op part : Nat) (s : State) : Out :=
  match s.op? op with
  | none => .next s
  | some o =>
    let done (s : State) : Out := .next ((s.dropOp o.id).finishFlag o.coach o.fe [] [] 0)
    match o.kind with
    | .load _ _ _ _ _ => s.performMem o part
    | .store _ _ => s.performMem o part
    | .atomic _ _ => s.performMem o part
    | .fence kind =>
      if s.settled o && s.fenceReady o kind then done (if kind = 2 then s else s.selfInvalidate (coreOf o.coach)) else .next s
    | .barinit _ _ => if s.settled o && s.barReady o then .next (s.applyBar o) else .next s
    | .arrive _ _ _ => if s.settled o && s.barReady o then .next (s.applyBar o) else .next s
    | .bexpect _ _ => if s.settled o && s.barReady o then .next (s.applyBar o) else .next s
    | .commit => if s.settled o && s.committed o then done s else .next s
    | .launch d =>
      if s.recordReady o then .next (s.readRecord o).tickFree else if !o.performed then .next s else .next (s.decideLaunch o d)
    | .snap d full h off =>
      if s.recordReady o then .next (s.readRecord o).tickFree else if !o.performed then .next s else .next (s.decideSnap o d full h off)
    | .rollin d =>
      if s.recordReady o then .next (s.readRecord o).tickFree else if !o.performed then .next s else .next (s.decideRollin o d)
    | .snapq d => if s.settled o then .next (s.finishScalar o d (s.job o.asid.toNat).snap.image) else .next s
    | .dstat d => if s.settled o then .next (s.sampleDstat o d) else .next s
    | .preq _ _ _ => .next s
    | .sstep _ => .next s

/-! Commits. -/

/-- Whether the unit that holds a byte of a commit is the first that its home slice has still to move, earlier commits of the
party included (R242, R338). -/
def State.firstUnit (s : State) (c : Commit) (b : HeldByte) : Bool :=
  let sl := sliceOf b.pa
  !(s.commits.any fun d => d.party == c.party && Nat.blt d.id c.id && d.bytes.any fun x => sliceOf x.pa == sl) &&
    (match c.bytes.find? fun x => sliceOf x.pa == sl with
      | some x => x.unit == b.unit
      | none => false)

/-- The bytes of a unit that one home slice moves, in order. -/
def unitBytes (c : Commit) (b : HeldByte) : List HeldByte := c.bytes.filter fun x => x.unit == b.unit && sliceOf x.pa == sliceOf b.pa

/-- A commit leaves once all its bytes are moved and the direct stores that it covers are performed. -/
def State.endCommit (s : State) (id : Nat) : State :=
  { s with commits := s.commits.filter fun c =>
      !(c.id == id && c.bytes.isEmpty && !(s.ops.any fun o => c.after.contains o.id)) }

/-- One unit of a commit is moved into its line at its home: logged there as channel state when it is old (R336, R345). -/
def State.moveUnit (s : State) (c : Commit) (bs : List HeldByte) : State :=
  let asid := c.asid.toNat
  match bs with
  | [] => s
  | b :: _ =>
    let data := bs.map (·.b)
    let s := if s.isOld asid (homeDie b.pa) c.stamp then
        s.logReceived asid (homeDie b.pa) (writeRecord (s.mappedVa asid b.pa) data) else s
    let before := s
    let s := s.sharedWrite asid (.home b.pa b.enc) b.va data
    let s := if b.st then (s.writeThrough b.pa data.length).unallocate before b.pa data.length else s
    let s := s.l1Drop (s.party c.party).core (dedup (bs.map fun y => y.pa / 4))
    { s with commits := s.commits.map fun x =>
        if x.id = c.id then { x with bytes := x.bytes.filter fun y => !bs.contains y } else x }

/-- COMMIT_DRAIN_COMPLETE (R338): a home moves the next unit of a commit, or the commit is over. -/
def execCommitDrainComplete (commit part : Nat) (s : State) : Out :=
  match s.commits.find? fun c => c.id = commit with
  | none => .next s
  | some c =>
    match c.bytes[part]? with
    | none => .next (s.endCommit commit)
    | some b =>
      if (s.die c.die).gated || s.ahead c.asid.toNat c.die c.stamp || !s.firstUnit c b || !s.cowReady c.asid.toNat b.pa then .next s
      else if !addressable b.pa 1 then .fault (.noMemory b.pa)
      else
        let (t, ok) := s.stampOk c.asid.toNat (homeDie b.pa) c.stamp
        if !ok then .next t.tickFree else .next ((t.moveUnit c (unitBytes c b)).endCommit commit).tickFree

end Sys2Proof.Machine
end

