-- ==== Sys2Proof/Machine/Dispatch.lean ====
section
/-! DEFINITION. One arm for each instruction and event: the call of its meaning. -/

namespace Sys2Proof.Machine

/-- What an instruction or event does. -/
def exec (i : Instr) (s : State) : Host.Outcome State Fault Refusal :=
  match i with
  | .nop slot grd => Sys2Proof.Machine.execNop slot grd s
  | .iaddI32 o => Sys2Proof.Machine.execIaddI32 o s
  | .isubI32 o => Sys2Proof.Machine.execIsubI32 o s
  | .imulI32 o => Sys2Proof.Machine.execImulI32 o s
  | .imulhI32 o => Sys2Proof.Machine.execImulhI32 o s
  | .imulhN32 o => Sys2Proof.Machine.execImulhN32 o s
  | .imadI32 o => Sys2Proof.Machine.execImadI32 o s
  | .iminI32 o => Sys2Proof.Machine.execIminI32 o s
  | .imaxI32 o => Sys2Proof.Machine.execImaxI32 o s
  | .iminN32 o => Sys2Proof.Machine.execIminN32 o s
  | .imaxN32 o => Sys2Proof.Machine.execImaxN32 o s
  | .vAnd o => Sys2Proof.Machine.execVAnd o s
  | .vOr o => Sys2Proof.Machine.execVOr o s
  | .vXor o => Sys2Proof.Machine.execVXor o s
  | .vShl o => Sys2Proof.Machine.execVShl o s
  | .shrN32 o => Sys2Proof.Machine.execShrN32 o s
  | .shrI32 o => Sys2Proof.Machine.execShrI32 o s
  | .vPopc o => Sys2Proof.Machine.execVPopc o s
  | .vClz o => Sys2Proof.Machine.execVClz o s
  | .vBfx o => Sys2Proof.Machine.execVBfx o s
  | .sel o => Sys2Proof.Machine.execSel o s
  | .vMov o => Sys2Proof.Machine.execVMov o s
  | .idp4I8 o => Sys2Proof.Machine.execIdp4I8 o s
  | .idp4N8 o => Sys2Proof.Machine.execIdp4N8 o s
  | .laneid o => Sys2Proof.Machine.execLaneid o s
  | .icmpI32 o => Sys2Proof.Machine.execIcmpI32 o s
  | .icmpN32 o => Sys2Proof.Machine.execIcmpN32 o s
  | .chkV o => Sys2Proof.Machine.execChkV o s
  | .faddF32 o => Sys2Proof.Machine.execFaddF32 o s
  | .fsubF32 o => Sys2Proof.Machine.execFsubF32 o s
  | .fmulF32 o => Sys2Proof.Machine.execFmulF32 o s
  | .ffmaF32 o => Sys2Proof.Machine.execFfmaF32 o s
  | .fminF32 o => Sys2Proof.Machine.execFminF32 o s
  | .fmaxF32 o => Sys2Proof.Machine.execFmaxF32 o s
  | .fcmpF32 o => Sys2Proof.Machine.execFcmpF32 o s
  | .frndF32 o => Sys2Proof.Machine.execFrndF32 o s
  | .faddF16x2 o => Sys2Proof.Machine.execFaddF16x2 o s
  | .fmulF16x2 o => Sys2Proof.Machine.execFmulF16x2 o s
  | .ffmaF16x2 o => Sys2Proof.Machine.execFfmaF16x2 o s
  | .faddB16x2 o => Sys2Proof.Machine.execFaddB16x2 o s
  | .fmulB16x2 o => Sys2Proof.Machine.execFmulB16x2 o s
  | .ffmaB16x2 o => Sys2Proof.Machine.execFfmaB16x2 o s
  | .cvtF32I32 o => Sys2Proof.Machine.execCvtF32I32 o s
  | .cvtF32N32 o => Sys2Proof.Machine.execCvtF32N32 o s
  | .cvtI32F32 o => Sys2Proof.Machine.execCvtI32F32 o s
  | .cvtN32F32 o => Sys2Proof.Machine.execCvtN32F32 o s
  | .cvtF16x2F32 o => Sys2Proof.Machine.execCvtF16x2F32 o s
  | .cvtB16x2F32 o => Sys2Proof.Machine.execCvtB16x2F32 o s
  | .cvtF32F16 o => Sys2Proof.Machine.execCvtF32F16 o s
  | .cvtF32B16 o => Sys2Proof.Machine.execCvtF32B16 o s
  | .cvtE4m3x2F32 o => Sys2Proof.Machine.execCvtE4m3x2F32 o s
  | .cvtE5m2x2F32 o => Sys2Proof.Machine.execCvtE5m2x2F32 o s
  | .cvtF32E4m3 o => Sys2Proof.Machine.execCvtF32E4m3 o s
  | .cvtF32E5m2 o => Sys2Proof.Machine.execCvtF32E5m2 o s
  | .rcpF32 o => Sys2Proof.Machine.execRcpF32 o s
  | .rsqF32 o => Sys2Proof.Machine.execRsqF32 o s
  | .sqrtF32 o => Sys2Proof.Machine.execSqrtF32 o s
  | .exp2F32 o => Sys2Proof.Machine.execExp2F32 o s
  | .log2F32 o => Sys2Proof.Machine.execLog2F32 o s
  | .sinF32 o => Sys2Proof.Machine.execSinF32 o s
  | .cosF32 o => Sys2Proof.Machine.execCosF32 o s
  | .tanhF32 o => Sys2Proof.Machine.execTanhF32 o s
  | .shflIdx o => Sys2Proof.Machine.execShflIdx o s
  | .shflUp o => Sys2Proof.Machine.execShflUp o s
  | .shflDn o => Sys2Proof.Machine.execShflDn o s
  | .shflXor o => Sys2Proof.Machine.execShflXor o s
  | .voteAny o => Sys2Proof.Machine.execVoteAny o s
  | .voteAll o => Sys2Proof.Machine.execVoteAll o s
  | .ballot o => Sys2Proof.Machine.execBallot o s
  | .redIadd o => Sys2Proof.Machine.execRedIadd o s
  | .redFaddF32 o => Sys2Proof.Machine.execRedFaddF32 o s
  | .scanIadd o => Sys2Proof.Machine.execScanIadd o s
  | .blkqD8 o => Sys2Proof.Machine.execBlkqD8 o s
  | .blkqD4 o => Sys2Proof.Machine.execBlkqD4 o s
  | .xlate o => Sys2Proof.Machine.execXlate o s
  | .hrel o => Sys2Proof.Machine.execHrel o s
  | .preq o => Sys2Proof.Machine.execPreq o s
  | .ldN8 o => Sys2Proof.Machine.execLdN8 o s
  | .ldN16 o => Sys2Proof.Machine.execLdN16 o s
  | .ldW o => Sys2Proof.Machine.execLdW o s
  | .ldD o => Sys2Proof.Machine.execLdD o s
  | .ldQ o => Sys2Proof.Machine.execLdQ o s
  | .stB o => Sys2Proof.Machine.execStB o s
  | .stH o => Sys2Proof.Machine.execStH o s
  | .stW o => Sys2Proof.Machine.execStW o s
  | .stD o => Sys2Proof.Machine.execStD o s
  | .stQ o => Sys2Proof.Machine.execStQ o s
  | .ldsW o => Sys2Proof.Machine.execLdsW o s
  | .ldsQ o => Sys2Proof.Machine.execLdsQ o s
  | .stsW o => Sys2Proof.Machine.execStsW o s
  | .stsQ o => Sys2Proof.Machine.execStsQ o s
  | .ldcW o => Sys2Proof.Machine.execLdcW o s
  | .stcW o => Sys2Proof.Machine.execStcW o s
  | .gathW o => Sys2Proof.Machine.execGathW o s
  | .ldaW o => Sys2Proof.Machine.execLdaW o s
  | .stlW o => Sys2Proof.Machine.execStlW o s
  | .fenceAcq o => Sys2Proof.Machine.execFenceAcq o s
  | .fenceRel o => Sys2Proof.Machine.execFenceRel o s
  | .fenceFull o => Sys2Proof.Machine.execFenceFull o s
  | .aaddI32 o => Sys2Proof.Machine.execAaddI32 o s
  | .aaddF32 o => Sys2Proof.Machine.execAaddF32 o s
  | .aminI32 o => Sys2Proof.Machine.execAminI32 o s
  | .amaxI32 o => Sys2Proof.Machine.execAmaxI32 o s
  | .aand o => Sys2Proof.Machine.execAand o s
  | .aor o => Sys2Proof.Machine.execAor o s
  | .axchg o => Sys2Proof.Machine.execAxchg o s
  | .acas o => Sys2Proof.Machine.execAcas o s
  | .barinit o => Sys2Proof.Machine.execBarinit o s
  | .arrive o => Sys2Proof.Machine.execArrive o s
  | .arrivew o => Sys2Proof.Machine.execArrivew o s
  | .bwait o => Sys2Proof.Machine.execBwait o s
  | .bexpect o => Sys2Proof.Machine.execBexpect o s
  | .sstep o => Sys2Proof.Machine.execSstep o s
  | .tdesc o => Sys2Proof.Machine.execTdesc o s
  | .cpyLd o => Sys2Proof.Machine.execCpyLd o s
  | .cpySt o => Sys2Proof.Machine.execCpySt o s
  | .cpym o => Sys2Proof.Machine.execCpym o s
  | .cpyg o => Sys2Proof.Machine.execCpyg o s
  | .cpyp o => Sys2Proof.Machine.execCpyp o s
  | .seal o => Sys2Proof.Machine.execSeal o s
  | .cwait o => Sys2Proof.Machine.execCwait o s
  | .mlodge o => Sys2Proof.Machine.execMlodge o s
  | .mstream o => Sys2Proof.Machine.execMstream o s
  | .mscale o => Sys2Proof.Machine.execMscale o s
  | .mzero o => Sys2Proof.Machine.execMzero o s
  | .mrd o => Sys2Proof.Machine.execMrd o s
  | .mwr o => Sys2Proof.Machine.execMwr o s
  | .dtab o => Sys2Proof.Machine.execDtab o s
  | .dgo o => Sys2Proof.Machine.execDgo o s
  | .dgoRs o => Sys2Proof.Machine.execDgoRs o s
  | .dpop o => Sys2Proof.Machine.execDpop o s
  | .dstat o => Sys2Proof.Machine.execDstat o s
  | .add o => Sys2Proof.Machine.execAdd o s
  | .sub o => Sys2Proof.Machine.execSub o s
  | .mul o => Sys2Proof.Machine.execMul o s
  | .mulhI64 o => Sys2Proof.Machine.execMulhI64 o s
  | .mulhN64 o => Sys2Proof.Machine.execMulhN64 o s
  | .cAnd o => Sys2Proof.Machine.execCAnd o s
  | .cOr o => Sys2Proof.Machine.execCOr o s
  | .cXor o => Sys2Proof.Machine.execCXor o s
  | .cShl o => Sys2Proof.Machine.execCShl o s
  | .shrN64 o => Sys2Proof.Machine.execShrN64 o s
  | .shrI64 o => Sys2Proof.Machine.execShrI64 o s
  | .minI64 o => Sys2Proof.Machine.execMinI64 o s
  | .maxI64 o => Sys2Proof.Machine.execMaxI64 o s
  | .minN64 o => Sys2Proof.Machine.execMinN64 o s
  | .maxN64 o => Sys2Proof.Machine.execMaxN64 o s
  | .cMov o => Sys2Proof.Machine.execCMov o s
  | .cPopc o => Sys2Proof.Machine.execCPopc o s
  | .cClz o => Sys2Proof.Machine.execCClz o s
  | .cBfx o => Sys2Proof.Machine.execCBfx o s
  | .scmpI64 o => Sys2Proof.Machine.execScmpI64 o s
  | .scmpN64 o => Sys2Proof.Machine.execScmpN64 o s
  | .pand o => Sys2Proof.Machine.execPand o s
  | .por o => Sys2Proof.Machine.execPor o s
  | .pxor o => Sys2Proof.Machine.execPxor o s
  | .pnot o => Sys2Proof.Machine.execPnot o s
  | .p2s o => Sys2Proof.Machine.execP2s o s
  | .s2p o => Sys2Proof.Machine.execS2p o s
  | .chkS o => Sys2Proof.Machine.execChkS o s
  | .bra o => Sys2Proof.Machine.execBra o s
  | .call o => Sys2Proof.Machine.execCall o s
  | .ret o => Sys2Proof.Machine.execRet o s
  | .jtab o => Sys2Proof.Machine.execJtab o s
  | .split o => Sys2Proof.Machine.execSplit o s
  | .exit o => Sys2Proof.Machine.execExit o s
  | .kill o => Sys2Proof.Machine.execKill o s
  | .lsetup o => Sys2Proof.Machine.execLsetup o s
  | .wait o => Sys2Proof.Machine.execWait o s
  | .mon o => Sys2Proof.Machine.execMon o s
  | .mwait o => Sys2Proof.Machine.execMwait o s
  | .yield o => Sys2Proof.Machine.execYield o s
  | .trap o => Sys2Proof.Machine.execTrap o s
  | .sysrd o => Sys2Proof.Machine.execSysrd o s
  | .syswr o => Sys2Proof.Machine.execSyswr o s
  | .brk o => Sys2Proof.Machine.execBrk o s
  | .brkStep o => Sys2Proof.Machine.execBrkStep o s
  | .brkBset o => Sys2Proof.Machine.execBrkBset o s
  | .brkWset o => Sys2Proof.Machine.execBrkWset o s
  | .launch o => Sys2Proof.Machine.execLaunch o s
  | .nexttile o => Sys2Proof.Machine.execNexttile o s
  | .commit o => Sys2Proof.Machine.execCommit o s
  | .snap o => Sys2Proof.Machine.execSnap o s
  | .snapq o => Sys2Proof.Machine.execSnapq o s
  | .rollin o => Sys2Proof.Machine.execRollin o s
  | .tick o => Sys2Proof.Machine.execTick o s
  | .statq o => Sys2Proof.Machine.execStatq o s
  | .resultLanding coach idx => Sys2Proof.Machine.execResultLanding coach idx s
  | .waitEnd coach => Sys2Proof.Machine.execWaitEnd coach s
  | .mwaitWake coach => Sys2Proof.Machine.execMwaitWake coach s
  | .mwaitTimeout coach => Sys2Proof.Machine.execMwaitTimeout coach s
  | .yieldExpire coach => Sys2Proof.Machine.execYieldExpire coach s
  | .stepTrap coach => Sys2Proof.Machine.execStepTrap coach s
  | .walkEnd walk => Sys2Proof.Machine.execWalkEnd walk s
  | .memoryAccessComplete op part => Sys2Proof.Machine.execMemoryAccessComplete op part s
  | .lossNoticeAck op => Sys2Proof.Machine.execLossNoticeAck op s
  | .pageResponse req granted => Sys2Proof.Machine.execPageResponse req granted s
  | .commitDrainComplete commit part => Sys2Proof.Machine.execCommitDrainComplete commit part s
  | .preemptRequest party => Sys2Proof.Machine.execPreemptRequest party s
  | .preemptSave party => Sys2Proof.Machine.execPreemptSave party s
  | .partyRestore party => Sys2Proof.Machine.execPartyRestore party s
  | .tableMismatch wing => Sys2Proof.Machine.execTableMismatch wing s
  | .partyPlace party => Sys2Proof.Machine.execPartyPlace party s
  | .priorityPromote party => Sys2Proof.Machine.execPriorityPromote party s
  | .coachRelease coach => Sys2Proof.Machine.execCoachRelease coach s
  | .launchDone launch => Sys2Proof.Machine.execLaunchDone launch s
  | .tileChunkDeal launch die => Sys2Proof.Machine.execTileChunkDeal launch die s
  | .superstepComplete launch group level => Sys2Proof.Machine.execSuperstepComplete launch group level s
  | .courierChunkDelivery cmd chunk => Sys2Proof.Machine.execCourierChunkDelivery cmd chunk s
  | .courierSourceRead cmd part => Sys2Proof.Machine.execCourierSourceRead cmd part s
  | .courierCommandComplete cmd => Sys2Proof.Machine.execCourierCommandComplete cmd s
  | .batchComplete coach => Sys2Proof.Machine.execBatchComplete coach s
  | .matrixOpStart wing => Sys2Proof.Machine.execMatrixOpStart wing s
  | .mlodgeRendezvous party => Sys2Proof.Machine.execMlodgeRendezvous party s
  | .matrixOpComplete wing op => Sys2Proof.Machine.execMatrixOpComplete wing op s
  | .mstarve wing => Sys2Proof.Machine.execMstarve wing s
  | .droverIteration wing => Sys2Proof.Machine.execDroverIteration wing s
  | .droverBeatArrival wing beat => Sys2Proof.Machine.execDroverBeatArrival wing beat s
  | .droverWalkEnd wing => Sys2Proof.Machine.execDroverWalkEnd wing s
  | .inval core => Sys2Proof.Machine.execInval core s
  | .wbset core => Sys2Proof.Machine.execWbset core s
  | .release core => Sys2Proof.Machine.execRelease core s
  | .atsInvalidation pasid va len => Sys2Proof.Machine.execAtsInvalidation pasid va len s
  | .hostBarAccess o => Sys2Proof.Machine.execHostBarAccess o s
  | .refresh channel => Sys2Proof.Machine.execRefresh channel s
  | .refreshAlert channel => Sys2Proof.Machine.execRefreshAlert channel s
  | .scrub o => Sys2Proof.Machine.execScrub o s
  | .waymarkArrival link o => Sys2Proof.Machine.execWaymarkArrival link o s
  | .linkItemArrival link o => Sys2Proof.Machine.execLinkItemArrival link o s
  | .cutDelayTimeout asid die => Sys2Proof.Machine.execCutDelayTimeout asid die s
  | .granuleDrain asid => Sys2Proof.Machine.execGranuleDrain asid s
  | .packageReport o => Sys2Proof.Machine.execPackageReport o s
  | .verdict o => Sys2Proof.Machine.execVerdict o s
  | .rollbackNotice link o => Sys2Proof.Machine.execRollbackNotice link o s
  | .dieStop die => Sys2Proof.Machine.execDieStop die s
  | .lanternSample wing => Sys2Proof.Machine.execLanternSample wing s
  | .lanternRecord wing => Sys2Proof.Machine.execLanternRecord wing s
  | .injectorFire inj => Sys2Proof.Machine.execInjectorFire inj s
  | .linkDown link => Sys2Proof.Machine.execLinkDown link s
  | .boot o => Sys2Proof.Machine.execBoot o s
  | .recoveryImageWrite image signature => Sys2Proof.Machine.execRecoveryImageWrite image signature s
  | .ualinkTraining port => Sys2Proof.Machine.execUalinkTraining port s
  | .wingReturnToService wing => Sys2Proof.Machine.execWingReturnToService wing s
  | .stewardRestart coach => Sys2Proof.Machine.execStewardRestart coach s
  | .heartbeatTimeout asid package => Sys2Proof.Machine.execHeartbeatTimeout asid package s
  | .configWrite offset value => Sys2Proof.Machine.execConfigWrite offset value s
  | .currentLimit die current => Sys2Proof.Machine.execCurrentLimit die current s
  | .thermalLimit power => Sys2Proof.Machine.execThermalLimit power s
  | .junctionLimit celsius => Sys2Proof.Machine.execJunctionLimit celsius s
  | .barProgramming fn base ranges atomicOp => Sys2Proof.Machine.execBarProgramming fn base ranges atomicOp s
  | .rot => Sys2Proof.Machine.execRot s
  | .lend => Sys2Proof.Machine.execLend s
  | .join => Sys2Proof.Machine.execJoin s
  | .rett => Sys2Proof.Machine.execRett s
  | .tcqTake => Sys2Proof.Machine.execTcqTake s
  | .context => Sys2Proof.Machine.execContext s
  | .presp => Sys2Proof.Machine.execPresp s
  | .tcqCommandComplete => Sys2Proof.Machine.execTcqCommandComplete s
  | .livegenWrite => Sys2Proof.Machine.execLivegenWrite s
  | .auth => Sys2Proof.Machine.execAuth s
  | .stopat => Sys2Proof.Machine.execStopat s
  | .scan => Sys2Proof.Machine.execScan s
  | .resume => Sys2Proof.Machine.execResume s
  | .dbgen => Sys2Proof.Machine.execDbgen s
  | .lantern => Sys2Proof.Machine.execLantern s
  | .injrd => Sys2Proof.Machine.execInjrd s
  | .injwr => Sys2Proof.Machine.execInjwr s
  | .grantExpiry => Sys2Proof.Machine.execGrantExpiry s
  | .negotiate => Sys2Proof.Machine.execNegotiate s
  | .kmqTake => Sys2Proof.Machine.execKmqTake s
  | .kgen => Sys2Proof.Machine.execKgen s
  | .kseal => Sys2Proof.Machine.execKseal s
  | .kimport => Sys2Proof.Machine.execKimport s
  | .kclear => Sys2Proof.Machine.execKclear s

end Sys2Proof.Machine
end

