-- ==== Sys2Proof/Machine/Loader.lean ====
section
/-! DEFINITION. Code objects and what the assembler, the linker and the loader of the driver do with them that fixes bits: the
form of a literal (R68), padding (R71), the object's layout (R72 to R76), relocation (R78, R80), requirements (R81, R82), bindings
(R84, R85), the checks at load and the refusal codes (R88, R89), and the placed image. The loader is a program of the host (log
75): no step runs it, and loadObject is what it answers. -/

namespace Sys2Proof.Machine

/-! Two choices of the assembler. -/

/-- A source operand written as a value (R67, R68): an integer; num * 10^tens with a sign, an infinity or a NaN; an expression that
holds a relocatable symbol, with the kind of its relocation (R79). -/
inductive SourceValue where
  | int (v : Int)
  | real (neg : Bool) (num : Nat) (tens : Int)
  | inf (neg : Bool)
  | nan
  | symbol (kind : Nat)
  deriving DecidableEq, Repr

/-- The operand that it is written in: a 64-bit scalar one, one of scalar kind, its floating-point format if it has one, and whether it is
a packed pair. -/
structure SourceOperand where
  wide : Bool
  scalar : Bool
  fmt : Option Fmt
  pair : Bool
  deriving DecidableEq, Repr

/-- A decimal value as a number in binary, if it is one. -/
def decimal? (neg : Bool) (num : Nat) (tens : Int) : Option Num :=
  if 0 ≤ tens then some (.fin neg (num * 10 ^ tens.toNat) 0)
  else if num % 5 ^ (-tens).toNat = 0 then some (.fin neg (num / 5 ^ (-tens).toNat) tens)
  else none

/-- The image of a floating-point value in an operand's format, if the conversion is exact. -/
def exactImage (f : Fmt) (x : Num) : Option Nat :=
  let r := f.encode .near .ieee false x
  if r.2 &&& (flagNX ||| flagOF) = 0 then some r.1 else none

/-- The image of a written value in an operand. -/
def SourceOperand.image (o : SourceOperand) (v : SourceValue) : Option Nat :=
  o.fmt.bind fun f => match v with
    | .real neg num tens => (decimal? neg num tens).bind (exactImage f)
    | .inf neg => exactImage f (.inf neg)
    | .nan => some f.nan
    | _ => none

/-- The constant that represents a value (form 1). -/
def constForm (o : SourceOperand) (v : SourceValue) : Option Nat :=
  match v with
  | .int k => if 0 ≤ k ∧ k ≤ 15 then some k.toNat else none
  | _ => o.fmt.bind fun f => if f = f32 ∨ f = f16 ∨ f = b16 then (upto 16).find? fun k => o.image v == some (f.const k) else none

/-- The one literal word that represents a value (form 2). -/
def wordForm (o : SourceOperand) (v : SourceValue) : Option (List Word) :=
  match v with
  | .int v => if -(2 ^ 31) ≤ v ∧ v < (if o.wide then 2 ^ 31 else 2 ^ 32) then some [BitVec.ofInt 32 v] else none
  | .symbol kind => if kind = 1 then none else some [0]
  | v => (o.image v).map fun x => [BitVec.ofNat 32 (if o.pair then x + 2 ^ 16 * x else x)]

/-- The two literal words that represent a value (form 3). -/
def wideForm (o : SourceOperand) (v : SourceValue) : Option (List Word) :=
  match v with
  | .int v => if o.scalar && decide (-(2 ^ 63) ≤ v ∧ v < 2 ^ 64) then some [BitVec.ofInt 32 v, BitVec.ofInt 32 (v / 2 ^ 32)] else none
  | .symbol kind => if o.scalar && kind == 1 then some [0, 0] else none
  | _ => none

/-- The form of a source operand, its code and literal words: the first that represents the value, or the one that lit32 or lit64
forces (R68). The words of a relocatable symbol are its relocation's. -/
def literalForm (o : SourceOperand) (forced : Option Nat) (v : SourceValue) : Option (Nat × List Word) :=
  let one := (wordForm o v).map fun ws => (0xFE, ws)
  let two := (wideForm o v).map fun ws => (0xFF, ws)
  match forced with
  | none => ((constForm o v).map fun k => (0xD0 + k, [])).or (one.or two)
  | some n => if n = 1 then one else two

/-- How many empty bundles .align n inserts in text at a location, if the source is not rejected (R71). -/
def alignFill (n loc : Nat) : Option Nat :=
  if 8 ≤ n ∧ loc % 8 ≠ 0 then none else (upto (n + 1)).find? fun i => (loc + 24 * i) % n = 0

/-! Reading an object. -/

/-- An unsigned field of a file; 0 beyond its end. -/
def fileNat (f : List Byte) (off n : Nat) : Nat := leNat ((f.drop off).take n)

/-- Bytes of a file. -/
def fileBytes (f : List Byte) (off n : Nat) : List Byte := (f.drop off).take n

/-- A file with some bytes replaced. -/
def patch (f : List Byte) (off : Nat) (bs : List Byte) : List Byte := f.take off ++ bs ++ f.drop (off + bs.length)

/-- Sections of an object (R72), in table order: kind, alignment, size, file offset, and where the entry lies. -/
structure Sect where
  kind : Nat
  align : Nat
  size : Nat
  off : Nat
  at_ : Nat
  deriving DecidableEq, Repr

/-- A symbol (R73). -/
structure Sym where
  name : Nat
  sect : Nat
  bind : Nat
  value : Nat
  at_ : Nat
  deriving DecidableEq, Repr

/-- A relocation (R73). -/
structure Reloc where
  place : Nat
  sym : Nat
  sect : Nat
  kind : Nat
  addend : Int
  at_ : Nat
  deriving DecidableEq, Repr

/-- The tables of the header (R72), as offset and count. -/
def reqTab (f : List Byte) : Nat × Nat := (fileNat f 0x50 8, fileNat f 0x58 4)
def secTab (f : List Byte) : Nat × Nat := (fileNat f 0x60 8, fileNat f 0x5C 4)
def symTab (f : List Byte) : Nat × Nat := (fileNat f 0x68 8, fileNat f 0x70 4)
def relTab (f : List Byte) : Nat × Nat := (fileNat f 0x78 8, fileNat f 0x74 4)
def kernTab (f : List Byte) : Nat × Nat := (fileNat f 0x80 8, fileNat f 0x88 4)
def emuTab (f : List Byte) : Nat × Nat := (fileNat f 0x90 8, fileNat f 0x8C 4)
def uzodanAt (f : List Byte) : Nat × Nat := (fileNat f 0x98 8, fileNat f 0xA0 8)
def strTab (f : List Byte) : Nat × Nat := (fileNat f 0xC8 8, fileNat f 0xD0 4)

/-- Where the entries of a table of a size lie. -/
def entriesAt (t : Nat × Nat) (size : Nat) : List Nat := (upto t.2).map fun i => t.1 + size * i

def sections (f : List Byte) : List Sect :=
  (entriesAt (secTab f) 32).map fun o =>
    { kind := fileNat f o 4, align := fileNat f (o + 4) 4, size := fileNat f (o + 8) 8, off := fileNat f (o + 16) 8, at_ := o }

def symbols (f : List Byte) : List Sym :=
  (entriesAt (symTab f) 24).map fun o =>
    { name := fileNat f o 4, sect := fileNat f (o + 4) 2, bind := fileNat f (o + 6) 1, value := fileNat f (o + 8) 8, at_ := o }

def relocs (f : List Byte) : List Reloc :=
  (entriesAt (relTab f) 24).map fun o =>
    { place := fileNat f o 8, sym := fileNat f (o + 8) 4, sect := fileNat f (o + 12) 2, kind := fileNat f (o + 14) 1,
      addend := (BitVec.ofNat 64 (fileNat f (o + 16) 8)).toInt, at_ := o }

/-- Where n kernel descriptors from an offset lie: each takes 64 bytes and 16 for each role (R76). -/
def kernelOffs (f : List Byte) : Nat → Nat → List Nat
  | 0, _ => []
  | n + 1, o => o :: kernelOffs f n (o + 64 + 16 * fileNat f (o + 0x0D) 1)

def kernelsAt (f : List Byte) : List Nat := kernelOffs f (kernTab f).2 (kernTab f).1

/-- The role entries of the descriptor at an offset. -/
def rolesAt (f : List Byte) (o : Nat) : List Nat := entriesAt (o + 0x40, fileNat f (o + 0x0D) 1) 16

/-- The offset of the kernel's table in the dtable section, if it has one (R76). -/
def dtabAt (f : List Byte) (o : Nat) : Option Nat := if fileNat f (o + 0x10) 8 = 2 ^ 64 - 1 then none else some (fileNat f (o + 0x10) 8)

/-- The bytes of a section; one with file offset 0 is all zero (R72). -/
def sectBytes (f : List Byte) (x : Sect) : List Byte := if x.off = 0 then List.replicate x.size 0 else fileBytes f x.off x.size

/-! Refusals with code 1 (R72, R74, R75, R89). -/

/-- The least offset of a list. -/
def least (l : List Nat) : Option Nat := (sortBy (fun n => n) l).head?

/-- The reserved fields of an object (R74), as offset and length. -/
def reservedFields (f : List Byte) : List (Nat × Nat) :=
  (0xD4, 44) :: (entriesAt (secTab f) 32).map (fun o => (o + 24, 8)) ++ (entriesAt (symTab f) 24).map (fun o => (o + 7, 1)) ++
    (entriesAt (relTab f) 24).map (fun o => (o + 15, 1)) ++ (entriesAt (reqTab f) 16).map (fun o => (o + 2, 6)) ++
    (entriesAt (emuTab f) 16).map (fun o => (o + 2, 6)) ++
    (kernelsAt f).flatMap fun o => [(o + 0x0E, 2), (o + 0x28, 24)] ++ (rolesAt f o).map fun r => (r + 3, 5)

/-- Where a reserved field is not zero, that of FLAGS in a descriptor included. -/
def reservedSet (f : List Byte) : Option Nat :=
  least (((reservedFields f).filter fun r => fileNat f r.1 r.2 ≠ 0).map (·.1) ++
    ((kernelsAt f).filter fun o => fileNat f (o + 7) 1 / 32 ≠ 0).map (· + 7))

/-- Whether a table lies in the file. -/
def fits (f : List Byte) (t : Nat × Nat) (size : Nat) : Bool := t.2 == 0 || t.1 + size * t.2 ≤ f.length

/-- The DIGEST that a file should have (R72). -/
def objectDigest (f : List Byte) : List Byte := digest (patch f 0xA8 (List.replicate 32 0))

/-- A fault of the header or of where its tables lie. -/
def headerBad (f : List Byte) : Option Nat :=
  if f.length < 0x100 ∨ fileNat f 0 4 ≠ 0x4F435158 then some 0
  else if fileNat f 4 4 ≠ 0x100 then some 4
  else if !fits f (reqTab f) 16 then some 0x50
  else if !fits f (secTab f) 32 then some 0x60
  else if !fits f (symTab f) 24 then some 0x68
  else if !fits f (relTab f) 24 then some 0x78
  else if (kernTab f).1 % 16 ≠ 0 ∨ (kernelsAt f).any (fun o => f.length < o + 64 + 16 * fileNat f (o + 0x0D) 1) then some 0x80
  else if !fits f (emuTab f) 16 then some 0x90
  else if !fits f (uzodanAt f) 1 then some 0x98
  else if fileBytes f 0xA8 32 ≠ objectDigest f then some 0xA8
  else if !fits f (strTab f) 1 then some 0xC8
  else none

/-- A fault of the string table: its first byte, or a name that does not begin and end in it (R75). -/
def stringsBad (f : List Byte) : Option Nat :=
  let (o, n) := strTab f
  let bad (name : Nat) : Bool := n ≤ name || !((fileBytes f (o + name) (n - name)).contains 0)
  if n = 0 ∨ fileNat f o 1 ≠ 0 then some o
  else ((symbols f).find? fun y => bad y.name).map (·.at_) |>.orElse fun _ => (kernelsAt f).find? fun k => bad (fileNat f k 4)

/-- A fault of a section entry: its kind, a second of one kind (R75), its alignment, its bytes. R72 gives no range for an alignment: one that is
no power of two, 0 among them, is taken as malformed (log 75). -/
def sectionBad (f : List Byte) : Option Nat :=
  let ss := sections f
  (ss.find? fun x => x.kind == 0 || decide (4 < x.kind) || decide (1 < (ss.filter fun y => y.kind == x.kind).length) ||
    !(upto 32).any (fun i => x.align == 2 ^ i) || (x.off != 0 && decide (f.length < x.off + x.size))).map (·.at_)

/-- The size of section i, 0 if there is none. -/
def sectSize (f : List Byte) (i : Nat) : Nat := ((sections f)[i]?.map fun (x : Sect) => x.size).getD 0

/-- A symbol or a relocation that names nothing (R73). -/
def entryBad (f : List Byte) : Option Nat :=
  let nk := (kernTab f).2
  let nsec := (secTab f).2
  let sym := (symbols f).find? fun y =>
    decide (1 < y.bind) || !(y.sect == 0xFFFF || (y.sect == 0xFFFE && decide (y.value < nk)) ||
      (decide (y.sect < nsec) && decide (y.value ≤ sectSize f y.sect)))
  let rel := (relocs f).find? fun r => decide ((symTab f).2 ≤ r.sym) || decide (nsec ≤ r.sect) || decide (sectSize f r.sect < r.place + 4)
  (sym.map (·.at_)).orElse fun _ => rel.map (·.at_)

/-- A descriptor whose fields break the limits of its directives (R70, R76). It is refused with code 1, for a role's budget too, where R89 does
not say whether code 1 or 7 applies (log 75). -/
def kernelBad (f : List Byte) (o : Nat) : Bool :=
  let w := fileNat f (o + 4) 1
  let nlev := fileNat f (o + 5) 1
  let kinds := fileNat f (o + 6) 1
  let scratch := fileNat f (o + 8) 4
  let l1 := fileNat f (o + 0x0C) 1
  let nrole := fileNat f (o + 0x0D) 1
  let rs := rolesAt f o
  !(w == 16 || w == 32 || w == 64) || nlev == 0 || 4 < nlev || kinds / 4 ^ nlev != 0 ||
    !levelsOk ((upto nlev).map fun i => kindOf (kinds / 4 ^ i % 4)) || scratch % 256 != 0 || !(l1 == 64 || l1 == 128) ||
    (scratch != 0 && padEnd l1 < scratch + 512) || nrole == 0 || 16 < nrole || fileNat f (o + 0x20) 8 != 0 ||
    (rs.any fun r => 3 < fileNat f r 1 || fileNat f (r + 1) 1 == 0 || 16 < fileNat f (r + 1) 1 ||
      fileNat f (r + 2) 1 == 0 || 24 < fileNat f (r + 2) 1) || 16 < (rs.map fun r => fileNat f (r + 1) 1).foldl (· + ·) 0

/-- Code 1. -/
def malformedAt (f : List Byte) : Option Nat :=
  (headerBad f).orElse fun _ => (reservedSet f).orElse fun _ => (stringsBad f).orElse fun _ => (sectionBad f).orElse fun _ =>
    (entryBad f).orElse fun _ => (kernelsAt f).find? (kernelBad f)

/-! Features and requirements (R81, R82, R84). -/

/-- Whether a feature bit is assigned (R81). -/
def assignedBit (n : Nat) : Bool := xq1Mask.getLsbD n || (256 ≤ n && n ≤ 319)

/-- Whether a feature bit may be bound (R84). -/
def bindable (n : Nat) : Bool := n == 9 || (256 ≤ n && n ≤ 319)

def reqBit (f : List Byte) (n : Nat) : Bool := tbit (fileNat f (0x10 + n / 8) 1) (n % 8)

/-- The bindings of an object: bit, routine's offset in text, where the entry lies. -/
def bindings (f : List Byte) : List (Nat × Nat × Nat) :=
  (entriesAt (emuTab f) 16).map fun o => (fileNat f o 2, fileNat f (o + 8) 8, o)

/-- The first required bit that the device lacks and nothing binds. -/
def missingBit (f : List Byte) (mask : BitVec 512) : Option Nat :=
  (upto 512).find? fun n => reqBit f n && !(mask.getLsbD n || (bindings f).any fun b => b.1 == n)

/-- What the host gives the loader: the negotiated mask and timing identifier of the device, the job's packages and ASID, and the
virtual addresses at which it has room for text, const, data and dtable and for the placed descriptors. -/
structure LoadSite where
  mask : BitVec 512
  timing : Dbl
  packages : Nat
  asid : Nat
  bases : List Nat
  descs : Nat
  deriving DecidableEq, Repr

/-- Whether a requirement is met (R81). The scratchpad available on a core is taken as the most that an allocation can have beside the smaller
L1 share (log 75). -/
def requirementMet (l : LoadSite) (kind v : Nat) : Bool :=
  match kind with
  | 1 => v + 512 ≤ padEnd 64
  | 2 => v == 64 || v == 128
  | 3 => v == 16 || v == 32 || (v == 64 && l.mask.getLsbD 1)
  | 4 => v ≤ l.packages
  | 5 => v ≤ 65536
  | _ => false

/-- Codes 2 and 8: an unassigned bit, a binding that is not permitted, then R82. -/
def featureRefusal (f : List Byte) : Option (Nat × Nat) :=
  match (upto 512).find? fun n => reqBit f n && !assignedBit n with
  | some n => some (2, 0x10 + n / 8)
  | none => ((bindings f).find? fun b => !bindable b.1).map fun b => (2, b.2.2)

/-- Whether the code is used as shipped (R82). -/
def usedAsShipped (f : List Byte) (l : LoadSite) : Bool :=
  fileNat f 8 8 == l.timing.toNat && (missingBit f l.mask).isNone

/-! Relocation (R78, R80). -/

/-- The address at which a section of a kind is placed. -/
def LoadSite.base (l : LoadSite) (kind : Nat) : Nat := nth l.bases (kind - 1) 0

/-- The site with each section's address brought up to a multiple of its alignment (R72). -/
def LoadSite.aligned (l : LoadSite) (f : List Byte) : LoadSite :=
  let align (kind : Nat) : Nat := max 1 ((((sections f).find? fun x => x.kind == kind).map fun (x : Sect) => x.align).getD 1)
  { l with bases := (upto 4).map fun k => (l.base (k + 1) + align (k + 1) - 1) / align (k + 1) * align (k + 1) }

/-- The address of the placed descriptor of kernel i, a multiple of 64 (R76): each has room for sixteen roles. -/
def LoadSite.desc (l : LoadSite) (i : Nat) : Nat := (l.descs + 63) / 64 * 64 + 320 * i

/-- The address of a symbol, its section's base, and whether it is a kernel symbol; none if undefined. -/
def symbolAddr (f : List Byte) (l : LoadSite) (y : Sym) : Option (Nat × Nat × Bool) :=
  if y.sect = 0xFFFE then some (l.desc y.value, 0, true)
  else (sections f)[y.sect]?.map fun (x : Sect) => (l.base x.kind + y.value, l.base x.kind, false)

/-- The bundles of a text, as offset and bytes. A text that does not end with a bundle leaves a short last one. -/
def cutText : Nat → List Byte → Nat → List (Nat × List Byte)
  | 0, _, _ => []
  | n + 1, bs, off =>
    if bs.isEmpty then []
    else
      let len := 24 + 4 * litcOf (leNat (bs.take 4))
      (off, bs.take len) :: cutText n (bs.drop len) (off + len)

def textSect? (f : List Byte) : Option Sect := (sections f).find? fun x => x.kind == 1
def textBytes (f : List Byte) : List Byte := ((textSect? f).map (sectBytes f)).getD []
def bundlesOf (t : List Byte) : List (Nat × List Byte) := cutText t.length t 0

/-- The kernel in whose text a bundle stands: the one with the greatest first entry at or below it, else the first (log 75). -/
def kernelFor (f : List Byte) (off : Nat) : Option Nat :=
  let firsts := (kernelsAt f).map fun o => (((rolesAt f o).map fun r => fileNat f (r + 8) 8).foldl min (2 ^ 64), o)
  let best := (firsts.filter fun p => p.1 ≤ off).foldl (fun (b : Option (Nat × Nat)) p => match b with
    | none => some p
    | some q => if q.1 < p.1 then some p else some q) none
  (best.orElse fun _ => firsts.head?).map (·.2)

/-- Entry i of a kernel's dispatch table: the address that its DATA64 relocation gives, else the stored value. -/
def dispatchEntry (f : List Byte) (l : LoadSite) (dt : Nat) (i : Nat) : Nat :=
  match (sections f).findIdx? fun x => x.kind == 4 with
  | none => 0
  | some n =>
    match (relocs f).find? fun r => r.sect == n && r.place == dt + 8 * i with
    | some r => ((((symbols f)[r.sym]?.bind (symbolAddr f l)).map fun p => (p.1 : Int) + r.addend).getD 0).toNat
    | none => match (sections f)[n]? with
      | some x => leNat (((sectBytes f x).drop (dt + 8 * i)).take 8)
      | none => 0

/-- The dispatch table of a kernel, in index order. -/
def dispatchTable (f : List Byte) (l : LoadSite) (o : Nat) : List Nat :=
  match dtabAt f o with
  | none => []
  | some dt => (upto (fileNat f (o + 0x18) 8)).map (dispatchEntry f l dt)

/-- The value of a relocation, its number of bytes, and whether it fits; none if it is unresolved, of no kind, or against a
kernel symbol where that may not stand (R78 to R80). -/
def relocValue (f : List Byte) (l : LoadSite) (r : Reloc) : Option (Int × Nat × Bool) :=
  match (symbols f)[r.sym]?, (sections f)[r.sect]? with
  | some y, some x =>
    match symbolAddr f l y with
    | none => none
    | some (a, base, ker) =>
      let v : Int := a + r.addend
      let within (v lo hi : Int) : Bool := decide (lo ≤ v) && decide (v < hi)
      let text := x.kind == 1
      let p : Nat := l.base 1 + (((bundlesOf (textBytes f)).find? fun b => b.1 ≤ r.place && Nat.blt r.place (b.1 + b.2.length)).map (·.1)).getD r.place
      let rel : Int := v - p
      let index : Option Nat := (kernelFor f r.place).bind fun o => (dispatchTable f l o).findIdx? fun e => e == a
      if ker && !((r.kind == 1 && text) || (r.kind == 7 && (x.kind == 2 || x.kind == 3))) then none
      else match r.kind with
        | 1 => if text then some (v, 8, within v 0 (2 ^ 57)) else none
        | 2 => if text then some (v, 4, within v 0 (2 ^ 32)) else none
        | 3 => if text then some (v, 4, within v (-(2 ^ 31)) (2 ^ 31)) else none
        | 4 => if text then some (rel, 4, within rel (-(2 ^ 31)) (2 ^ 31) && rel % 4 == 0) else none
        | 5 => if text then some (v - base, 4, within (v - base) 0 (2 ^ 32)) else none
        | 6 => if text then index.map fun i =>
            ((i : Int) + r.addend, 4, within ((i : Int) + r.addend) 0 ((((kernelFor f r.place).map fun o => fileNat f (o + 0x18) 8).getD 0 : Nat) : Int))
          else none
        | 7 => if text then none else some (v, 8, within v 0 (2 ^ 57))
        | 8 => if x.kind == 2 || x.kind == 3 then some (v, 4, within v 0 (2 ^ 32)) else none
        | _ => none
  | _, _ => none

/-- Code 6: the first relocation that does not resolve or does not fit. An undefined symbol that no relocation names is accepted (log 75). -/
def relocBad (f : List Byte) (l : LoadSite) : Option Nat :=
  ((relocs f).find? fun r => match relocValue f l r with
    | some (_, n, ok) => !ok || decide (sectSize f r.sect < r.place + n)
    | none => true).map (·.at_)

/-- The bytes of section i after relocation. -/
def relocated (f : List Byte) (l : LoadSite) (i : Nat) : List Byte :=
  match (sections f)[i]? with
  | none => []
  | some x => ((relocs f).filter fun r => r.sect == i).foldl (fun bs r => match relocValue f l r with
      | some (v, n, _) => patch bs r.place (leBytes (v % 2 ^ 64).toNat n)
      | none => bs) (sectBytes f x)

/-- The text after relocation. -/
def relocatedText (f : List Byte) (l : LoadSite) : List Byte :=
  match (sections f).findIdx? fun x => x.kind == 1 with
  | some i => relocated f l i
  | none => []

/-! The checks of bundles (R88). -/

/-- The machine as far as a static check knows it: the negotiated mask. -/
def loaderState (l : LoadSite) : State := { State.reset with cfg := { State.reset.cfg with st := 3, negmask := l.mask } }

/-- The largest budget among a kernel's roles, in granules. -/
def maxBudget (f : List Byte) (o : Nat) : Nat := ((rolesAt f o).map fun r => fileNat f (r + 2) 1).foldl max 0

/-- A coach of a kernel as a static check sees it: nothing outstanding, a loop active, every lane on the path. Its counts are 0, so that a LEND
shifts nothing: R88 does not say how LEND counts statically (log 75). -/
def loaderCoach (f : List Byte) (off : Nat) : Coach :=
  let o := kernelFor f off
  { Coach.blank with
    present := true, width := (o.map fun o => fileNat f (o + 4) 1).getD 16, budget := (o.map (maxBudget f)).getD 24, schk := true,
    launched := BitVec.allOnes 64, live := BitVec.allOnes 64, ecnt := ecntOf true 0, stack := [StackEntry.base (BitVec.allOnes 64)] }

/-- Whether a bundle holds a transfer, which has a delay bundle (R119). -/
def Bundle.transfers (b : Bundle) : Bool :=
  match b.d.c with
  | .ok (.bra _) => true
  | .ok (.call _) => true
  | .ok (.ret _) => true
  | .ok (.jtab _) => true
  | _ => false

/-- Whether a bundle ends a block after itself: LEND returns to the body, LSETUP names the body's first bundle, and the others can leave for
another bundle with no delay bundle. -/
def Bundle.breaks (b : Bundle) : Bool := b.d.lend || (match b.d.c with
  | .ok (.lsetup _) => true
  | .ok (.split _) => true
  | .ok .join => true
  | .ok (.exit _) => true
  | .ok (.kill _) => true
  | .ok .rett => true
  | _ => false)

/-- The places in the text, from a bundle's own, that its literals name as targets (R118, R124). -/
def Bundle.literalTargets (b : Bundle) (off : Nat) : List Nat :=
  let at_ (w : Word) : Nat := ((off : Int) + w.toInt).toNat
  match b.d.c with
  | .ok (.bra o) => (match o.t with | .rel w => [at_ w] | _ => [])
  | .ok (.call o) => (match o.t with | .rel w => [at_ w] | _ => [])
  | .ok (.split o) => [at_ o.els, at_ o.join]
  | _ => []

/-- The feature bit that a syllable needs which decodes with it (R63, R299). -/
def instrGate : Instr → Option Nat
  | .blkqD4 _ => some 9
  | i => formatGate i

/-- The bits of a bundle's gated syllables (R63). -/
def Bundle.gates (b : Bundle) : List Nat := b.slots.filterMap fun r => match r with
  | .gated n => some n
  | .ok i => instrGate i
  | _ => none

/-- Whether a bundle with a gated syllable holds it alone, with ROT and STAGE zero (R84). -/
def Bundle.alone (b : Bundle) : Bool := (b.slots.filter busy).length == 1 && !b.d.rot && !b.d.lend

/-- Whether a gated bit keeps a bundle from being accepted: one that is bound where its syllable is not alone, whether the device has it or
not, or one that the device lacks and nothing binds (R84, R88). -/
def gateBad (f : List Byte) (l : LoadSite) (b : Bundle) (n : Nat) : Bool :=
  if (bindings f).any fun x => x.1 == n then !b.alone else !l.mask.getLsbD n

/-- Whether a transfer's literal makes a target that no bundle has, whatever its guard (R64, R118). -/
def literalTargetBad (p : Nat) : Instr → Bool
  | .bra o => (match o.t with | .rel w => badTarget (dnat p + w.signExtend 64) | _ => false)
  | .call o => (match o.t with | .rel w => badTarget (dnat p + w.signExtend 64) | _ => false)
  | .split o => badTarget (dnat p + o.els.signExtend 64) || badTarget (dnat p + o.join.signExtend 64)
  | _ => false

/-- Items 1, 4 and 7 of R88 for a bundle: the refusal code. A gated syllable that is not alone, or that nothing binds, is given code 2; and
the bundle after a transfer counts as its delay bundle although a guard may keep the transfer from being taken (log 75). -/
def bundleRefusal (f : List Byte) (l : LoadSite) (off : Nat) (bs : List Byte) (delay : Bool) : Option Nat :=
  let s := (loaderState l).setCur fun u => { u with pc := dnat (l.base 1 + off) }
  let b := bundleOf s bs
  if bs.length < 24 ∨ bs.length < 24 + 4 * b.d.litc then some 4
  else match decodeTrap s (loaderCoach f off) delay b with
    | some t => if t.code = 0x01 then some 4 else if t.code = 0x03 then some 7 else if b.gates.any (gateBad f l b) then some 2 else none
    | none =>
      if (b.slots.filterMap slotInstr?).any (literalTargetBad (l.base 1 + off)) then some 4
      else if b.gates.any (gateBad f l b) then some 2
      else none

/-- The value of a WAIT's count, if the bundle gives it. -/
def waitCount : SSrc → Option Nat
  | .const k => some k
  | .lit w => some (w.signExtend 64).toNat
  | .lit64 w => some w.toNat
  | _ => none

/-- What a bundle leaves in the nominal schedule of a coach, whatever its guards (R51, R88). -/
def nominalAfter (s : State) (c0 : Coach) (b : Bundle) : Coach :=
  let is := b.slots.filterMap slotInstr?
  let c1 := is.foldl (fun (c : Coach) i => match operands s c0 i with
    | none => c
    | some o =>
      let c := match o.enters with
        | some 4 => (c.enter .v c0.seq true [] 0).1
        | some 5 => (c.enter .m c0.seq true [] 0).1
        | some 6 => (c.enter .c c0.seq true [] 0).1
        | _ => c
      match o.flag with
      | some g => (c.openFlag g c0.seq [] none).1
      | none => c) c0
  let wait := is.findSome? fun i => match i with
    | .wait o => (waitCount o.b).map fun n => (o.f, n)
    | _ => none
  { c1.nomAfter c0 b.d.gap false wait (nomAdds s c0 c1 (fun _ => true) is) with seq := c0.seq + 1 }

/-- Items 2 and 3 of R88: the first bundle of a text that breaks the nominal schedule of its block. -/
def scheduleBad (f : List Byte) (l : LoadSite) (starts : List Nat) : List (Nat × List Byte) → Coach → Option Nat
  | [], _ => none
  | (off, bs) :: rest, c =>
    let s := loaderState l
    let b := bundleOf s bs
    let c := if starts.contains off then loaderCoach f off else c
    if (schedTrap s c (fun _ => true) b).isSome then some off else scheduleBad f l starts rest (nominalAfter s c b)

/-- The bundles that follow one which satisfies a test, n places on. -/
def follows (test : Bundle → Bool) (s : State) (n : Nat) (bs : List (Nat × List Byte)) : List Nat :=
  (bs.zip (bs.drop n)).filterMap fun p => if test (bundleOf s p.1.2) then some p.2.1 else none

/-- Where blocks begin: after a delay bundle and after a bundle that can be left without one, and at every target that a literal, a
relocation, a role entry or a dispatch table names (R88). -/
def blockStarts (f : List Byte) (l : LoadSite) (bs : List (Nat × List Byte)) : List Nat :=
  let s := loaderState l
  let text := l.base 1
  let named := (relocs f).filterMap fun r => ((symbols f)[r.sym]?.bind (symbolAddr f l)).map fun p => ((p.1 : Int) + r.addend - text).toNat
  let roles := (kernelsAt f).flatMap fun o => (rolesAt f o).map fun r => fileNat f (r + 8) 8
  let tables := (kernelsAt f).flatMap fun o => (dispatchTable f l o).map fun a => a - text
  0 :: follows Bundle.transfers s 2 bs ++ follows Bundle.breaks s 1 bs ++ named ++ roles ++ tables ++
    bs.flatMap fun b => (bundleOf s b.2).literalTargets b.1

/-- The first bundles of a kernel's roles. -/
def roleEntries (f : List Byte) (o : Nat) : List Nat := (rolesAt f o).map fun r => fileNat f (r + 8) 8

/-- Whether a place can lie in a kernel's text: no entry of another kernel stands between it and the kernel's own entries (R70, R88;
log 75). -/
def inKernel (f : List Byte) (o off : Nat) : Bool :=
  let mine := off :: roleEntries f o
  let (lo, hi) := (mine.foldl min off, mine.foldl max off)
  (kernelsAt f).all fun q => q == o || (roleEntries f q).all fun e => (roleEntries f o).contains e || e < lo || hi < e

/-- Item 5 of R88, code 7: a role entry, a dispatch table or one of its entries that names no bundle of its kernel's text. -/
def entryRefusal (f : List Byte) (l : LoadSite) (bs : List (Nat × List Byte)) : Option Nat :=
  let starts := bs.map (·.1)
  let text := l.base 1
  (kernelsAt f).findSome? fun o =>
    let good (x : Nat) : Bool := starts.contains x && inKernel f o x
    let role := (rolesAt f o).find? fun r => !good (fileNat f (r + 8) 8)
    let n := fileNat f (o + 0x18) 8
    let size := (((sections f).find? fun x => x.kind == 4).map fun (x : Sect) => x.size).getD 0
    let table : Option Nat := match dtabAt f o with
      | none => if n = 0 then none else some (o + 0x18)
      | some dt =>
        if n = 0 ∨ 65536 < n ∨ size < dt + 8 * n then some (o + 0x10)
        else if (dispatchTable f l o).all fun a => text ≤ a && good (a - text) then none else some (o + 0x10)
    role.orElse fun _ => table

/-! Loading. -/

/-- What a loader places (R76, R82, R85): sections and descriptors with their virtual addresses, the bindings that enter the
emulation table in ascending bit number, and the DIGEST that the measurement takes up. -/
structure Placed where
  parts : List (Nat × List Byte)
  descs : List (Nat × List Byte)
  emu : List (Nat × Nat)
  digest : List Byte
  deriving DecidableEq, Repr

/-- What the loader answers. -/
inductive LoadOutcome where
  /-- The code of R89 and the offset of the first failing item. -/
  | refused (code off : Nat)
  | placed (p : Placed)
  deriving DecidableEq, Repr

/-- A placed descriptor (R76): no name, the table's address or 0, the ASID, entries as addresses. -/
def placedDesc (f : List Byte) (l : LoadSite) (o : Nat) : List Byte :=
  let text := l.base 1
  leBytes 0 4 ++ fileBytes f (o + 4) 12 ++ leBytes (((dtabAt f o).map fun d => l.base 4 + d).getD 0) 8 ++ fileBytes f (o + 0x18) 8 ++
    leBytes (l.asid % 2 ^ 16) 8 ++ List.replicate 24 0 ++
    (rolesAt f o).flatMap fun r => fileBytes f r 8 ++ leBytes (text + fileNat f (r + 8) 8) 8

/-- The emulation table of a launch (R77, R85): the bindings of bits that the device lacks, in ascending bit number. -/
def emulationTable (f : List Byte) (l : LoadSite) : List (Nat × Nat) :=
  (sortBy (fun b => b.1) ((bindings f).filter fun b => !l.mask.getLsbD b.1)).map fun b => (b.1, l.base 1 + b.2.1)

/-- What is placed. -/
def placeObject (f : List Byte) (l : LoadSite) : Placed :=
  { parts := ((sections f).zip (upto (secTab f).2)).map (fun p => (l.base p.1.kind, relocated f l p.2)),
    descs := ((kernelsAt f).zip (upto (kernTab f).2)).map fun p => (l.desc p.2, placedDesc f l p.1),
    emu := emulationTable f l, digest := fileBytes f 0xA8 32 }

/-- The checks that follow the choice of code: requirements, relocations, bundles, schedule, entries. The order among refusal
codes is log 75's. -/
def checkObject (f : List Byte) (l : LoadSite) : LoadOutcome :=
  let l := l.aligned f
  let text := ((textSect? f).map fun (x : Sect) => x.off).getD 0
  match (entriesAt (reqTab f) 16).find? fun o => !requirementMet l (fileNat f o 2) (fileNat f (o + 8) 8) with
  | some o => .refused 3 o
  | none =>
    match relocBad f l with
    | some o => .refused 6 o
    | none =>
      let bs := bundlesOf (relocatedText f l)
      let delays := follows Bundle.transfers (loaderState l) 1 bs
      match bs.findSome? fun b => (bundleRefusal f l b.1 b.2 (delays.contains b.1)).map fun c => (c, text + b.1) with
      | some (c, o) => .refused c o
      | none =>
        match scheduleBad f l (blockStarts f l bs) bs (loaderCoach f 0) with
        | some o => .refused 5 (text + o)
        | none =>
          match entryRefusal f l bs with
          | some o => .refused 7 o
          | none => .placed (placeObject f l)

/-- Whether code needs only bits that the device has: those that it requires, and those that gate its syllables (R82). -/
def deviceOnly (f : List Byte) (l : LoadSite) : Bool :=
  ((upto 512).all fun n => !reqBit f n || l.mask.getLsbD n) &&
    (bundlesOf (textBytes f)).all fun b => (bundleOf (loaderState l) b.2).gates.all fun n => l.mask.getLsbD n

/-- The name at an offset of the string table. -/
def nameAt (f : List Byte) (n : Nat) : List Byte := (fileBytes f ((strTab f).1 + n) ((strTab f).2 - n)).takeWhile (· ≠ 0)

/-- The names of the symbols that stand at a place of the text. -/
def textNames (f : List Byte) (off : Nat) : List (List Byte) :=
  ((symbols f).filter fun y => ((sections f)[y.sect]?.any fun (x : Sect) => x.kind == 1) && y.value == off).map fun y => nameAt f y.name

/-- What the translator keeps of a kernel (R87): its name, width, levels, scratch size, and of each role the kind, the count, the budget
and the symbols of its entry. -/
def keepsKernel (f g : List Byte) (o q : Nat) : Bool :=
  nameAt f (fileNat f o 4) == nameAt g (fileNat g q 4) && fileBytes f (o + 4) 3 == fileBytes g (q + 4) 3 &&
    fileBytes f (o + 8) 6 == fileBytes g (q + 8) 6 &&
    ((rolesAt f o).zip (rolesAt g q)).all fun r =>
      fileBytes f r.1 3 == fileBytes g r.2 3 &&
        (textNames f (fileNat f (r.1 + 8) 8)).all (textNames g (fileNat g (r.2 + 8) 8)).contains

/-- Whether a translator's output keeps what R87 keeps of the object that it replaces. -/
def keepsObject (f g : List Byte) : Bool :=
  (kernTab f).2 == (kernTab g).2 && ((kernelsAt f).zip (kernelsAt g)).all fun p => keepsKernel f g p.1 p.2

/-- What the loader does with a translator's output (R82, R86 to R88): it needs only device bits, is scheduled for the device, keeps what
it must, and passes the same checks; else the object is refused. -/
def loadTranslated (f g : List Byte) (l : LoadSite) : LoadOutcome :=
  let no : LoadOutcome := .refused 8 (uzodanAt f).1
  if (malformedAt g).isSome || (featureRefusal g).isSome || !deviceOnly g l || fileNat g 8 8 != l.timing.toNat || !keepsObject f g then no
  else match checkObject g l with
    | .placed p => .placed p
    | .refused _ _ => no

/-- Loading an object (R82, R88, R89): as shipped, else as the translator's output, which replaces it wholly, else refused. One that
needs the snapshot bit of a device that lacks it is refused whatever it brings (R84). -/
def loadObject (f : List Byte) (l : LoadSite) : LoadOutcome :=
  match malformedAt f with
  | some o => .refused 1 o
  | none =>
    match featureRefusal f with
    | some (c, o) => .refused c o
    | none =>
      if reqBit f 24 && !l.mask.getLsbD 24 then .refused 2 (0x10 + 3)
      else if usedAsShipped f l then checkObject f l
      else if (uzodanAt f).2 ≠ 0 then
        match Config.uzodan f l.mask l.timing with
        | none => .refused 8 (uzodanAt f).1
        | some g => loadTranslated f g l
      else match missingBit f l.mask with
        | some n => .refused 2 (0x10 + n / 8)
        | none => .refused 8 8

/-- The bytes of a part written where the job's context maps them, up to the end of each 64-byte piece. -/
def State.writePart (s : State) (asid va : Nat) (bs : List Byte) : State :=
  ((chunks 64 bs).foldl (fun (r : State × Nat) c => (r.1.plainWrite asid (r.1.jobPlace asid r.2) c, r.2 + 64)) (s, va)).1

/-- Whether a range lies in pages that grant a job the read right only (R76). -/
def State.readOnly (s : State) (asid va n : Nat) : Bool :=
  (upto n).all fun i =>
    let w := s.walk asid (va + i)
    i % 64 != 0 && i + 1 != n || (w.st == .valid && w.rights == 1#4)

/-- The package after the driver has placed an object for a job: its memory holds the parts, and the job's measurement has taken
up the object's DIGEST (R385). None if a page that a descriptor would be placed in grants more than the read right (R76): the loader
places none there. -/
def State.load (s : State) (asid : Nat) (p : Placed) : Option State :=
  if !p.descs.all fun x => s.readOnly asid x.1 x.2.length then none
  else
    let t := (p.parts ++ p.descs).foldl (fun (s : State) x => s.writePart asid x.1 x.2) s
    some (t.putJob asid { t.job asid with meas := digest ((t.job asid).meas ++ p.digest) })

end Sys2Proof.Machine
end

