-- ==== Sys2Proof/Machine/Schedule.lean ====
section
/-! DEFINITION. What a step does next, and the passage of time: events that are due, issue (R139, R140), the events that the
package's agents may bring about in an order which the manual leaves open (log 1), outside events (log 2), and the clock
(R361, R389). -/

namespace Sys2Proof.Machine

/-! Events that are due now. -/

/-- The index of the least due element of a list. -/
def leastIdx {α : Type} (due : α → Bool) (less : α → α → Bool) : List α → Nat → Option (Nat × α)
  | [], _ => none
  | a :: as, i =>
    match leastIdx due less as (i + 1) with
    | none => if due a then some (i, a) else none
    | some (j, b) => if due a && !less b a then some (i, a) else some (j, b)

/-- A result of a coach that must land in this cycle. -/
def State.dueLanding (s : State) (k : Nat) : Option Instr :=
  let c := s.coach k
  let now := s.now k
  if c.inflight.isEmpty then none
  else
    let due (f : Landing) : Bool := decide (f.due ≤ now) && (f.fe.isSome || s.lands k f)
    (leastIdx due Landing.sooner c.inflight 0).map fun e => .resultLanding k e.1

/-- The end of a coach's stop that has come. -/
def State.dueWake (s : State) (k : Nat) : Option Instr :=
  let c := s.coach k
  if !s.awake k then none
  else match c.stop with
    | .wait f n => if c.count f ≤ n then some (.waitEnd k) else none
    | .mwait t _ _ _ =>
      if c.mon.reason.isSome then some (.mwaitWake k)
      else (match t with
        | some t => if t ≤ s.tick then some (.mwaitTimeout k) else none
        | none => none)
    | .yield t => if t ≤ s.now k then some (.yieldExpire k) else none
    | _ => none

/-- A DSTAT that reaches its Drover in this cycle (R314). -/
def State.dueStat (s : State) : Option Instr :=
  s.ops.findSome? fun o => match o.kind with
    | .dstat _ => if s.settled o then some (.memoryAccessComplete o.id 0) else none
    | _ => none

/-- What a wing's matrix unit must do in this cycle (R281, R295). -/
def State.dueMatrix (s : State) (w : Nat) : Option Instr :=
  let x := s.wing w
  let now := (s.die (dieOfCore (coreOfWing w))).cycle
  match x.mrun.find? fun r => r.due ≤ now with
  | some r => some (.matrixOpComplete w r.op.id)
  | none =>
    match x.mq with
    | [] => none
    | o :: _ =>
      if x.canStart now o then some (.matrixOpStart w)
      else if (s.rendezvous? (coreOfWing w)).isSome then x.drover.party.map Instr.mlodgeRendezvous
      else match x.starving, x.starve with
        | some _, some (t, false) => if t + 4096 ≤ now then some (.mstarve w) else none
        | _, _ => none

/-- A lantern's cycle that has come (R375). -/
def State.dueLantern (s : State) (w : Nat) : Option Instr :=
  match s.lantern with
  | none => none
  | some (_, k) =>
    let now := (s.die (dieOfCore (coreOfWing w))).cycle
    let i := now / 2 ^ k
    if (s.wing w).lanInt != some i && decide (Config.lanternPick w i k % 2 ^ k ≤ now % 2 ^ k) then some (.lanternSample w) else none

/-- A mismatch whose window is over is detected (R160). -/
def State.dueMismatch (s : State) (w : Nat) : Option Instr :=
  if (s.wing w).squash.any fun t => t + 2 ≤ (s.die (dieOfCore (coreOfWing w))).cycle then some (.tableMismatch w) else none

/-- The coaches that are present on dies that run. -/
def State.livingCoaches (s : State) : List Nat :=
  (tkeys s.coaches).filter fun k => (s.coach k).present && !(s.die (dieOf k)).gated

/-- The wings of dies that run which have a record of their own, and those of living coaches, in ascending order (R258). -/
def State.livingWings (s : State) : List Nat :=
  sortBy id (dedup (((tkeys s.wings).filter fun w => !(s.die (dieOfCore (coreOfWing w))).gated) ++ s.livingCoaches.map wingOf))

/-- The next event that is due: stops of dies, expiry, then landings, then what follows from them. -/
def State.dueEvent (s : State) : Option Instr :=
  let stop := s.stopping.head?.map Instr.dieStop
  let live := if s.env.contains .livegenWrite && decide (2 ≤ s.cfg.st) then some Instr.livegenWrite else none
  let lapse := match s.mbox.grant with
    | some g => if g.expiry ≤ s.tick then some Instr.grantExpiry else none
    | none => none
  let ks := s.livingCoaches
  let ws := s.livingWings
  let old := ((tkeys s.parties).find? fun p =>
    let x := s.party p
    x.waits && !x.promoted && !(s.die x.die).gated && decide (x.pendSince + 6800000 ≤ s.tick)).map Instr.priorityPromote
  stop.orElse fun _ => live.orElse fun _ => lapse.orElse fun _ => old.orElse fun _ =>
    (ws.findSome? s.dueMismatch).orElse fun _ => (ks.findSome? s.dueLanding).orElse fun _ =>
      s.dueStat.orElse fun _ =>
        (ws.findSome? s.dueMatrix).orElse fun _ =>
          (ks.findSome? s.dueWake).orElse fun _ => ws.findSome? s.dueLantern

/-! Issue. -/

/-- A wing that can issue now: a coach to issue. -/
def State.issuer (s : State) : Option Nat :=
  s.livingWings.findSome? fun w =>
    let g := s.wing w
    if (s.die (dieOfCore (coreOfWing w))).cycle < g.next then none else s.select w

/-! What may happen next. -/

/-- Events of outstanding operations, commits and requests. -/
def State.opEvents (s : State) : List Instr :=
  (s.ops.flatMap fun o => .lossNoticeAck o.id :: (upto (max 1 o.parts.length)).map (Instr.memoryAccessComplete o.id)) ++
    (s.walks.map fun w => .walkEnd w.id) ++
    (s.commits.flatMap fun c => (upto (max 1 c.bytes.length)).map (Instr.commitDrainComplete c.id)) ++
    ((s.pageReqs.filter (·.host)).flatMap fun r => [.pageResponse r.tag true, .pageResponse r.tag false])

/-- Events of coaches, parties and launches. -/
def State.partyEvents (s : State) : List Instr :=
  (s.livingCoaches.flatMap fun k =>
    (upto (s.coach k).inflight.length).map (Instr.resultLanding k) ++ [.coachRelease k, .batchComplete k, .stewardRestart k]) ++
    ((tkeys s.parties).flatMap fun p =>
      [.partyPlace p, .partyRestore p, .preemptRequest p, .preemptSave p, .priorityPromote p]) ++
    ((tkeys s.launches).flatMap fun l =>
      .launchDone l :: (upto 8).map (Instr.tileChunkDeal l) ++
        (dedup (((s.launch l).parties.filter fun p => (s.party p).sstep.isSome).map fun p => (s.party p).d)).flatMap fun g =>
          (upto 4).map (Instr.superstepComplete l g))

/-- Events of the engines. -/
def State.engineEvents (s : State) : List Instr :=
  ((tkeys s.cores).flatMap fun c => (s.core c).courier.flatMap fun m =>
    .courierCommandComplete m.id :: (upto m.len).map (Instr.courierSourceRead m.id) ++
      (upto (m.len * max 1 m.sps.length)).map (Instr.courierChunkDelivery m.id)) ++
    (s.livingWings.flatMap fun w =>
      let d := (s.wing w).drover
      [.tableMismatch w, .wingReturnToService w, .droverIteration w, .droverWalkEnd w, .lanternRecord w] ++
        (d.sa ++ d.q0 ++ d.q1).map fun b => .droverBeatArrival w b.id)

/-- Events of the system queues: the command in execution, or the next. -/
def State.queueEvents (s : State) : List Instr :=
  (match s.tcq with
    | none => [.tcqTake]
    | some c =>
      [.context, .presp, .tcqCommandComplete] ++ ((upto coreCount).filter fun i => !c.passed.contains i).map fun i =>
        if c.kind = 2 then .inval i else if c.kind = 3 then .wbset i else .release i) ++
    (match s.kmq with
      | none => [.kmqTake]
      | some _ => [.kgen, .kseal, .kimport, .kclear])

/-- The mailbox command in execution. That of recovery names an image in host memory by address and length, its signature after it
(log 88). -/
def State.mailboxEvents (s : State) : List Instr :=
  if s.mbox.busy then
    (match s.mbox.code with
      | 1 => [.auth]
      | 2 => [.stopat]
      | 3 => [.scan]
      | 4 => [.resume]
      | 5 => [.dbgen]
      | 6 => [.lantern]
      | 7 => [.injrd]
      | 8 => [.injwr]
      | _ =>
        let a := (s.mbox.arg 0).toNat
        let n := (s.mbox.arg 1).toNat
        if s.mbox.code = imageCode then [.recoveryImageWrite (mgets s.host a n) (mgets s.host (a + n) xmssBytes)] else [])
  else []

/-- Events of generations and rollbacks within the package (R333, R336, R352), and of links. -/
def State.snapEvents (s : State) : List Instr :=
  (((tkeys s.jobs).filter fun a => (s.job a).snap.running || (s.job a).snap.rollback).flatMap fun a =>
    let item := s.item a 0 (.message [])
    .granuleDrain a :: (upto 10).map (Instr.cutDelayTimeout a) ++
      (upto 10).flatMap fun d => (neighbours d).flatMap fun e => (linksBetween d e).flatMap fun l =>
        [.waymarkArrival l item, .rollbackNotice l item]) ++
    ((upto 8).filter fun i => (s.injector i).ctl.getLsbD 63).map Instr.injectorFire ++
    ((upto 16).filter fun p => !s.linkUp p).map Instr.ualinkTraining ++
    (tkeys s.refreshOwed).map Instr.refresh

/-- The die of the coach that awaits the answer of a page request. -/
def State.requestDies (s : State) (tag : Nat) : List Nat :=
  (s.pageReqs.filter fun r => r.tag == tag).flatMap fun r => match s.op? r.op with | some o => [o.die] | none => []

/-- The dies that an event needs (R365): those of what acts, and of the homes and links that it reaches. -/
def State.dies? (s : State) : Instr → List Nat
  | .memoryAccessComplete op part => match s.op? op with
    | some o => o.die :: (match o.parts[part]? with | some p => p.place.die ++ p.ats.flatMap (·.place.die) | none => [])
    | none => []
  | .lossNoticeAck op => match s.op? op with
    | some o => o.parts.flatMap fun p => (l1Words p.place p.len).flatMap fun w =>
        let x := sget 0 s.owner w
        if x = 0 then [] else [dieOfCore (x - 1)]
    | none => []
  | .commitDrainComplete id part => match s.commits.find? fun c => c.id = id with
    | some c => match c.bytes[part]? with | some b => [homeDie b.pa] | none => []
    | none => []
  | .walkEnd id => (s.walks.filter fun w => w.id == id).map fun w => dieOf w.coach
  | .pageResponse tag _ => 8 :: s.requestDies tag
  | .partyPlace p => [(s.party p).die]
  | .partyRestore p => [(s.party p).die]
  | .preemptRequest p => [(s.party p).die]
  | .preemptSave p => [(s.party p).die]
  | .priorityPromote p => [(s.party p).die]
  | .stewardRestart k => [dieOf k]
  | .tcqTake => [8]
  | .context => [8]
  | .presp => 8 :: (match s.tcq with | some c => s.requestDies (dbits (c.arg 1) 15 0) | none => [])
  | .tcqCommandComplete => [8]
  | .inval core => [8, dieOfCore core]
  | .wbset core => [8, dieOfCore core]
  | .release core => [8, dieOfCore core]
  | .kmqTake => [8]
  | .kgen => [8]
  | .kseal => [8]
  | .kimport => [8]
  | .kclear => [8]
  | .courierCommandComplete cmd => match s.cmd? cmd with | some (_, m, _) => [m.die] | none => []
  | .launchDone _ => [8]
  | .tileChunkDeal _ die => [8, die]
  | .superstepComplete l _ _ => 8 :: diesOf (s.launch l).doubles
  | .courierSourceRead cmd part => match s.cmd? cmd with | some (_, m, _) => m.die :: (s.sidePlace m.src part).die | none => []
  | .courierChunkDelivery cmd chunk => match s.cmd? cmd with
    | some (_, m, _) => m.die :: (match m.dst with | .box _ _ _ => (s.sidePlace m.dst chunk).die | _ => [])
    | none => []
  | .droverBeatArrival wing beat => match (s.wing wing).drover.beat? beat with
    | some (_, b) => b.place.die
    | none => []
  | .waymarkArrival link _ => [linkEnd link]
  | .rollbackNotice link _ => [linkEnd link]
  | .linkItemArrival link o => linkEnd link :: (match o.body with
    | .read _ pa _ => [homeDie pa]
    | .write _ pa _ => [homeDie pa]
    | .atomic _ _ ls => ls.map fun e => homeDie e.1
    | _ => [])
  | .packageReport _ => [8]
  | .verdict _ => [8]
  | .granuleDrain a => 8 :: ((s.drainList a).take 1).map fun e => homeDie (e.2.1 * 65536)
  | .cutDelayTimeout _ die => [die]
  | .hostBarAccess o => if o.bar = 2 then [8, homeDie o.offset] else []
  | .atsInvalidation _ _ _ => [8]
  | .tableMismatch w => [dieOfCore (coreOfWing w)]
  | .wingReturnToService w => [dieOfCore (coreOfWing w)]
  | _ => []

/-- Whether a stopped die keeps an event waiting: what stands on it freezes, and its links hold what arrives (R365). -/
def State.frozen (s : State) (i : Instr) : Bool := (s.dies.any fun e => e.2.gated) && (s.dies? i).any fun d => (s.die d).gated

/-- Whether an outside event can reach a package in recovery (R380). -/
def reachesRecovery : Instr → Bool
  | .hostBarAccess _ => true
  | .junctionLimit _ => true
  | _ => false

/-- What comes on a port of a job comes in the order in which it was sent (R387): of the outside events, those with none before them on
their port. -/
def inOrder : List Instr → List (Nat × Nat) → List Instr
  | [], _ => []
  | i :: is, seen =>
    let port := match i with
      | .linkItemArrival l o => some (l, o.asid)
      | .waymarkArrival l o => some (l, o.asid)
      | .rollbackNotice l o => some (l, o.asid)
      | _ => none
    match port with
    | some p => if seen.contains p then inOrder is seen else i :: inOrder is (p :: seen)
    | none => i :: inOrder is seen

/-- What may happen next. -/
def State.mayHappen (s : State) : List Instr :=
  if s.cfg.st = 0 then s.env.filter reachesRecovery ++ s.mailboxEvents
  else
    (inOrder s.env [] ++ s.opEvents ++ s.partyEvents ++ s.engineEvents ++ s.queueEvents ++ s.mailboxEvents ++ s.snapEvents).filter fun i => !s.frozen i

/-! The clock. -/

/-- The frequency of a die's clock: compute dies obey both limiters, the lower clock (R389); I/O dies run at the reference. -/
def State.mhzOf (s : State) (d : Nat) : Nat := if d < 8 then min (s.die d).mhz (min s.thermal s.cooling) else 1700

/-- Whether a die's cycle ends with this period. -/
def State.cycleEnds (s : State) (d : Nat) : Bool := !(s.die d).gated && decide (1700 ≤ (s.die d).phase + s.mhzOf d)

/-- A cycle of a die is over: what landed in it no longer contends with what lands (R50). -/
def State.closeCycle (s : State) (d : Nat) : State :=
  ((tkeys s.coaches).filter fun k => dieOf k == d && !(s.coach k).landed.isEmpty).foldl
    (fun s k => s.modCoach k fun c => { c with landed := [] }) s

/-- A die's clock over one reference period of 1.7 GHz. -/
def State.tickDie (s : State) (d : Nat) : State :=
  let x := s.die d
  if x.gated then s
  else
    let ph := x.phase + s.mhzOf d
    if s.cycleEnds d then (s.closeCycle d).putDie d { x with phase := ph - 1700, cycle := x.cycle + 1 }
    else s.putDie d { x with phase := ph }

/-- Wait counters rise for the coaches that were ready and not selected (R140); one whose bundle is held is not ready (R198), and a
replay's cycles do not count (R141). -/
def State.countWaits (ex : Instr → State → Out) (s : State) : State :=
  s.livingCoaches.foldl (fun s k =>
    if s.cycleEnds (dieOf k) && s.ready k && !s.wouldHold ex k && !s.squashes (wingOf k) && (s.wing (wingOf k)).replay ≤ s.now k then
      s.modCoach k fun c => { c with waitCtr := c.waitCtr + 1 } else s) s

/-- Streams that wait for their tile in the cycle that ends are timed (R295). -/
def State.noteStarves (s : State) : State :=
  s.livingWings.foldl (fun s w =>
    if (s.wing w).mq.isEmpty && (s.wing w).starve.isNone then s
    else s.modWing w fun x => x.noteStarve (s.die (dieOfCore (coreOfWing w))).cycle) s

/-- Bundles that have still to be fetched arrive when they will (R139, log 1). -/
def State.fetchSome (s : State) : State :=
  s.livingCoaches.foldl (fun s k =>
    if s.runnable k && !(s.coach k).diverted && s.bundleAway k && s.pick (71000 + k) 2 = 0 then s.fetchNext k else s) s

/-- The host writes its own memory when it will (R245, log 2): some bytes at some address, which the package's monitors see as soon as its
line is asked for again. -/
def State.hostActs (s : State) : State :=
  if s.pick 9910 64 = 1 then
    s.hostWrite (Config.choice s.freeCtr 9911 % 2 ^ 56)
      ((upto (Config.choice s.freeCtr 9912 % 128)).map fun i => (Config.freeWord s.freeCtr 9913 i).setWidth 8)
  else s

/-- A peer may write a line that is monitored in its memory (R136, log 17): which, and when, is free. -/
def State.peersAct (s : State) : State :=
  s.monitors.foldl (fun s m =>
    match (s.coach m.2).mon with
    | .armed line _ _ => if m.1 = 10001 && s.pick (9920 + m.2) 64 = 1 then s.wakeMonitors (128 * line) 128 else s
    | _ => s) s

/-- Firmware writes a register of the mailbox, which it reaches directly (R363): when, which and what is free. -/
def State.firmwareActs (s : State) : State :=
  if s.pick 9916 64 = 1 && decide (2 ≤ s.cfg.st) then s.mbWrite (8 * s.pick 9917 4) (Config.freeDbl s.freeCtr 9918) else s

/-- The loader places a code object for a job (R72 to R89, R385): when, for which, what object of the host's memory and where is free. -/
def State.loaderActs (s : State) : State :=
  let free (i : Nat) : Nat := Config.choice s.freeCtr (9930 + i)
  let a := nth (tkeys s.jobs) (s.pick 9919 (max 1 s.jobs.length)) 0
  if s.pick 9929 64 != 1 || a == 0 || !(s.job a).present then s
  else
    let site : LoadSite :=
      { mask := if s.cfg.st = 3 then s.cfg.negmask else s.cfg.devmask, timing := s.cfg.timing, packages := (s.job a).pkgs, asid := a,
        bases := (upto 256).map fun i => free (3 + i) % 2 ^ 57, descs := free 2 % 2 ^ 57 }
    match loadObject (mgets s.host (free 0 % 2 ^ 56) (free 1)) site with
    | .placed p => (s.load a p).getD s
    | .refused _ _ => s

/-- What agents of the package and the host do of their own accord while a period passes: L2 writes back and evicts, the stewards serve
the request rings (R326), firmware uses the mailbox, the loader places objects, the host and the peers write. -/
def State.agentsAct (s : State) : State :=
  let s := s.evict.unstall.rollbacksEnd.hostActs.peersAct.firmwareActs.loaderActs.countFlits.upset
  if s.pick 9914 64 = 1 then s.serveRing (s.pick 9915 9) else s

/-- One reference period passes; held page requests are posted when there is room (R197), and refreshes fall due (R228). -/
def State.advance (ex : Instr → State → Out) (s : State) : State :=
  let s := (s.agentsAct.countWaits ex).noteStarves
  let s := s.livingWings.foldl State.noteTagged s
  let s := (upto 10).foldl State.tickDie { s with tick := s.later 1 }
  let s := (if (s.die 8).gated then s else s.postHeld.recordCorrected).fetchSome
  if s.pick 9900 4096 = 1 then s.refreshDue (s.pick 9901 1024) else s

/-! One step. -/

/-- An event is tried; an outside event that took place is over. What comes on a port says itself when it has been taken. -/
def State.tryEvent (ex : Instr → State → Out) (s : State) (i : Instr) : Out :=
  match ex i s with
  | .next t =>
    if t = s then .next s.tickFree
    else if s.env.contains i && !(arrivesOn i).any (· < 16) then .next { t with env := t.env.erase i }.tickFree
    else .next t.tickFree
  | o => o

/-- What the ROM and firmware meet at boot is free (R379, log 1). -/
def State.bootInput (s : State) : BootInput :=
  { fingerprint := Config.fingerprint s.freeCtr, hbm := s.pick 9902 2 == 0, links := s.pick 9904 2 == 0,
    tick := (Config.freeDbl s.freeCtr 9903).toNat }

/-- What R330 promises and can be done now: DONE of launches that are over; the saves, removals and placements that a promoted party waits
for. With each, whether it has been done in a later state. -/
def State.promises (s : State) : List (Instr × (State → Bool)) :=
  let ps := tkeys s.parties
  let late := ps.filter fun p => (s.party p).waits && (s.party p).promoted
  (((tkeys s.launches).filter s.launchOver).map fun l => (Instr.launchDone l, fun (t : State) => (t.launch l).fin)) ++
    (if late.isEmpty then []
     else
      (ps.filter fun p => (s.party p).st == .draining).map (fun p => (Instr.preemptSave p, fun (t : State) => (t.party p).st == .saved)) ++
        (late.flatMap fun p => [(Instr.partyPlace p, fun (t : State) => (t.party p).st == .running),
          (Instr.partyRestore p, fun (t : State) => (t.party p).st == .running)]) ++
        (ps.filter fun p => (s.party p).st == .running).map fun p => (Instr.preemptRequest p, fun (t : State) => (t.party p).st != .running))

/-- The first promise that can be kept now, kept (R330). -/
def State.keepPromise (ex : Instr → State → Out) (s : State) : Option State :=
  s.promises.findSome? fun e =>
    if s.frozen e.1 then none
    else match ex e.1 s with
      | .next t => if e.2 t then some t else none
      | _ => none

/-- Whether the agents' patience is at an end: they keep what promises they can before time goes on (R330, log 1). -/
def State.mustKeep (s : State) : Bool := s.cfg.st != 0 && !s.promises.isEmpty && s.tick % (Config.patience + 1) == 0

/-- The step over the meanings: the boot of a package that is booting; an event that is due; else the issue of one bundle; else
a promise that the agents must keep; else one of the events that may happen, or the passage of a period, as a free choice has it.
In recovery no bundle issues. -/
def stepWith (ex : Instr → State → Out) (s : State) : Out :=
  if s.cfg.st = 1 then ex (.boot s.bootInput) s
  else
    match (if s.cfg.st = 0 then none else s.dueEvent) with
    | some i =>
      (match ex i s with
        | .next t => .next t.tickFree
        | o => o)
    | none =>
      match (if s.cfg.st = 0 then none else s.issuer) with
      | some k => issueCoach ex s k
      | none =>
        match (if s.mustKeep then s.keepPromise ex else none) with
        | some t => .next t.tickFree
        | none =>
          let l := s.mayHappen
          match l[s.pick 0 (l.length + 1)]? with
          | some i => s.tryEvent ex i
          | none => .next (s.advance ex).tickFree

/-! Placing one bundle to be run. -/

/-- The address at which a placed bundle stands: the first of the device half. -/
def placedPc : Dbl := 0x0100000000000000#64

/-- A privileged coach with every lane live that stands before the placed bundle. -/
def placedCoach : Coach :=
  { Coach.blank with
    present := true, width := 64, budget := 24, priv := true, pc := placedPc, launched := BitVec.allOnes 64, live := BitVec.allOnes 64,
    stack := [StackEntry.base (BitVec.allOnes 64)] }

/-- The 128 bytes of the line that holds the placed bundle: the bits of the number, lowest word first. -/
def placedLine (nbits w : Nat) : ILine :=
  { asid := 0, vline := placedPc.toNat / 128, page := 4096, pline := 0, bytes := leBytes (w % 2 ^ nbits) 128 }

/-- A package that has booted, with one coach on core 0 of die 0 and its bundle in the instruction L1. -/
def State.placeBundle (s : State) (nbits w : Nat) : State :=
  ((s.setCfg fun c => { c with st := 2 }).putCoach 0 placedCoach).modCore 0 fun c =>
    { c with icache := placedLine nbits w :: c.icache }

end Sys2Proof.Machine
end

