-- ==== Sys2Proof/Machine/Step.lean ====
section
/-! DEFINITION. One step of the package, and the placing of a bundle where the next step fetches. -/

namespace Sys2Proof.Machine

/-- One step (R139, R140; logs 1 and 2). -/
def step (s : State) : Host.Outcome State Fault Refusal := stepWith exec s

/-- s with a bundle placed so that the next step from a state in which nothing else is due runs exactly it (log 10). -/
def State.withFetchWord (s : State) (nbits w : Nat) : State := s.placeBundle nbits w

end Sys2Proof.Machine
end

