-- ==== Sys2Proof/Safety.lean ====
section
/-! DEFINITION. The words in which statements are made: the canonical form of every memory, what a syllable may change of
its coach, a result that is under way, what memory keeps; and the tables of R110 and R166 in exact arithmetic. -/

namespace Sys2Proof.Safety

open Sys2Proof.Machine

/-! Canonical form. -/

/-- Every memory of a state lists its bytes in the one canonical form: device memory, host memory, each core's SRAM. -/
def memoryOk (s : State) : Bool :=
  Memory.wf s.mem && Memory.wf s.host && s.cores.all fun e => Memory.wf e.2.sram

/-- The tables of coaches, wings, cores, parties, launches, jobs and dies list their numbers in rising order, so that a write
of one number is read back, and no other changes. -/
def tablesOk (s : State) : Bool :=
  srising 0 s.coaches && srising 0 s.wings && srising 0 s.cores && srising 0 s.parties && srising 0 s.launches &&
    srising 0 s.jobs && srising 0 s.dies

/-- A coach's registers are listed in rising order. -/
def coachOk (c : Coach) : Bool := srising 0 c.v && srising 0 c.s && srising 0 c.p && srising 0 c.h

/-- A wing's accumulators, comparators and Drover table are listed in rising order. -/
def wingOk (w : Wing) : Bool := srising 0 w.acc && srising 0 w.bps && srising 0 w.watches && srising 0 w.drover.shadow

/-- What a party keeps of its coaches and wings while it is saved is in order too. -/
def partyOk (x : Party) : Bool :=
  x.arrays.all (fun e => wingOk e.2) &&
    x.beyond.all fun v => coachOk v.coach && (match v.drover with | none => true | some d => srising 0 d.shadow)

/-- The tables within coaches, wings, parties and jobs, and the package's tables of regions, channels, granules and links, list
their numbers in rising order. -/
def innerOk (s : State) : Bool :=
  s.coaches.all (fun e => coachOk e.2) && s.wings.all (fun e => wingOk e.2) && s.parties.all (fun e => partyOk e.2) &&
    s.jobs.all (fun e => srising 0 e.2.epoch && srising 0 e.2.snap.cuts) && srising 0 s.dead && srising 0 s.granules &&
      srising 0 s.linksDown && srising 0 s.refreshOwed && srising 0 s.refreshAlert

/-! Frames. -/

/-- Every byte reads as before: device memory, host memory, every core's scratchpad SRAM. -/
def sameMemory (s t : State) : Prop :=
  (∀ a, mget t.mem a = mget s.mem a) ∧ (∀ a, mget t.host a = mget s.host a) ∧
    ∀ c a, mget (t.core c).sram a = mget (s.core c).sram a

/-- What software can read of a coach stays: registers of every kind, special registers, control state. -/
def sameRegisters (c d : Coach) : Prop :=
  d.v = c.v ∧ d.s = c.s ∧ d.p = c.p ∧ d.h = c.h ∧ d.fpmode = c.fpmode ∧ d.tvec = c.tvec ∧ d.tcause = c.tcause ∧
    d.tinfo = c.tinfo ∧ d.trappc = c.trappc ∧ d.tnext = c.tnext ∧ d.dtbase = c.dtbase ∧ d.dtlen = c.dtlen ∧
    d.lcnt = c.lcnt ∧ d.ecnt = c.ecnt ∧ d.lbody = c.lbody ∧ d.rotb = c.rotb ∧ d.tshsel = c.tshsel ∧
    d.intrap = c.intrap ∧ d.trapset = c.trapset ∧ d.stack = c.stack ∧ d.live = c.live ∧ d.pc = c.pc

/-- Only results under way, latches and the model's own numbering may differ. -/
def onlyResults (c d : Coach) : Prop :=
  d = { c with inflight := d.inflight, lat := d.lat, fresh := d.fresh }

/-- As onlyResults, and operations outstanding on flags too. -/
def onlyPending (c d : Coach) : Prop :=
  d = { c with inflight := d.inflight, lat := d.lat, fresh := d.fresh, flags := d.flags }

/-- The results that a coach had under way are under way still, in front of the new ones. -/
def keepsResults (c d : Coach) : Prop := ∃ more, d.inflight = c.inflight ++ more

/-! Results under way (R46). -/

/-- A write is under way: it lands at a cycle, from the bundle of a sequence number. -/
def underWay (d : Coach) (due seq : Nat) (w : Write) : Prop :=
  ∃ x ∈ d.inflight, x.due = due ∧ x.seq = seq ∧ x.fe = none ∧ x.w = w

/-- A vector result under way in the lanes of a mask, with the value of each such lane; the register is renamed. -/
def vecUnderWay (c d : Coach) (due seq : Nat) (dst : VDst) (m : Lanes) (f : Nat → Word) : Prop :=
  ∃ vs : List Word, (∀ l, l < c.width → m.getLsbD l = true → nth vs l 0 = f l) ∧
    underWay d due seq (match dst with | .reg n => .vec (c.renV n) m vs | .latch => .latV m vs)

/-- A scalar result under way: writing s0 discards the value but for the latch (R45). -/
def scalarWrite (c : Coach) (dst : SDst) (v : Dbl) : Write :=
  match dst with
  | .reg n => if n = 0 then .latC v else .scl (c.renS n) v
  | .latch => .latC v

/-- A scalar destination as its coach's ROTB renames it (R131). -/
def renamed (c : Coach) : SDst → SDst
  | .reg n => .reg (c.renS n)
  | .latch => .latch

/-- A predicate result under way in the lanes of a mask: bit l of `b`. -/
def prdUnderWay (c d : Coach) (due seq p : Nat) (m : Lanes) (f : Nat → Bool) : Prop :=
  ∃ b : Lanes, (∀ l, l < c.width → m.getLsbD l = true → b.getLsbD l = f l) ∧ underWay d due seq (.prd p m b)

/-- The landing cycle of a V syllable (R46): latency, bank delay, and one more for 64 lanes. -/
def vLands (s : State) (c : Coach) (lat : Nat) (o : Opnds) : Nat :=
  s.cur.cycle + lat + bankDelay o.reads + (if c.width = 64 then 1 else 0)

/-! The tables of R110 and R166 in exact arithmetic. -/

/-- x clamped to a range. -/
def clamp (lo hi x : Int) : Int := max lo (min hi x)

/-- 32-bit results of two operands by opcode (R166, R167 apart from BFX); `sat` is MOD[0]. -/
def int32Table : List ((VBin → Instr) × Nat × (Bool → Word → Word → Int)) :=
  [(.iaddI32, 0x01, fun sat a b => if sat then clamp (-2 ^ 31) (2 ^ 31 - 1) (a.toInt + b.toInt) else a.toNat + b.toNat),
    (.isubI32, 0x02, fun sat a b => if sat then clamp (-2 ^ 31) (2 ^ 31 - 1) (a.toInt - b.toInt) else a.toNat - b.toNat),
    (.imulI32, 0x03, fun _ a b => a.toNat * b.toNat),
    (.imulhI32, 0x04, fun _ a b => (a.toInt * b.toInt) / 2 ^ 32),
    (.imulhN32, 0x05, fun _ a b => (a.toNat * b.toNat : Int) / 2 ^ 32),
    (.iminI32, 0x07, fun _ a b => min a.toInt b.toInt),
    (.imaxI32, 0x08, fun _ a b => max a.toInt b.toInt),
    (.iminN32, 0x09, fun _ a b => min a.toNat b.toNat),
    (.imaxN32, 0x0A, fun _ a b => max a.toNat b.toNat),
    (.vShl, 0x0E, fun _ a b => if b.toNat < 32 then a.toNat * 2 ^ b.toNat else 0),
    (.shrN32, 0x0F, fun _ a b => if b.toNat < 32 then (a.toNat : Int) / 2 ^ b.toNat else 0),
    (.shrI32, 0x10, fun _ a b => if b.toNat < 32 then a.toInt / 2 ^ b.toNat else if 2 ^ 31 ≤ a.toNat then -1 else 0)]

/-- Bitwise opcodes of R166: bit i of the result. -/
def bitwise32Table : List ((VBin → Instr) × Nat × (Bool → Bool → Bool)) :=
  [(.vAnd, 0x0B, fun a b => a && b), (.vOr, 0x0C, fun a b => a || b), (.vXor, 0x0D, fun a b => xor a b)]

/-- 64-bit results of two operands by opcode (R110); `m` is MOD. -/
def int64Table : List ((CBin → Instr) × (BitVec 3 → Dbl → Dbl → Int)) :=
  [(.add, fun m a b =>
      if m = 1 then clamp (-2 ^ 63) (2 ^ 63 - 1) (a.toInt + b.toInt) else if m = 2 then min (a.toNat + b.toNat) (2 ^ 64 - 1)
      else a.toNat + b.toNat),
    (.sub, fun m a b =>
      if m = 1 then clamp (-2 ^ 63) (2 ^ 63 - 1) (a.toInt - b.toInt) else if m = 2 then max 0 (a.toNat - b.toNat : Int)
      else a.toNat - b.toNat),
    (.mul, fun _ a b => a.toNat * b.toNat),
    (.mulhI64, fun _ a b => (a.toInt * b.toInt) / 2 ^ 64),
    (.mulhN64, fun _ a b => (a.toNat * b.toNat : Int) / 2 ^ 64),
    (.cShl, fun _ a b => if b.toNat < 64 then a.toNat * 2 ^ b.toNat else 0),
    (.shrN64, fun _ a b => if b.toNat < 64 then (a.toNat : Int) / 2 ^ b.toNat else 0),
    (.shrI64, fun _ a b => if b.toNat < 64 then a.toInt / 2 ^ b.toNat else if 2 ^ 63 ≤ a.toNat then -1 else 0),
    (.minI64, fun _ a b => min a.toInt b.toInt),
    (.maxI64, fun _ a b => max a.toInt b.toInt),
    (.minN64, fun _ a b => min a.toNat b.toNat),
    (.maxN64, fun _ a b => max a.toNat b.toNat)]

/-- Bitwise opcodes of R110. -/
def bitwise64Table : List ((CBin → Instr) × (Bool → Bool → Bool)) :=
  [(.cAnd, fun a b => a && b), (.cOr, fun a b => a || b), (.cXor, fun a b => xor a b)]

/-- The integer conditions by code (R109): EQ, NE, LT, LE, GT, GE. -/
def condHolds (cc : BitVec 3) (a b : Int) : Prop :=
  match cc.toNat with
  | 0 => a = b
  | 1 => a ≠ b
  | 2 => a < b
  | 3 => a ≤ b
  | 4 => a > b
  | _ => a ≥ b

/-- The two-operand floating-point syllables (R169 to R172, R175) with opcode, the format of constants, latency and the
operation on images: under the latched mode, it gives an image and flags. -/
def fp2Table : List ((VBin → Instr) × Nat × (Nat → Word) × Bool × (VBin → FpMode → Nat → Nat → Nat × Flags)) :=
  [(.faddF32, 0x20, f32Const, true, fun _ => faddLane f32), (.fsubF32, 0x21, f32Const, true, fun _ => fsubLane f32),
    (.fmulF32, 0x22, f32Const, true, fun _ => fmulLane f32), (.fminF32, 0x24, f32Const, false, fun _ => fminmaxLane false),
    (.fmaxF32, 0x25, f32Const, false, fun _ => fminmaxLane true),
    (.faddF16x2, 0x28, pairConst f16, true, fun _ => pair2 (faddLane f16)),
    (.fmulF16x2, 0x29, pairConst f16, true, fun _ => pair2 (fmulLane f16)),
    (.faddB16x2, 0x2B, pairConst b16, true, fun _ => pair2 (faddLane b16)),
    (.fmulB16x2, 0x2C, pairConst b16, true, fun _ => pair2 (fmulLane b16)),
    (.cvtF16x2F32, 0x34, f32Const, false, fun o => cvtPair f16 true 16 o.m),
    (.cvtB16x2F32, 0x35, f32Const, false, fun o => cvtPair b16 true 16 o.m),
    (.cvtE4m3x2F32, 0x38, f32Const, false, fun o => cvtPair e4m3 false 8 o.m),
    (.cvtE5m2x2F32, 0x39, f32Const, false, fun o => cvtPair e5m2 false 8 o.m)]

/-- The one-operand ones (R174 to R176); the flag says whether MOD[0] is .RZ. -/
def fp1Table : List ((VUn → Instr) × Nat × (Nat → Word) × Bool × (FpMode → Nat → Nat × Flags)) :=
  [(.frndF32, 0x27, f32Const, true, frndLane),
    (.cvtF32I32, 0x30, intConst, true, fun md a => cvtFromInt md (wnat a).toInt),
    (.cvtF32N32, 0x31, intConst, true, fun md a => cvtFromInt md a),
    (.cvtI32F32, 0x32, f32Const, true, cvtToInt minI32v maxI32v),
    (.cvtN32F32, 0x33, f32Const, true, cvtToInt 0 (2 ^ 32 - 1)),
    (.cvtF32F16, 0x36, pairConst f16, false, cvtWiden f16 true 16),
    (.cvtF32B16, 0x37, pairConst b16, false, cvtWiden b16 true 16),
    (.cvtF32E4m3, 0x3A, intConst, false, cvtWiden e4m3 false 8), (.cvtF32E5m2, 0x3B, intConst, false, cvtWiden e5m2 false 8),
    (.rcpF32, 0x40, f32Const, false, rcpLane), (.rsqF32, 0x41, f32Const, false, rsqLane),
    (.sqrtF32, 0x42, f32Const, false, sqrtLane), (.exp2F32, 0x43, f32Const, false, exp2Lane),
    (.log2F32, 0x44, f32Const, false, log2Lane), (.sinF32, 0x45, f32Const, false, sinLane),
    (.cosF32, 0x46, f32Const, false, cosLane), (.tanhF32, 0x47, f32Const, false, tanhLane)]

/-- The three-operand ones (R170, R171). -/
def fp3Table : List ((VTri → Instr) × Nat × (Nat → Word) × (FpMode → Nat → Nat → Nat → Nat × Flags)) :=
  [(.ffmaF32, 0x23, f32Const, ffmaLane f32), (.ffmaF16x2, 0x2A, pairConst f16, pair3 (ffmaLane f16)),
    (.ffmaB16x2, 0x2D, pairConst b16, pair3 (ffmaLane b16))]

/-- The shuffles (R180): the lane read, from the width, the lane and k. -/
def shuffleTable : List ((VBin → Instr) × Nat × (Nat → Nat → Nat → Nat)) :=
  [(.shflIdx, 0x50, fun w _ k => k % w), (.shflUp, 0x51, fun _ l k => if k ≤ l then l - k else l),
    (.shflDn, 0x52, fun w l k => if l + k < w then l + k else l), (.shflXor, 0x53, fun w l k => l ^^^ (k % w))]

/-- The sum of a value over the lanes below W that satisfy a test. -/
def sumLanes (w : Nat) (p : Nat → Bool) (f : Nat → Word) : Word :=
  (((List.range w).filter p).map f).foldr (· + ·) 0

/-! Accesses. -/

/-- One more operation is outstanding on flag f, and on no other (R54). -/
def opensFlag (c d : Coach) (f : Nat) : Prop :=
  onlyPending c d ∧ d.count f = c.count f + 1 ∧ ∀ g, g ≠ f → d.count g = c.count g

/-- The state in which coach k is d and the operation has been issued. -/
def issued (s : State) (k : Nat) (d : Coach) (x : Op) : State :=
  { s.putCoach k d with nextId := s.nextId + 1, ops := s.ops ++ [x] }

/-- No watch comparator of the wing is set for the coach's job, or the bundle is exempt (R371). -/
def unwatched (s : State) (k : Nat) (c : Coach) : Prop :=
  c.exemptWatch = true ∨ ∀ e ∈ (s.wing (wingOf k)).watches, e.2.asid ≠ c.asid

/-- Whether a handle grants n bytes at an offset with the rights needed (R198 steps 4 to 7). -/
def grants (s : State) (c : Coach) (x : Handle) (need : BitVec 4) (off n : Nat) : Prop :=
  x.st = .valid ∧ s.keyOk c x = true ∧ need &&& ~~~x.rights = 0 ∧ x.lo.toNat ≤ off ∧ off + n ≤ x.hi.toNat ∧
    off + n ≤ pageBytes x.size

/-- The parts of an access of n bytes at `off` in each lane of a mask: single-copy-atomic units (R216) at their places. -/
def covers (x : Op) (w : Nat) (m : Lanes) (n : Nat) (off : Nat → Nat) (place : Nat → Nat → Place) : Prop :=
  (∀ q ∈ x.parts, q.lane < w ∧ m.getLsbD q.lane = true ∧ q.pos + q.len ≤ n ∧ q.place = place q.lane (off q.lane + q.pos) ∧
      q.len = if off q.lane % n = 0 then min n 8 else 1) ∧
    ∀ l, l < w → m.getLsbD l = true → ∀ j, j < n → ∃ q ∈ x.parts, q.lane = l ∧ q.pos ≤ j ∧ j < q.pos + q.len

/-- The loads through one handle: words, bytes, acquire. -/
def loadTable : List ((MLoad → Instr) × Nat × Nat × Bool) :=
  [(.ldN8, 1, 1, false), (.ldN16, 1, 2, false), (.ldW, 1, 4, false), (.ldD, 2, 8, false), (.ldQ, 4, 16, false),
    (.ldaW, 1, 4, true)]

/-- The stores through a handle: bytes, release. -/
def storeTable : List ((MStore → Instr) × Nat × Bool) :=
  [(.stB, 1, false), (.stH, 2, false), (.stW, 4, false), (.stD, 8, false), (.stQ, 16, false), (.stlW, 4, true)]

/-- The atomics with two operands (R222): opcode. -/
def atomTable : List ((MAtom → Instr) × Nat) :=
  [(.aaddI32, 0x30), (.aaddF32, 0x31), (.aminI32, 0x32), (.amaxI32, 0x33), (.aand, 0x34), (.aor, 0x35), (.axchg, 0x36)]

/-- Byte i of the words that a store's source names in a lane (R219). -/
def sourceByte (s : State) (c : Coach) (b : VSrc) (l i : Nat) : Byte :=
  BitVec.ofNat 8 ((s.rdOff c l (match b with | .reg r => .reg (r + i / 4) | y => y)).toNat / 256 ^ (i % 4))

/-- The state in which coach k is d and a command has entered its core's Courier queue. -/
def accepted (s : State) (k : Nat) (d : Coach) (m : Cmd) : State :=
  { s.putCoach k d with nextId := s.nextId + 1 }.modCore (coreOf k) fun y => { y with courier := m.join y.courier }

/-- The state in which coach k is d and an operation has entered its wing's matrix queue. -/
def queuedM (s : State) (k : Nat) (d : Coach) (x : MOp) (lodge : Option (BitVec 4)) : State :=
  { s.putCoach k d with nextId := s.nextId + 1 }.modWing (wingOf k) fun y =>
    { y with mq := y.mq ++ [x], issuedFmt := lodge.or y.issuedFmt }

/-- A coach that finds its party served by the Courier: the queue of its core has room (R258). -/
abbrev courierRoom (s : State) (k : Nat) : Prop := (s.core (coreOf k)).courier.length < 64

/-- A handle that a copy may read or write through (R258, R267, R270). -/
abbrev copyOk (s : State) (c : Coach) (sh : Shape) (x : Handle) (co : List Nat) (write : Bool) : Prop :=
  sh.valid = true ∧ x.st = .valid ∧ s.keyOk c x = true ∧ x.rights.getLsbD (if write then 1 else 0) = true ∧
    (write = true → x.wb = false ∧ (Geo.read sh.desc).wr = true) ∧ layoutPage sh x = false ∧
    layoutTiles sh co = false ∧ (Geo.read sh.desc).firstOutside co = none ∧ sh.hi ≤ pageBytes x.size ∧ x.lo.toNat ≤ sh.lo ∧ sh.hi ≤ x.hi.toNat

/-- A matrix format that the package accepts (R278). -/
abbrev fmtOk (s : State) (fmt : BitVec 4) : Prop :=
  fmt.toNat < 8 ∧ (fmt = 4 → s.feature 8 = true) ∧ (fmt = 5 → s.feature 9 = true)

/-- The Drover of a coach's wing serves its party (R300). -/
abbrev served (s : State) (k : Nat) : Prop := (s.wing (wingOf k)).drover.party = some (s.coach k).party

/-! Events. -/

/-- Bytes stand at an address, and every other byte is as before. -/
def written (m m' : List Host.Cell) (a : Nat) (bs : List Byte) : Prop :=
  ∀ x, mget m' x = if a ≤ x ∧ x < a + bs.length then nth bs (x - a) 0 else mget m x

/-- Device memory and host memory are as before. -/
def sameStorage (s t : State) : Prop := t.mem = s.mem ∧ t.host = s.host

/-- The scratchpads are as before. -/
def samePads (s t : State) : Prop := ∀ c a, mget (t.core c).sram a = mget (s.core c).sram a

/-- An operation that has gone on since it was issued: its parts alone may differ. -/
def goesOn (x y : Op) : Prop := y = { x with parts := y.parts }

/-- The words of memory after an atomic's lanes, one after another, and the word that each lane found (R222). -/
def atomicRun (opc : Nat) (m : List Host.Cell) : List AtomLane → List Host.Cell × List Word
  | [] => (m, [])
  | a :: as =>
    let old : Word := BitVec.ofNat 32 (leNat (mgets m a.place.key 4))
    let r := atomicRun opc (msets m a.place.key (leBytes (atomOp opc old a.v a.c).toNat 4)) as
    (r.1, old :: r.2)

/-- No bundle after `seq` has had a write land in the present cycle, over which it would prevail (R50). -/
abbrev unbeaten (c : Coach) (seq : Nat) : Prop := ∀ e ∈ c.landed, e.1 ≤ seq

/-- An operation of coach k that is counted leaves the table, and its flag where it was the flag's only one; then scalar register d, if it
names one, holds v, and the other scalar registers are as before. -/
def countsScalar (u t : State) (k : Nat) (x : Op) (d : Nat) (v : Dbl) : Prop :=
  t.op? x.id = none ∧ ∀ e, (u.coach k).flags = [e] → x.fe = some e.id → unbeaten (u.coach k) e.seq → (t.coach k).flags = [] ∧
    (srising 0 (u.coach k).s = true → ∀ r, sget 0 (t.coach k).s r = if d ≠ 0 ∧ r = d then v else sget 0 (u.coach k).s r)

/-- A write for a job at an address of device memory writes the bytes and no others: the region is live, and the granule
transition copies nothing, for this job and every other that maps the granule (R339). -/
def quietHome (s : State) (asid pa : Nat) : Prop :=
  s.isDead pa = false ∧ ∀ a, a = asid ∨ a ∈ s.granuleJobs pa →
    a = 0 ∨ (s.granule a (pa / 65536)).c ≠ .armed ∨ (nth (s.job a).snap.entry 5 0).toNat = 0

/-- L2 holds nothing as ciphertext, and has room for the lines of an access: none leaves it. -/
abbrev calmL2 (s : State) : Prop := s.seals = [] ∧ s.l2.length + 16 ≤ sliceLines

/-- Every die of the package stands at one epoch of a job (R332): no message is late, none forces a cut. -/
def oneEpoch (s : State) (asid stamp : Nat) : Prop := ∀ d, d < 10 → s.epochOf asid d = stamp

/-- As quietHome, of a write whose stamp is every die's epoch, with L2 calm. -/
def plainHome (s : State) (asid pa stamp : Nat) : Prop :=
  quietHome s asid pa ∧ oneEpoch s asid stamp ∧ calmL2 s

/-- A coach as R319 creates it: coach number `num` of party x, with the entry of its role. -/
def created (l : Launch) (x : Party) (num : Nat) (r : RoleEntry) (c : Coach) : Prop :=
  let w := l.kernel.width
  let lanes := dbits (nth l.doubles 0 0) 21 15
  let n := if lanes = 0 then w else lanes
  c.present = true ∧ c.ended = false ∧ c.priv = false ∧ c.role = r.role ∧ c.width = w ∧ c.budget = r.budget ∧ c.asid = l.asid ∧ c.pc = r.entry ∧
    c.v = [] ∧ c.p = [] ∧ c.h = [] ∧ c.flags = [] ∧ c.inflight = [] ∧ c.lat = Latches.blank ∧ c.fpmode = 0 ∧ c.lcnt = 0 ∧
    c.ecnt = 0 ∧ c.rotb = 0 ∧ c.intrap = false ∧ c.stop = .none ∧ c.mon = .none ∧ c.steps = 0 ∧
    sget 0 c.s 1 = nth l.doubles 4 0 ∧ (x.c < 2 ^ 32 → (sget 0 c.s 2).toNat = (x.c + 2 ^ 32 * x.d) % 2 ^ 64) ∧
    sget 0 c.s 3 = x.token ∧
    (sget 0 c.s 4).toNat = (num + 16 * x.k + 256 * (if x.convoy = [] then 1 else x.convoy.length) + 4096 * (x.relaunches % 256)) % 2 ^ 64 ∧
    (∀ q, 4 < q ∨ q = 0 → sget 0 c.s q = 0) ∧ (∀ i, i < 64 → c.live.getLsbD i = decide (i < n)) ∧ c.launched = c.live ∧
    c.stack = [{ mask := c.live, pending := false, dcall := false, pc := 0, rpc := 0, dret := 0 }] ∧
    c.tvec = nth l.doubles 10 0 ∧ c.dtbase = l.kernel.dtab ∧ c.dtlen = l.kernel.dtlen

/-- A generation of a job is aborted (R347): its state and cause, with every die's cut taken. -/
def aborted (t : State) (asid cause : Nat) : Prop :=
  (t.job asid).snap.state = 4 ∧ (t.job asid).snap.cause = cause ∧ ∀ d, d < 10 → (t.cutOf asid d).cut = true

/-- The tables in which a job keeps its cuts list their dies in rising order. -/
def cutsOk (s : State) (asid : Nat) : Prop :=
  srising 0 (s.job asid).snap.cuts = true ∧ srising 0 (s.job asid).epoch = true

/-- Reading a queue's header, and the command that it offers, leaves nothing beside: no request to the host, no count, no record. -/
abbrev quietQueue (s : State) (hdr : Nat) : Prop := s.noteHead hdr = s

/-- No job has a reserve frame, so that no granule is copied before a write (R339). -/
def noReserve (s : State) : Prop := ∀ a, (nth (s.job a).snap.entry 5 0).toNat = 0

/-- A mailbox command ends with a result (R363). -/
def mailDone (s : State) (result : Nat) : State :=
  { s with mbox := { s.mbox with stat := BitVec.ofNat 64 result, busy := false } }

/-- Physical addresses of a key command's status and of the key queue's DONE, where identifier 0 has no context (log 7). -/
def keyStatusAt (c : TcqCmd) : Nat := (c.slotAddr + 56) % 2 ^ 40
def keyDoneAt (s : State) : Nat := (s.cfg.kmq + 32) % 2 ^ 40

/-- The two writes that end a command of the key manager (R200, R386), after others. -/
def keyEnds (s : State) (c : TcqCmd) (status : Nat) (refused : Bool) (m : List Host.Cell) : List Host.Cell :=
  msets (msets m (keyStatusAt c) (leBytes status 8)) (keyDoneAt s) (leBytes (c.seqNo + if refused then 2 ^ 63 else 0) 8)

/-- The bundle of coach k executes: the record of the bundle in execution that its syllables see. -/
def entered (s : State) (k : Nat) (b : Bundle) : State :=
  s.setCur fun _ =>
    { coach := some k, pc := (s.coach k).pc, cycle := s.now k, seq := (s.coach k).seq, gap := b.d.gap, litc := b.d.litc,
      status := .done, npc := none, pend := none, joined := false, delay := (s.coach k).pend.isSome }

end Sys2Proof.Safety
end

