-- ==== Sys2Proof/Certificates/Slice0/Obligations.lean ====
section
/-! DEFINITION. The statements about the model, from the numbered rules of the manual. -/

open Sys2Proof Sys2Proof.Machine Sys2Proof.Safety


/-! The V slot. -/

/-- R166: arithmetic on two 32-bit images, in every active lane, landing two cycles on (and the delays of R46).
R166: the bitwise opcodes, bit by bit. -/
def Obligations.VectorIntegerResults : Prop :=
  (
  ∀ e ∈ int32Table, ∀ (o : VBin) (s : State) (k : Nat), s.cur.coach = some k → s.active (s.coach k) o.g ≠ 0 →
    ∃ d, exec (e.1 o) s = .next (s.putCoach k d) ∧ onlyResults (s.coach k) d ∧ keepsResults (s.coach k) d ∧
      vecUnderWay (s.coach k) d (vLands s (s.coach k) 2 (opVBin (s.coach k) e.2.1 o)) s.cur.seq o.d
        (s.active (s.coach k) o.g) fun l =>
          BitVec.ofInt 32 (e.2.2 o.m (s.rdV (s.coach k) o.win intConst l o.a) (s.rdV (s.coach k) o.win intConst l o.b))) ∧
  (
  ∀ e ∈ bitwise32Table, ∀ (o : VBin) (s : State) (k : Nat), s.cur.coach = some k → s.active (s.coach k) o.g ≠ 0 →
    ∃ d z, exec (e.1 o) s = .next (s.putCoach k d) ∧ onlyResults (s.coach k) d ∧ keepsResults (s.coach k) d ∧
      vecUnderWay (s.coach k) d (vLands s (s.coach k) 2 (opVBin (s.coach k) e.2.1 o)) s.cur.seq o.d
        (s.active (s.coach k) o.g) z ∧
      ∀ l i, (z l).getLsbD i =
        if i < 32 then
          e.2.2 ((s.rdV (s.coach k) o.win intConst l o.a).getLsbD i) ((s.rdV (s.coach k) o.win intConst l o.b).getLsbD i)
        else false)

/-- R166, R167: MOV, POPC, CLZ and BFX of V; CLZ counts the zeros above the highest one.
R166: the three-operand opcodes, SEL and LANEID. -/
def Obligations.VectorFieldAndThreeOperandResults : Prop :=
  (
  (∀ (o : VUn) (s : State) (k : Nat), s.cur.coach = some k → s.active (s.coach k) o.g ≠ 0 →
    let c := s.coach k
    let a (l : Nat) : Word := s.rdV c o.win intConst l o.a
    let lands (opc : Nat) (z : Nat → Word) (i : Instr) : Prop :=
      ∃ d, exec i s = .next (s.putCoach k d) ∧ onlyResults c d ∧ keepsResults c d ∧
        vecUnderWay c d (vLands s c 2 (opVUn c opc o)) s.cur.seq o.d (s.active c o.g) z
    lands 0x15 a (.vMov o) ∧
      lands 0x11 (fun l => BitVec.ofNat 32 ((List.range 32).filter (a l).getLsbD).length) (.vPopc o) ∧
      ∃ z : Nat → Nat, lands 0x12 (fun l => BitVec.ofNat 32 (z l)) (.vClz o) ∧
        ∀ l, z l ≤ 32 ∧ (a l).toNat < 2 ^ (32 - z l) ∧ (z l < 32 → 2 ^ (31 - z l) ≤ (a l).toNat)) ∧
  ∀ (o : VBin) (s : State) (k : Nat), s.cur.coach = some k → s.active (s.coach k) o.g ≠ 0 →
    let c := s.coach k
    ∃ d, exec (.vBfx o) s = .next (s.putCoach k d) ∧ onlyResults c d ∧ keepsResults c d ∧
      vecUnderWay c d (vLands s c 2 (opVBin c 0x13 o)) s.cur.seq o.d (s.active c o.g) fun l =>
        let a := (s.rdV c o.win intConst l o.a).toNat
        let b := (s.rdV c o.win intConst l o.b).toNat
        let pos := b % 32
        let len := min (b / 256 % 64) (32 - pos)
        if b / 2 ^ 14 ≠ 0 ∨ b / 32 % 8 ≠ 0 ∨ len = 0 then 0
        else if o.m = true ∧ (a / 2 ^ pos).testBit (len - 1) = true then BitVec.ofInt 32 (a / 2 ^ pos % 2 ^ len - 2 ^ len)
        else BitVec.ofNat 32 (a / 2 ^ pos % 2 ^ len)) ∧
  (
  (∀ (o : VTri) (s : State) (k : Nat), s.cur.coach = some k → s.active (s.coach k) o.g ≠ 0 →
    let c := s.coach k
    let a (l : Nat) : Word := s.rdV c o.win intConst l o.a
    let b (l : Nat) : Word := s.rdV c o.win intConst l o.b
    let x (l : Nat) : Word := s.rdV c o.win intConst l o.c
    let byte (w : Word) (j : Nat) : Nat := w.toNat / 256 ^ j % 256
    let sbyte (w : Word) (j : Nat) : Int := if byte w j < 128 then byte w j else byte w j - 256
    let lands (opc : Nat) (i : Instr) (z : Nat → Int) : Prop :=
      ∃ d, exec i s = .next (s.putCoach k d) ∧ onlyResults c d ∧ keepsResults c d ∧
        vecUnderWay c d (vLands s c 2 (opVTri c opc o)) s.cur.seq o.d (s.active c o.g) fun l => BitVec.ofInt 32 (z l)
    let dot (l : Nat) : Int := sbyte (a l) 0 * sbyte (b l) 0 + sbyte (a l) 1 * sbyte (b l) 1 +
      sbyte (a l) 2 * sbyte (b l) 2 + sbyte (a l) 3 * sbyte (b l) 3
    let udot (l : Nat) : Int := byte (a l) 0 * byte (b l) 0 + byte (a l) 1 * byte (b l) 1 +
      byte (a l) 2 * byte (b l) 2 + byte (a l) 3 * byte (b l) 3
    lands 0x06 (.imadI32 o) (fun l => (a l).toNat * (b l).toNat + (x l).toNat) ∧
      lands 0x16 (.idp4I8 o) (fun l =>
        if o.m then clamp (-2 ^ 31) (2 ^ 31 - 1) ((x l).toInt + dot l) else (x l).toInt + dot l) ∧
      lands 0x17 (.idp4N8 o) (fun l =>
        if o.m then min ((x l).toNat + udot l) (2 ^ 32 - 1) else (x l).toNat + udot l)) ∧
  (∀ (o : VSel) (s : State) (k : Nat), s.cur.coach = some k → s.active (s.coach k) o.g ≠ 0 →
    let c := s.coach k
    ∃ d, exec (.sel o) s = .next (s.putCoach k d) ∧ onlyResults c d ∧ keepsResults c d ∧
      vecUnderWay c d (vLands s c 2 (opVSel c 0x14 o)) s.cur.seq o.d (s.active c o.g) fun l =>
        if xor ((s.readP c o.pc).getLsbD l) o.m = true then s.rdV c o.win intConst l o.a
        else s.rdV c o.win intConst l o.b) ∧
  ∀ (o : VLane) (s : State) (k : Nat), s.cur.coach = some k → s.active (s.coach k) o.g ≠ 0 →
    let c := s.coach k
    ∃ d, exec (.laneid o) s = .next (s.putCoach k d) ∧ onlyResults c d ∧ keepsResults c d ∧
      vecUnderWay c d (vLands s c 2 (opVLane c 0x18 o)) s.cur.seq o.d (s.active c o.g) fun l => BitVec.ofNat 32 l)

/-- R165, R168, R173: the vector compares write a predicate in the active lanes, integer after 2 cycles and FCMP after 4. -/
def Obligations.VectorCompareResults : Prop :=
  ∀ (o : VCmp) (s : State) (k : Nat), s.cur.coach = some k → s.active (s.coach k) o.g ≠ 0 →
    let c := s.coach k
    let ia (l : Nat) : Word := s.rdV c o.win intConst l o.a
    let ib (l : Nat) : Word := s.rdV c o.win intConst l o.b
    let lands (lat opc : Nat) (i : Instr) (z : Nat → Bool) : Prop :=
      ∃ d, exec i s = .next (s.putCoach k d) ∧ onlyResults c d ∧ keepsResults c d ∧ d.lat = c.lat ∧
        prdUnderWay c d (vLands s c lat (opVCmp c opc o)) s.cur.seq o.pd (s.active c o.g) z
    (∃ z, lands 2 0x19 (.icmpI32 o) z ∧ ∀ l, z l = true ↔ condHolds o.cc (ia l).toInt (ib l).toInt) ∧
      (∃ z, lands 2 0x1A (.icmpN32 o) z ∧ ∀ l, z l = true ↔ condHolds o.cc (ia l).toNat (ib l).toNat) ∧
      lands 4 0x26 (.fcmpF32 o) fun l =>
        (fcmpLane o.cc (c.fpMode s.cur.seq false) (s.rdV c o.win f32Const l o.a).toNat
          (s.rdV c o.win f32Const l o.b).toNat).1

/-- R169 to R176: floating-point, conversion and special-function syllables: the lane operation under the mode that the
syllable latches (toward zero under .RZ), its result after the class's latency (R47), and the OR of its lanes' flags landing
with it (R105). -/
def Obligations.VectorFloatResults : Prop :=
  (∀ e ∈ fp2Table, ∀ (o : VBin) (s : State) (k : Nat), s.cur.coach = some k → s.active (s.coach k) o.g ≠ 0 →
    let c := s.coach k
    let due := vLands s c 4 (opVBin c e.2.1 o)
    let r (l : Nat) : Nat × Flags := e.2.2.2.2 o (c.fpMode s.cur.seq (e.2.2.2.1 && o.m))
      (s.rdV c o.win e.2.2.1 l o.a).toNat (s.rdV c o.win e.2.2.1 l o.b).toNat
    ∃ d, exec (e.1 o) s = .next (s.putCoach k d) ∧ onlyResults c d ∧ keepsResults c d ∧
      vecUnderWay c d due s.cur.seq o.d (s.active c o.g) (fun l => BitVec.ofNat 32 (r l).1) ∧
      ∀ l i, l < c.width → (s.active c o.g).getLsbD l = true → (r l).2.getLsbD i = true →
        ∃ b : Flags, underWay d due s.cur.seq (.flags b) ∧ b.getLsbD i = true) ∧
  (∀ e ∈ fp1Table, ∀ (o : VUn) (s : State) (k : Nat), s.cur.coach = some k → s.active (s.coach k) o.g ≠ 0 →
    let c := s.coach k
    let due := vLands s c (if 0x40 ≤ e.2.1 then 12 else 4) (opVUn c e.2.1 o)
    let r (l : Nat) : Nat × Flags := e.2.2.2.2 (c.fpMode s.cur.seq (e.2.2.2.1 && o.m)) (s.rdV c o.win e.2.2.1 l o.a).toNat
    ∃ d, exec (e.1 o) s = .next (s.putCoach k d) ∧ onlyResults c d ∧ keepsResults c d ∧
      vecUnderWay c d due s.cur.seq o.d (s.active c o.g) (fun l => BitVec.ofNat 32 (r l).1) ∧
      ∀ l i, l < c.width → (s.active c o.g).getLsbD l = true → (r l).2.getLsbD i = true →
        ∃ b : Flags, underWay d due s.cur.seq (.flags b) ∧ b.getLsbD i = true) ∧
  ∀ e ∈ fp3Table, ∀ (o : VTri) (s : State) (k : Nat), s.cur.coach = some k → s.active (s.coach k) o.g ≠ 0 →
    let c := s.coach k
    let due := vLands s c 4 (opVTri c e.2.1 o)
    let r (l : Nat) : Nat × Flags := e.2.2.2 (c.fpMode s.cur.seq o.m) (s.rdV c o.win e.2.2.1 l o.a).toNat
      (s.rdV c o.win e.2.2.1 l o.b).toNat (s.rdV c o.win e.2.2.1 l o.c).toNat
    ∃ d, exec (e.1 o) s = .next (s.putCoach k d) ∧ onlyResults c d ∧ keepsResults c d ∧
      vecUnderWay c d due s.cur.seq o.d (s.active c o.g) (fun l => BitVec.ofNat 32 (r l).1) ∧
      ∀ l i, l < c.width → (s.active c o.g).getLsbD l = true → (r l).2.getLsbD i = true →
        ∃ b : Flags, underWay d due s.cur.seq (.flags b) ∧ b.getLsbD i = true

/-- R180 to R182: shuffles read the named lane, votes and BALLOT the active lanes, RED.IADD and SCAN.IADD sum the active
lanes; all land after 6 cycles. -/
def Obligations.CrossLaneResults : Prop :=
  (∀ e ∈ shuffleTable, ∀ (o : VBin) (s : State) (k : Nat), s.cur.coach = some k → s.active (s.coach k) o.g ≠ 0 →
    let c := s.coach k
    ∃ d, exec (e.1 o) s = .next (s.putCoach k d) ∧ onlyResults c d ∧ keepsResults c d ∧
      vecUnderWay c d (vLands s c 6 (opVBin c e.2.1 o)) s.cur.seq o.d (s.active c o.g) fun l =>
        s.rdV c o.win intConst (e.2.2 c.width l (s.rdV c o.win intConst l o.b).toNat) o.a) ∧
  (∀ (o : VVote) (s : State) (k : Nat), s.cur.coach = some k → s.active (s.coach k) o.g ≠ 0 →
    let c := s.coach k
    let x (l : Nat) : Bool := match o.a with
      | .vec a => s.rdV c o.win intConst l a != 0
      | .prd p => (s.readP c p).getLsbD l
    let act (l : Nat) : Prop := (s.active c o.g).getLsbD l = true
    (∀ l, act l → l < c.width) →
    (∃ d z, exec (.voteAny o) s = .next (s.putCoach k d) ∧ onlyResults c d ∧
      prdUnderWay c d (vLands s c 6 (opVVote c 0x54 o)) s.cur.seq o.pd (s.active c o.g) (fun _ => z) ∧
      (z = true ↔ ∃ l, act l ∧ x l = true)) ∧
    ∃ d z, exec (.voteAll o) s = .next (s.putCoach k d) ∧ onlyResults c d ∧
      prdUnderWay c d (vLands s c 6 (opVVote c 0x55 o)) s.cur.seq o.pd (s.active c o.g) (fun _ => z) ∧
      (z = true ↔ ∀ l, act l → x l = true)) ∧
  (∀ (o : VBallot) (s : State) (k : Nat), s.cur.coach = some k → s.active (s.coach k) o.g ≠ 0 →
    let c := s.coach k
    ∃ d z, exec (.ballot o) s = .next (s.putCoach k d) ∧ onlyResults c d ∧
      vecUnderWay c d (vLands s c 6 (opVBallot c 0x56 o)) s.cur.seq o.d (s.active c o.g) (fun _ => z) ∧
      ∀ i, i < 32 → z.getLsbD i =
        ((s.readP c o.pa).getLsbD (if o.hi then i + 32 else i) && (s.active c o.g).getLsbD (if o.hi then i + 32 else i))) ∧
  ∀ (o : VUn) (s : State) (k : Nat), s.cur.coach = some k → s.active (s.coach k) o.g ≠ 0 →
    let c := s.coach k
    let act := (s.active c o.g).getLsbD
    let v (l : Nat) : Word := s.rdV c o.win intConst l o.a
    (∃ d, exec (.redIadd o) s = .next (s.putCoach k d) ∧ onlyResults c d ∧ keepsResults c d ∧
      vecUnderWay c d (vLands s c 6 (opVUn c 0x57 o)) s.cur.seq o.d (s.active c o.g) fun _ => sumLanes c.width act v) ∧
    ∃ d, exec (.scanIadd o) s = .next (s.putCoach k d) ∧ onlyResults c d ∧ keepsResults c d ∧
      vecUnderWay c d (vLands s c 6 (opVUn c 0x59 o)) s.cur.seq o.d (s.active c o.g) fun l =>
        sumLanes c.width (fun i => act i && (if o.m then decide (i < l) else decide (i ≤ l))) v

/-- R182, R183: RED.FADD.F32 writes the root of the tree over the active lanes to each; BLKQ writes each active lane its
element code and the block's exponent pair, and may append records (R187) to its core's statistics queue. -/
def Obligations.ReductionTreeAndBlockResults : Prop :=
  ∀ (o : VUn) (s : State) (k : Nat), s.cur.coach = some k → s.active (s.coach k) o.g ≠ 0 →
    let c := s.coach k
    let m := s.active c o.g
    (∃ d, exec (.redFaddF32 o) s = .next (s.putCoach k d) ∧ onlyResults c d ∧ keepsResults c d ∧
      vecUnderWay c d (vLands s c 6 (opVUn c 0x58 o)) s.cur.seq o.d m fun _ => BitVec.ofNat 32 (redFadd s c o m).1) ∧
    ∀ e ∈ [(Instr.blkqD8, 0x5A, false), (Instr.blkqD4, 0x5B, true)],
      let b (l : Nat) := blockEncode e.2.2 o.m (blockInputs s c o m (l / 32))
      ∃ (u : State) (d : Coach), exec (e.1 o) s = .next (u.putCoach k d) ∧ onlyResults c d ∧ keepsResults c d ∧
        vecUnderWay c d (vLands s c 6 (opVUn c e.2.1 o)) s.cur.seq o.d m (fun l =>
          BitVec.ofNat 32 (nth (b l).2.2.1 (l % 32) 0 + 2 ^ 8 * (b l).1 + 2 ^ 16 * (b l).2.1)) ∧
        u = { s with cores := u.cores } ∧ ∀ j, u.core j = { s.core j with statq := (u.core j).statq, lost := (u.core j).lost }

/-- R37, R44: a V syllable that no lane executes writes nothing; if its destination is a register or 0xFD it enters the latch
sequence with zeros.
R38: an empty syllable, whatever its slot and guard, changes nothing. -/
def Obligations.IdleAndEmptySyllables : Prop :=
  (
  ∀ (i : Instr) (s : State) (k : Nat) (op : Opnds), s.cur.coach = some k → operands s (s.coach k) i = some op →
    op.slot = 0 → s.active (s.coach k) op.guard = 0 →
    ∃ d, (exec i s = .next (s.putCoach k d) ∨ exec i s = .next s ∧ d = s.coach k) ∧ onlyResults (s.coach k) d ∧
      d.inflight = (s.coach k).inflight ∧ (op.enters = none → d = s.coach k) ∧
      (op.enters = some 4 → ∃ x, d.lat.v.head? = some x ∧ x.seq = s.cur.seq ∧ ∀ l, nth x.vals l 0 = 0)) ∧
  (
 ∀ (sl : Slot) (g : BitVec 5) (s : State), exec (.nop sl g) s = .next s)

/-- R184, R116: CHK.V and CHK.S leave everything when the compared values agree, and raise CHKFAIL (code 0x05) with the
differing lanes or bits when they do not. -/
def Obligations.ChecksPassOrTrap : Prop :=
  (∀ (o : VChk) (s : State) (k : Nat), s.cur.coach = some k →
    let c := s.coach k
    let diff (l : Nat) : Prop := l < c.width ∧ (s.active c o.g).getLsbD l = true ∧
      s.rdV c o.win intConst l o.a ≠ s.rdV c o.win intConst l o.b
    ((∀ l, ¬ diff l) → exec (.chkV o) s = .next s) ∧
      ((∃ l, l < 64 ∧ diff l) → ∃ m : Lanes, (∀ l, l < 64 → (m.getLsbD l = true ↔ diff l)) ∧
        exec (.chkV o) s = .next (s.trapNow k 6 (mkTrap 0x05 0 m)))) ∧
  ∀ (g : Guard) (a b : SSrc) (p q : Nat) (s : State) (k : Nat), s.cur.coach = some k → s.active (s.coach k) g ≠ 0 →
    let c := s.coach k
    (s.rdS c a = s.rdS c b → exec (.chkS ⟨g, .scalars a b⟩) s = .next s) ∧
      (s.rdS c a ≠ s.rdS c b →
        exec (.chkS ⟨g, .scalars a b⟩) s = .next (s.trapNow k 6 (mkTrap 0x05 3 (s.rdS c a ^^^ s.rdS c b)))) ∧
      ((∀ l, (s.active c g).getLsbD l = true → (s.readP c p).getLsbD l = (s.readP c q).getLsbD l) →
        exec (.chkS ⟨g, .preds p q⟩) s = .next s) ∧
      ((∃ l, (s.active c g).getLsbD l = true ∧ (s.readP c p).getLsbD l ≠ (s.readP c q).getLsbD l) →
        exec (.chkS ⟨g, .preds p q⟩) s =
          .next (s.trapNow k 6 (mkTrap 0x05 3 ((s.readP c p ^^^ s.readP c q) &&& s.active c g))))

/-! The scalar half of the C slot. -/

/-- R110, R45: the 64-bit arithmetic opcodes land after one cycle; a write of s0 reaches the latch alone.
R110, R111, R115, R362: the bitwise opcodes, MOV, POPC, CLZ, BFX, P2S and TICK. -/
def Obligations.ScalarResults : Prop :=
  (
  ∀ e ∈ int64Table, ∀ (o : CBin) (s : State) (k : Nat), s.cur.coach = some k → s.active (s.coach k) o.g ≠ 0 →
    let c := s.coach k
    ∃ d, exec (e.1 o) s = .next (s.putCoach k d) ∧ onlyResults c d ∧ keepsResults c d ∧
      underWay d (s.cur.cycle + 1) s.cur.seq
        (scalarWrite c o.d (BitVec.ofInt 64 (e.2 o.m (s.rdS c o.a) (s.rdS c o.b))))) ∧
  (
  (∀ e ∈ bitwise64Table, ∀ (o : CBin) (s : State) (k : Nat), s.cur.coach = some k → s.active (s.coach k) o.g ≠ 0 →
    let c := s.coach k
    ∃ d z, exec (e.1 o) s = .next (s.putCoach k d) ∧ onlyResults c d ∧ keepsResults c d ∧
      underWay d (s.cur.cycle + 1) s.cur.seq (scalarWrite c o.d z) ∧
      ∀ i, i < 64 → z.getLsbD i = e.2 ((s.rdS c o.a).getLsbD i) ((s.rdS c o.b).getLsbD i)) ∧
  (∀ (o : CUn) (s : State) (k : Nat), s.cur.coach = some k → s.active (s.coach k) o.g ≠ 0 →
    let c := s.coach k
    let a := s.rdS c o.a
    let lands (i : Instr) (z : Dbl) : Prop := ∃ d, exec i s = .next (s.putCoach k d) ∧ onlyResults c d ∧ keepsResults c d ∧
      underWay d (s.cur.cycle + 1) s.cur.seq (scalarWrite c o.d z)
    lands (.cMov o) a ∧ lands (.cPopc o) (BitVec.ofNat 64 ((List.range 64).filter a.getLsbD).length) ∧
      ∃ z : Nat, lands (.cClz o) (BitVec.ofNat 64 z) ∧ z ≤ 64 ∧ a.toNat < 2 ^ (64 - z) ∧ (z < 64 → 2 ^ (63 - z) ≤ a.toNat)) ∧
  (∀ (o : CBin) (s : State) (k : Nat), s.cur.coach = some k → s.active (s.coach k) o.g ≠ 0 →
    let c := s.coach k
    let a := (s.rdS c o.a).toNat
    let b := (s.rdS c o.b).toNat
    let pos := b % 64
    let len := min (b / 256 % 128) (64 - pos)
    ∃ d, exec (.cBfx o) s = .next (s.putCoach k d) ∧ onlyResults c d ∧ keepsResults c d ∧
      underWay d (s.cur.cycle + 1) s.cur.seq (scalarWrite c o.d (
        if b / 2 ^ 15 ≠ 0 ∨ b / 64 % 4 ≠ 0 ∨ len = 0 then 0
        else if o.m.getLsbD 0 = true ∧ (a / 2 ^ pos).testBit (len - 1) = true then
          BitVec.ofInt 64 (a / 2 ^ pos % 2 ^ len - 2 ^ len)
        else BitVec.ofNat 64 (a / 2 ^ pos % 2 ^ len)))) ∧
  (∀ (o : CP2s) (s : State) (k : Nat), s.cur.coach = some k → s.active (s.coach k) o.g ≠ 0 →
    let c := s.coach k
    ∃ d z, exec (.p2s o) s = .next (s.putCoach k d) ∧ onlyResults c d ∧ keepsResults c d ∧
      underWay d (s.cur.cycle + 1) s.cur.seq (scalarWrite c o.d z) ∧
      ∀ l, l < 64 → z.getLsbD l =
        (decide (l < c.width) && (s.active c o.g).getLsbD l && (s.readP c o.pa).getLsbD l)) ∧
  ∀ (o : CTick) (s : State) (k : Nat), s.cur.coach = some k → s.active (s.coach k) o.g ≠ 0 →
    ∃ d, exec (.tick o) s = .next (s.putCoach k d) ∧ onlyResults (s.coach k) d ∧ keepsResults (s.coach k) d ∧
      underWay d (s.cur.cycle + 1) s.cur.seq (scalarWrite (s.coach k) (.reg o.d) (BitVec.ofNat 64 s.tick)))

/-- R113 to R115: scalar compares, predicate logic and S2P write the active lanes of a predicate after one cycle. -/
def Obligations.PredicateResults : Prop :=
  (∀ (o : CCmp) (s : State) (k : Nat), s.cur.coach = some k → s.active (s.coach k) o.g ≠ 0 →
    let c := s.coach k
    let lands (i : Instr) (z : Bool) : Prop := ∃ d, exec i s = .next (s.putCoach k d) ∧ onlyResults c d ∧ keepsResults c d ∧
      prdUnderWay c d (s.cur.cycle + 1) s.cur.seq o.pd (s.active c o.g) fun _ => z
    (∃ z, lands (.scmpI64 o) z ∧ (z = true ↔ condHolds o.cc (s.rdS c o.a).toInt (s.rdS c o.b).toInt)) ∧
      ∃ z, lands (.scmpN64 o) z ∧ (z = true ↔ condHolds o.cc (s.rdS c o.a).toNat (s.rdS c o.b).toNat)) ∧
  (∀ e ∈ [(Instr.pand, fun x y : Bool => x && y), (Instr.por, fun x y => x || y), (Instr.pxor, fun x y => xor x y)],
    ∀ (o : CPredBin) (s : State) (k : Nat), s.cur.coach = some k → s.active (s.coach k) o.g ≠ 0 →
    let c := s.coach k
    c.width ≤ 64 →
    ∃ d, exec (e.1 o) s = .next (s.putCoach k d) ∧ onlyResults c d ∧ keepsResults c d ∧
      prdUnderWay c d (s.cur.cycle + 1) s.cur.seq o.pd (s.active c o.g) fun l =>
        e.2 (xor ((s.readP c o.pa).getLsbD l) o.na) (xor ((s.readP c o.pb).getLsbD l) o.nb)) ∧
  (∀ (o : CPnot) (s : State) (k : Nat), s.cur.coach = some k → s.active (s.coach k) o.g ≠ 0 →
    let c := s.coach k
    c.width ≤ 64 →
    ∃ d, exec (.pnot o) s = .next (s.putCoach k d) ∧ onlyResults c d ∧ keepsResults c d ∧
      prdUnderWay c d (s.cur.cycle + 1) s.cur.seq o.pd (s.active c o.g) fun l => !(s.readP c o.pa).getLsbD l) ∧
  ∀ (o : CS2p) (s : State) (k : Nat), s.cur.coach = some k → s.active (s.coach k) o.g ≠ 0 →
    let c := s.coach k
    ∃ d, exec (.s2p o) s = .next (s.putCoach k d) ∧ onlyResults c d ∧ keepsResults c d ∧
      prdUnderWay c d (s.cur.cycle + 1) s.cur.seq o.pd (s.active c o.g) fun l => (s.rdS c o.a).getLsbD l

/-! Transfers, divergence, loops and stops. -/

/-- R117 to R119: BRA redirects after its delay bundle when it is taken (an active lane; under .ALL, the guard in every lane on
the path), to P plus the sign-extended literal or to the scalar; a target that is misaligned or has a bit of [63:57] traps as
ILLEGAL of field A. -/
def Obligations.BranchTaken : Prop :=
  ∀ (o : CBra) (s : State) (k : Nat), s.cur.coach = some k →
    let c := s.coach k
    let a : Dbl := match o.t with
      | .rel w => s.cur.pc + w.signExtend 64
      | .abs x => s.rdS c x
    let taken : Prop := s.active c o.g ≠ 0 ∧ (o.all = true → ∀ l, c.path.getLsbD l = true → (s.guardLanes c o.g).getLsbD l = true)
    (taken → a.toNat % 4 = 0 → a.toNat < 2 ^ 57 →
      exec (.bra o) s = .next (s.setCur fun u => { u with pend := some (.target a) })) ∧
    (¬ taken → exec (.bra o) s = .next s) ∧
    (taken → (a.toNat % 4 ≠ 0 ∨ 2 ^ 57 ≤ a.toNat) →
      exec (.bra o) s = .next (s.trapNow k 2 (mkTrap 0x01 3 (BitVec.ofNat 64 (3 + 256 * a.toNat)))))

/-- R119, R118, R128: CALL writes the address of the bundle after its delay bundle, whose header has been fetched, and
redirects; RET redirects to its scalar, or performs the join step after its delay bundle when the top entry is a dispatch call
with that return address. -/
def Obligations.CallAndReturn : Prop :=
  (∀ (o : CCall) (s s1 : State) (k : Nat) (img : List Byte) (ret a : Dbl), s.cur.coach = some k →
    s.active (s.coach k) o.g ≠ 0 →
    (a = match o.t with | .rel w => s.cur.pc + w.signExtend 64 | .abs x => s.rdS (s.coach k) x) →
    a.toNat % 4 = 0 → a.toNat < 2 ^ 57 → s.delayBundle k = some (img, ret, s1) →
    ∃ d, exec (.call o) s = .next ((s1.putCoach k d).setCur fun u => { u with pend := some (.target a) }) ∧
      d.delayImg = some img ∧ underWay d (s.cur.cycle + 1) s.cur.seq (scalarWrite (s1.coach k) o.d ret) ∧
      ∃ (h : List Byte) (u : State), s.fetch k s.cur.seqPc.toNat 4 = some (h, u) ∧
        ret = s.cur.seqPc + BitVec.ofNat 64 (24 + 4 * litcOf (leNat h))) ∧
  ∀ (o : CSrc) (s : State) (k : Nat), s.cur.coach = some k → s.active (s.coach k) o.g ≠ 0 →
    let a := s.rdS (s.coach k) o.a
    (∀ t ts, (s.coach k).stack = t :: ts → t.dcall = true → t.dret.setWidth 64 = a →
      exec (.ret o) s = .next (s.setCur fun u => { u with pend := some .join })) ∧
    ((∀ t ts, (s.coach k).stack = t :: ts → ¬ (t.dcall = true ∧ t.dret.setWidth 64 = a)) →
      a.toNat % 4 = 0 → a.toNat < 2 ^ 57 →
      exec (.ret o) s = .next (s.setCur fun u => { u with pend := some (.target a) }))

/-- R127: JTAB with every active lane's index below DTLEN. One distinct index: a transfer to its entry. Several: an entry is
pushed for each after the delay bundle, in ascending order of index with the lowest on top, the others pending at their
entries' addresses. The state is the one that reading these entries, which hold no uncorrectable error, leaves. -/
def Obligations.DispatchThroughTable : Prop :=
  ∀ (o : CJtab) (s s1 : State) (k : Nat) (img : List Byte) (ret : Dbl) (is : List Nat), s.cur.coach = some k →
    let c := s.coach k
    let idx (l : Nat) : Nat := (s.rdV c 0 intConst l o.a).toNat
    let act (l : Nat) : Prop := l < c.width ∧ c.path.getLsbD l = true
    c.path ≠ 0 → c.width ≤ 64 → (∃ l, act l) → (∀ l, act l → idx l < c.dtlen.toNat) →
    is.Pairwise (· < ·) → (∀ i, i ∈ is ↔ ∃ l, act l ∧ idx l = i) →
    let u := s.tableReads c is
    u.tablePoison c is = none →
    (∀ i ∈ is, (u.dtEntry c i).toNat % 4 = 0 ∧ (u.dtEntry c i).toNat < 2 ^ 57) →
    (1 < is.length → c.stack.length + is.length ≤ 32 + c.spill) →
    (o.call.isSome = true → u.delayBundle k = some (img, ret, s1)) →
    ∃ (t : State) (p : Pending), exec (.jtab o) s = .next (t.setCur fun u => { u with pend := some p }) ∧
      (∀ i, is = [i] → p = .target (u.dtEntry c i)) ∧
      (1 < is.length → ∃ es, p = .push (if o.call.isSome then some ret else none) es (u.dtEntry c (is.headD 0)) ∧
        es.length = is.length ∧
        ∀ n, n < is.length → ∃ e, es[n]? = some e ∧ e.pending = decide (n ≠ 0) ∧
          (n ≠ 0 → e.pc = (u.dtEntry c (is.getD n 0)).setWidth 57) ∧
          ∀ l, l < c.width → (e.mask.getLsbD l = true ↔ act l ∧ idx l = is.getD n 0)) ∧
      (∀ d, o.call = some d → ∃ x, t = s1.putCoach k x ∧ x.delayImg = some img ∧
        underWay x (u.cur.cycle + 1) u.cur.seq (scalarWrite (s1.coach k) d ret)) ∧
      (o.call = none → t = u)

/-- R124, R123, R125: SPLIT divides the path and gives the running path the next bundle, or the else path's address where no
lane takes the then path; JOIN pops the top entry and goes on at the pending path's address, or at the rejoin address. -/
def Obligations.SplitAndJoin : Prop :=
  (∀ (o : CSplit) (s : State) (k : Nat), s.cur.coach = some k →
    let c := s.coach k
    let els := s.cur.pc + o.els.signExtend 64
    let jn := s.cur.pc + o.join.signExtend 64
    let p := if o.neg then ~~~s.readP c o.p else s.readP c o.p
    let then_ := c.path &&& p
    let else_ := c.path &&& ~~~p
    let entry (m : Lanes) : StackEntry := { mask := m, pending := false, dcall := false, pc := 0, rpc := 0, dret := 0 }
    let wait : StackEntry := { entry else_ with pending := true, pc := els.setWidth 57 }
    let rest : List StackEntry := match c.stack with | [] => [] | t :: ts => { t with rpc := jn.setWidth 57 } :: ts
    c.path ≠ 0 → els.toNat % 4 = 0 → els.toNat < 2 ^ 57 → jn.toNat % 4 = 0 → jn.toNat < 2 ^ 57 →
    c.stack.length + 2 ≤ 32 + c.spill →
    (then_ ≠ 0 → else_ ≠ 0 → exec (.split o) s =
      .next ((s.putCoach k { c with stack := entry then_ :: wait :: rest }).setCur fun u => { u with npc := some s.cur.seqPc })) ∧
    (else_ = 0 → exec (.split o) s =
      .next ((s.putCoach k { c with stack := entry then_ :: rest }).setCur fun u => { u with npc := some s.cur.seqPc })) ∧
    (then_ = 0 → exec (.split o) s =
      .next ((s.putCoach k { c with stack := entry else_ :: rest }).setCur fun u => { u with npc := some els }))) ∧
  ∀ (s : State) (k : Nat) (t0 t : StackEntry) (ts : List StackEntry), s.cur.coach = some k → (s.coach k).path ≠ 0 →
    (s.coach k).stack = t0 :: t :: ts → t.mask &&& (s.coach k).live ≠ 0 →
    exec .join s = .next ((s.putCoach k { s.coach k with stack := { t with pending := false } :: ts }).setCur fun u =>
      { u with npc := some ((if t.pending then t.pc else t.rpc).setWidth 64), joined := true, pend := none })

/-- R126: EXIT ends the lanes where active() holds and KILL the live lanes below W that its scalar names, on every path; each
ended lane leaves every entry's mask. The coach goes on while the top entry holds a live lane; otherwise the join step follows. -/
def Obligations.ExitAndKillEndLanes : Prop :=
  ∀ (i : Instr) (g : Guard) (m : State → Coach → Lanes),
    ((i = .exit ⟨g⟩ ∧ m = fun s c => s.active c g) ∨
      ∃ a, i = .kill ⟨g, a⟩ ∧ m = fun s c => c.live &&& s.rdS c a &&& lanesBelow c.width) →
    ∀ (s : State) (k : Nat), s.cur.coach = some k → s.active (s.coach k) g ≠ 0 →
    let c := s.coach k
    let d := { c with
      live := c.live &&& ~~~m s c, stack := c.stack.map fun e => { e with mask := e.mask &&& ~~~m s c } }
    exec i s = .next (if d.live &&& d.top = 0 then (s.putCoach k d).doJoin k else s.putCoach k d)

/-- R132, R131, R133: LSETUP sets the loop registers and the stage predicates of every lane; ROT steps each base with a nonzero
size back by one; LEND counts LCNT down, then the epilogue, shifting the stage predicates and returning to LBODY, and last
clears ACTIVE. -/
def Obligations.LoopRegisters : Prop :=
  (∀ (o : CLsetup) (s : State) (k : Nat), s.cur.coach = some k →
    let c := s.coach k
    let n := (s.rdS c o.a).toNat
    let g := (s.rdS c o.b).toNat
    c.path ≠ 0 → n ≤ 2 ^ 32 → g < 2 ^ 21 → g / 2 ^ 14 % 4 = 0 → g / 4 % 64 = 0 → g / 256 % 64 ≤ 32 → g / 2 ^ 16 ≤ 16 →
    ∃ d, exec (.lsetup o) s = .next ((s.healSys k [9, 10, 11, 12]).putCoach k d) ∧
      d.lcnt.toNat = n - 1 ∧ d.ecnt.toNat = 2 ^ 63 + (if n = 0 then 0 else g % 4) ∧
      d.lbody = s.cur.pc + BitVec.ofNat 64 (24 + 4 * s.cur.litc) ∧
      rotVSize d.rotb = g / 256 % 64 ∧ rotSSize d.rotb = g / 2 ^ 16 ∧ rotVBase d.rotb = 0 ∧ rotSBase d.rotb = 0 ∧
      (c.width ≤ 64 → prdUnderWay c d (s.cur.cycle + 1) s.cur.seq 8 (lanesBelow c.width) (fun _ => decide (n ≠ 0))) ∧
      (∀ p ∈ [9, 10, 11], prdUnderWay c d (s.cur.cycle + 1) s.cur.seq p (lanesBelow c.width) fun _ => false)) ∧
  (∀ (s : State) (k : Nat), s.cur.coach = some k →
    let r := (s.coach k).rotb
    rotVBase r < 64 → rotVSize r ≤ 32 → rotSSize r ≤ 16 →
    ∃ d, exec .rot s = .next (s.putCoach k d) ∧ d = { s.coach k with rotb := d.rotb } ∧
      rotVSize d.rotb = rotVSize r ∧ rotSSize d.rotb = rotSSize r ∧
      rotVBase d.rotb = (if rotVSize r = 0 then rotVBase r else (rotVBase r + rotVSize r - 1) % rotVSize r) ∧
      rotSBase d.rotb = (if rotSSize r = 0 then rotSBase r else (rotSBase r + rotSSize r - 1) % rotSSize r)) ∧
  ∀ (s : State) (k : Nat), s.cur.coach = some k → s.cur.joined = false → s.cur.npc = none →
    let c := s.coach k
    let all := lanesBelow c.width
    let shifted (d : Coach) (p8 : Bool) : Prop := c.width ≤ 64 →
      prdUnderWay c d (s.cur.cycle + 1) s.cur.seq 8 all (fun _ => p8) ∧
        ∀ p ∈ [9, 10, 11], prdUnderWay c d (s.cur.cycle + 1) s.cur.seq p all (s.readP c (p - 1)).getLsbD
    (c.lcnt ≠ 0 → ∃ d, exec .lend s = .next ((s.putCoach k d).setCur fun u => { u with npc := some c.lbody }) ∧
      d.lcnt.toNat = c.lcnt.toNat - 1 ∧ d.ecnt = c.ecnt ∧ shifted d true) ∧
    (c.lcnt = 0 → c.ecnt.toNat % 4 ≠ 0 →
      ∃ d, exec .lend s = .next ((s.putCoach k d).setCur fun u => { u with npc := some c.lbody }) ∧
        d.lcnt = 0 ∧ d.ecnt.toNat = 2 ^ 63 + (c.ecnt.toNat % 4 - 1) ∧ shifted d false) ∧
    (c.lcnt = 0 → c.ecnt.toNat % 4 = 0 → exec .lend s = .next (s.putCoach k { c with ecnt := 0 }))

/-- R135 to R138: WAIT stops the coach for a count below 63 and MWAIT until an event; MWAIT with a reason at hand writes it one
cycle on and disarms; YIELD clears the wait counter and stops for min(c, 65535) cycles.
R136: MON through a valid handle that grants a read arms the monitor on the line of the offset, in place of any other; an
empty or poisoned handle loses it; an offset past the page traps as HOVERRUN. -/
def Obligations.StopsAndMonitors : Prop :=
  (
  (∀ (o : CWait) (s : State) (k : Nat), s.cur.coach = some k → s.active (s.coach k) o.g ≠ 0 →
    let n := (s.rdS (s.coach k) o.b).toNat
    (n < 63 → ∃ d, exec (.wait o) s = .next (s.putCoach k d) ∧ sameRegisters (s.coach k) d ∧ d.flags = (s.coach k).flags ∧
      d.stop = .wait o.f n ∧ d.more = (s.coach k).stops) ∧
    (63 ≤ n → exec (.wait o) s = .next s)) ∧
  (∀ (o : CMwait) (s : State) (k : Nat), s.cur.coach = some k → s.active (s.coach k) o.g ≠ 0 →
    let c := s.coach k
    let t := (s.rdS c o.a).toNat
    let ended (r : Nat) : Prop := ∃ (u : State) (d : Coach), exec (.mwait o) s = .next (u.putCoach k d) ∧ d.mon = .none ∧
      d.stop = c.stop ∧ u.coach = s.coach ∧ (∀ m ∈ u.monitors, m.2 ≠ k) ∧
      underWay d (s.cur.cycle + 1) s.cur.seq (scalarWrite c o.d (BitVec.ofNat 64 r))
    (c.mon = .none → ended 3) ∧ (c.mon = .lost → ended 2) ∧ (∀ x h, c.mon = .armed x h true → ended 0) ∧
      ∀ x h, c.mon = .armed x h false → ∃ d lat, exec (.mwait o) s = .next (s.putCoach k d) ∧ d.mon = c.mon ∧
        d.stop = .mwait (if t = 0 then none else some (s.tick + t)) (renamed c o.d) lat s.cur.seq ∧ d.more = c.stops) ∧
  ∀ (o : CSrc) (s : State) (k : Nat), s.cur.coach = some k → s.active (s.coach k) o.g ≠ 0 →
    let n := min (s.rdS (s.coach k) o.a).toNat 65535
    (n = 0 → exec (.yield o) s = .next (s.putCoach k { s.coach k with waitCtr := 0 })) ∧
    (n ≠ 0 → exec (.yield o) s = .next (s.putCoach k { s.coach k with
      waitCtr := 0, stop := .yield (s.cur.cycle + 1 + n), more := (s.coach k).stops }))) ∧
  (
  ∀ (o : CMon) (s : State) (k : Nat), s.cur.coach = some k → s.active (s.coach k) o.g ≠ 0 → tablesOk s = true →
    let c := s.coach k
    let h := s.readH c o.h
    let e := (s.rdS c o.b).toNat
    (h.st = .valid → e < pageBytes h.size → h.lo.toNat ≤ e → e < h.hi.toNat → s.keyOk c h = true → h.rights.getLsbD 0 = true →
      ∃ t : State, exec (.mon o) s = .next t ∧ (t.coach k).mon = .armed ((s.handlePlace h e).key / 128) o.h false ∧
        (t.coach k).monPage = (h.vbase.toNat, pageBytes h.size) ∧
        (t.monitors.filter fun m => m.2 == k).length = 1) ∧
    (h.st = .empty ∨ h.st = .poisoned → ∃ t : State, exec (.mon o) s = .next t ∧ (t.coach k).mon = .lost ∧
      ∀ m ∈ t.monitors, m.2 ≠ k) ∧
    (h.st = .valid ∨ h.st = .absent → pageBytes h.size ≤ e →
      exec (.mon o) s = .next (s.trapNow k 6 (mkTrap 0x09 3 (BitVec.ofNat 64 (electedLane c.width (s.active c o.g) + 256 * e))))))

/-! Traps, system registers, debug. -/

/-- R145, R143, R144, R147: a trap outside a handler with a vector saves the bundle's address, the cause, the information and
the pending transfer, keeps the results that have not landed as shadow records with their remaining counts, and goes on at
TVEC in the next cycle; results due by then have landed. Errors in the registers that are written whole are gone (R357). -/
def Obligations.TrapEntrySavesState : Prop :=
  ∀ (s : State) (k step : Nat) (t : Trap),
    let c := s.coach k
    c.intrap = false → c.tvec ≠ 0 → t.code ≠ 0x02 →
    (∀ f ∈ c.inflight, ∀ v, f.w ≠ .sys 1 v) →
    ∃ d, s.trapNow k step t = ((s.healSys k [2, 3, 4, 6]).putCoach k d).setCur (fun u => { u with status := .trapped step }) ∧
      d.intrap = true ∧ d.trappc = s.cur.pc ∧ d.pc = c.tvec ∧ d.next = s.cur.cycle + 1 ∧
      d.tcause.toNat = (t.code + 256 * (if t.imp then 1 else 0) + 512 * t.slot + 2048 * (if t.hdr then 1 else 0)) % 2 ^ 64 ∧
      d.tinfo = t.info ∧ d.pend = none ∧ (c.pend = none → d.tnext = 0) ∧
      (∀ a, c.pend = some (.target a) → d.tnext = 0x8000000000000000 ||| a) ∧ d.live = c.live ∧ d.stack = c.stack ∧
      (∀ f ∈ d.trapset, f.fe = none ∧ ∃ g ∈ c.inflight, s.cur.cycle < g.due ∧ f.due = min (g.due - s.cur.cycle) 15 ∧ f.w = g.w) ∧
      (d.trapset.length = (c.inflight.filter fun f => f.fe.isNone && !f.w.isSys && decide (s.cur.cycle < f.due)).length) ∧
      (∀ f ∈ d.inflight, f ∈ c.inflight ∧ f.fe ≠ none) ∧ d.lat = Latches.blank

/-- R147: a trap inside a handler, or with TVEC 0 and no emulation routine, ends the party: its coaches issue nothing more and
the launch counts a fault record. -/
def Obligations.TrapWithoutHandlerEndsParty : Prop :=
  ∀ (s : State) (k step : Nat) (t : Trap),
    let c := s.coach k
    let p := s.party c.party
    (c.intrap = true ∨ c.tvec = 0 ∧ t.code ≠ 0x02) → p.launch ≠ 0 → p.st ≠ .ended → tablesOk s = true →
    let u := s.trapNow k step t
    (u.party c.party).st = .ended ∧ (u.party c.party).faulted = true ∧
      (u.launch p.launch).faults = (s.launch p.launch).faults + 1 ∧
      (u.launch p.launch).ended = (s.launch p.launch).ended + 1

/-- R152, R149: RETT in a handler leaves it: the pc is TRAPPC, a pending transfer is restored where TNEXT is valid, each record
of the trap set lands its remaining count after the restart, and the latches of the interrupted program return; outside a
handler it traps as ILLEGAL. -/
def Obligations.ReturnFromTrap : Prop :=
  ∀ (s : State) (k : Nat), s.cur.coach = some k → (s.coach k).path ≠ 0 →
    let c := s.coach k
    let u := s.cur.cycle + s.cur.gap + 1
    (c.intrap = true → ∃ d, exec .rett s =
        .next ((s.putCoach k d).setCur fun x => { x with npc := some c.trappc, pend := d.pend }) ∧
      d.intrap = false ∧ d.pc = c.trappc ∧ d.trapset = [] ∧ d.lat = c.tlat ∧
      (∀ f ∈ c.trapset, ∃ g ∈ d.inflight, g.due = u + f.due ∧ g.w = f.w) ∧
      (c.tnext.getLsbD 63 = false → d.pend = none) ∧
      (c.tnext.getLsbD 63 = true → c.tpend = none → d.pend = some (.target (c.tnext &&& 0x01FFFFFFFFFFFFFF)))) ∧
    (c.intrap = false → exec .rett s = .next (s.trapNow k 6 (mkTrap 0x01 3 (BitVec.ofNat 64 (256 * 0x39)))))

/-- R153: SYSRD of a register by its number gives the value that the coach holds; SYSWR of a value that keeps its rules is under
way, seen one cycle on; DTBASE and DTLEN are written only with privilege, and a number that is not assigned traps.
R374: STATQ reads double k of the oldest record of its ASID, or 0, counted on its flag and landing within 8 cycles; .POP
removes that record alone. -/
def Obligations.SystemRegistersAndStatistics : Prop :=
  (
  (∀ (g : Guard) (dst : SDst) (s : State) (k : Nat), s.cur.coach = some k → s.active (s.coach k) g ≠ 0 →
    let c := s.coach k
    ∀ e ∈ [(0x01, c.tvec), (0x02, c.tcause), (0x03, c.tinfo), (0x04, c.trappc), (0x06, c.tnext), (0x07, c.dtbase),
        (0x08, c.dtlen), (0x09, c.lcnt), (0x0A, c.ecnt), (0x0B, c.lbody), (0x0C, c.rotb),
        (0x0D, BitVec.ofNat 64 c.trapset.length), (0x0E, c.tshsel), (0x10, s.coachId k)],
      ∃ d, exec (.sysrd ⟨g, dst, BitVec.ofNat 32 e.1⟩) s = .next (s.putCoach k d) ∧ onlyResults c d ∧ keepsResults c d ∧
        underWay d (s.cur.cycle + 1) s.cur.seq (scalarWrite c dst e.2)) ∧
  (∀ (g : Guard) (n : Nat) (b : SSrc) (s : State) (k : Nat), s.cur.coach = some k → s.active (s.coach k) g ≠ 0 →
    let c := s.coach k
    1 ≤ n → n ≤ 0x0E → n ≠ 0x05 → n ≠ 0x0D → sysValueOk n (s.rdS c b) = true → (n = 7 ∨ n = 8 → c.priv = true) →
      ∃ d, exec (.syswr ⟨g, BitVec.ofNat 32 n, b⟩) s = .next (s.putCoach k d) ∧ onlyResults c d ∧ keepsResults c d ∧
        underWay d (s.cur.cycle + 1) s.cur.seq (.sys n (s.rdS c b))) ∧
  (∀ (g : Guard) (b : SSrc) (s : State) (k : Nat), s.cur.coach = some k → s.active (s.coach k) g ≠ 0 →
    let c := s.coach k
    sysValueOk 0 (s.rdS c b) = true →
      ∃ d, exec (.syswr ⟨g, 0, b⟩) s = .next (s.putCoach k d) ∧ sameRegisters c d ∧ d.flags = c.flags ∧ d.lat = c.lat ∧
        underWay d (s.cur.cycle + 1) s.cur.seq (.sys 0 (s.rdS c b))) ∧
  (∀ (g : Guard) (n : Nat) (b : SSrc) (s : State) (k : Nat), s.cur.coach = some k → s.active (s.coach k) g ≠ 0 →
    (n = 7 ∨ n = 8) → (s.coach k).priv = false →
      exec (.syswr ⟨g, BitVec.ofNat 32 n, b⟩) s = .next (s.trapNow k 6 (mkTrap 0x13 3 3))) ∧
  ∀ (g : Guard) (n : Word) (s : State) (k : Nat), s.cur.coach = some k → s.active (s.coach k) g ≠ 0 → 0x10 < n.toNat →
    n.toNat < 2 ^ 32 →
    ∀ dst b, exec (.sysrd ⟨g, dst, n⟩) s = .next (s.trapNow k 6 (mkTrap 0x01 3 (BitVec.ofNat 64 (3 + 256 * n.toNat)))) ∧
      exec (.syswr ⟨g, n, b⟩) s = .next (s.trapNow k 6 (mkTrap 0x01 3 (BitVec.ofNat 64 (3 + 256 * n.toNat))))) ∧
  (
  ∀ (o : CStatq) (s : State) (k : Nat), s.cur.coach = some k → s.active (s.coach k) o.g ≠ 0 → tablesOk s = true →
    let c := s.coach k
    let mine (r : Rec) : Bool := r.d0.toNat / 65536 % 65536 == c.asid.toNat
    let q := (s.core (coreOf k)).statq
    let v : Dbl := match q.find? mine with | some r => r.dbl o.k | none => 0
    ∃ (t : State) (d : Coach), exec (.statq o) s = .next (t.putCoach k d) ∧ onlyPending c d ∧
      (∃ x ∈ d.inflight, x.early = s.cur.cycle + 1 ∧ x.due = s.cur.cycle + 8 ∧ x.fe ≠ none ∧
        x.w = (if o.d = 0 then .latC v else .scl (c.renS o.d) v)) ∧
      d.count o.f = c.count o.f + 1 ∧
      (t.core (coreOf k)).statq = (if o.pop then q.eraseP mine else q) ∧
      ∀ j, j ≠ coreOf k → t.core j = s.core j)

/-- R151, R368, R370: TRAP marks its operand for the freeze after its bundle; BRK traps at its own bundle with its code; BRK.STEP
sets the step count.
R369, R371: BRK.BSET and BRK.WSET write a comparator of the wing for the coach's ASID when the job may debug and the
comparator is free, its own, or the coach privileged; without the permission they trap as PRIV. -/
def Obligations.TrapBreakAndComparators : Prop :=
  (
  ∀ (o : CSrc) (s : State) (k : Nat), s.cur.coach = some k → s.active (s.coach k) o.g ≠ 0 →
    let c := s.coach k
    let a := s.rdS c o.a
    exec (.trap o) s = .next (s.putCoach k { c with soft := some a }) ∧
      exec (.brk o) s = .next (s.trapNow k 6 (mkTrap 0x0F 3 (BitVec.ofNat 64 (256 * (a.toNat % 2 ^ 56))))) ∧
      exec (.brkStep o) s = .next (s.putCoach k { c with steps := min a.toNat 65535, stepDue := false })) ∧
  (
  ∀ (o : CSrc2) (s : State) (k : Nat), s.cur.coach = some k → s.active (s.coach k) o.g ≠ 0 → tablesOk s = true →
    let c := s.coach k
    let a := s.rdS c o.a
    let b := s.rdS c o.b
    let w := s.wing (wingOf k)
    let may (used : Bool) (asid : BitVec 16) : Prop :=
      (s.job c.asid.toNat).dbgen = true ∧ (used = false ∨ asid = c.asid ∨ c.priv = true)
    let bp := sget Bp.off w.bps b.toNat
    let wt := sget Watch.off w.watches (b.toNat % 4)
    (a.toNat % 4 = 0 → a.toNat < 2 ^ 57 → b.toNat < 4 → srising 0 w.bps = true →
      (may bp.on bp.asid → ∃ t : State, exec (.brkBset o) s = .next t ∧
        sget Bp.off (t.wing (wingOf k)).bps b.toNat =
          (if a = 0 then Bp.off else { on := true, addr := a, asid := c.asid }) ∧
        ∀ j, j ≠ b.toNat → sget Bp.off (t.wing (wingOf k)).bps j = sget Bp.off w.bps j) ∧
      ((s.job c.asid.toNat).dbgen = false → exec (.brkBset o) s = .next (s.trapNow k 6 (mkTrap 0x13 3 3)))) ∧
    (a.toNat < (if b.getLsbD 4 then 2 ^ 20 else 2 ^ 57) → b.toNat / 32 % 2 ^ 27 = 0 → b.toNat / 4 % 4 ≠ 0 → b.toNat / 2 ^ 32 ≠ 0 →
      srising 0 w.watches = true → may (wt.kind != 0) wt.asid →
      ∃ t : State, exec (.brkWset o) s = .next t ∧
        sget Watch.off (t.wing (wingOf k)).watches (b.toNat % 4) =
          { kind := BitVec.ofNat 2 (b.toNat / 4), space := b.getLsbD 4, start := a, len := BitVec.ofNat 32 (b.toNat / 2 ^ 32),
            asid := c.asid }))

/-! The M slot. -/

/-- R195, R196: XLATE with an address below 2^57 and a mask below 16 puts the cached image, with the masked rights, under way
for 12 cycles, or starts a walk and leaves a pending image; a bit of mask [63:4] traps as ILLEGAL, and an address of 2^57 or
more as PROT. HREL empties the handle after one cycle and loses a monitor armed through it.
R197: PREQ through a valid handle with the right is counted at once; through a valid handle that lacks it, or an absent
one, it is outstanding on its flag with a page request of the next tag, which awaits room in the queue or the host. -/
def Obligations.TranslateReleaseAndRequest : Prop :=
  (
  (∀ (o : MXlate) (s : State) (k : Nat), s.cur.coach = some k → s.active (s.coach k) o.g ≠ 0 →
    let c := s.coach k
    let va := (s.rdS c o.a).toNat
    let m := s.rdS c o.b
    (va < 2 ^ 57 → m.toNat < 16 → ∀ h, s.cached? (coreOf k) c.asid va = some h →
      ∃ d, exec (.xlate o) s = .next (s.putCoach k d) ∧ onlyResults c d ∧ keepsResults c d ∧
        underWay d (s.cur.cycle + 12) s.cur.seq
          (.hnd o.hd { h with rights := h.rights &&& m.setWidth 4, walk := va, mask := m.setWidth 4 })) ∧
    (va < 2 ^ 57 → m.toNat < 16 → s.cached? (coreOf k) c.asid va = none →
      ∃ (d : Coach) (w : Walk) (h : Handle),
        exec (.xlate o) s = .next ({ s with walks := s.walks ++ [w], nextId := s.nextId + 1 }.putCoach k d) ∧
        onlyResults c d ∧ keepsResults c d ∧ w.id = s.nextId ∧ w.coach = k ∧ w.h = o.hd ∧ w.va.toNat = va ∧
        w.mask = m.setWidth 4 ∧ w.asid = c.asid ∧ h.st = .pending ∧ h.walk = w.id ∧
        underWay d (s.cur.cycle + 12) s.cur.seq (.hnd o.hd h)) ∧
    (16 ≤ m.toNat → exec (.xlate o) s = .next (s.trapNow k 6 (mkTrap 0x01 1 (BitVec.ofNat 64 (4 + 256 * m.toNat))))) ∧
    (m.toNat < 16 → 2 ^ 57 ≤ va → exec (.xlate o) s = .next (s.trapNow k 6 (protTrap 1 o.hd 0x40)))) ∧
  ∀ (o : MHrel) (s : State) (k : Nat), s.cur.coach = some k → s.active (s.coach k) o.g ≠ 0 →
    let c := s.coach k
    ∃ (t : State) (d : Coach), exec (.hrel o) s = .next (t.putCoach k d) ∧ sameRegisters c d ∧ keepsResults c d ∧
      underWay d (s.cur.cycle + 1) s.cur.seq (.hnd o.hd Handle.blank) ∧
      ((∃ e w, c.mon = .armed e o.hd w) → d.mon = .lost ∧ ∀ m ∈ t.monitors, m.2 ≠ k) ∧
      ((∀ e w, c.mon ≠ .armed e o.hd w) → t = s ∧ onlyResults c d)) ∧
  (
  ∀ (o : MPreq) (s : State) (k : Nat), s.cur.coach = some k → s.active (s.coach k) o.g ≠ 0 →
    let c := s.coach k
    let h := s.readH c o.ha
    (h.st = .valid → (o.w = true → h.rights.getLsbD 1 = true) →
      ∃ d, exec (.preq o) s = .next (s.putCoach k d) ∧ onlyPending c d ∧ d.inflight = c.inflight ∧
        d.count o.f = c.count o.f + 1 ∧ ∃ e, d.flags = c.flags ++ [e] ∧ e.f = o.f ∧ e.fin = true ∧ e.ws = []) ∧
    (h.st = .absent ∨ h.st = .valid ∧ o.w = true ∧ h.rights.getLsbD 1 = false →
      ∃ (d : Coach) (x : Op) (r : PageReq),
        exec (.preq o) s = .next ({ issued s k d x with
          pageReqs := s.pageReqs ++ [r], nextTag := (r.tag + 1) % 65536 }.postHeld) ∧ opensFlag c d o.f ∧
        x.coach = k ∧ r.op = x.id ∧ x.kind = .preq r.tag r.host o.w ∧ r.va = h.vbase.toNat ∧ r.wr = o.w ∧ r.asid = c.asid ∧
        r.host = !h.vbase.getLsbD 56 ∧
        ((∀ y ∈ s.pageReqs, y.tag ≠ s.nextTag % 65536) → r.tag = s.nextTag % 65536)) ∧
    (h.st = .pending → exec (.preq o) s = hold s k) ∧
    (h.st = .empty → exec (.preq o) s = .next (s.trapNow k 6 (mkTrap 0x0D 1 (BitVec.ofNat 64 o.ha)))) ∧
    (h.st = .poisoned → exec (.preq o) s = .next (s.trapNow k 6 (mkTrap 0x0B 1 (BitVec.ofNat 64 o.ha)))))

/-- R216, R218: a load whose lanes each read through a handle that grants it, or an absent one, is outstanding on its flag
with the units of every active lane; a lane of an absent handle is done with zeros, and is what .RP reports. -/
def Obligations.LoadsIssueTheirUnits : Prop :=
  let issues (s : State) (k : Nat) (g : Guard) (i : Instr) (n size f : Nat) (rp : Bool) (pol : Policy) (acq : Bool) (dst : VDst)
      (h off : Nat → Nat) : Prop :=
    let c := s.coach k
    let m := s.active c g
    m ≠ 0 → unwatched s k c →
    (∀ l, l < c.width → m.getLsbD l = true → grants s c (s.readH c (h l)) 1#4 (off l) size ∨
      (s.readH c (h l)).st = .absent ∧ off l + size ≤ pageBytes (s.readH c (h l)).size) →
    ∃ (d : Coach) (x : Op) (absent : Lanes), exec i s = .next (issued s k d x) ∧ opensFlag c d f ∧ x.coach = k ∧ x.lanes = m ∧
      x.pol = pol ∧ x.kind = .load (destRegs c n dst) size (if rp then some f else none) absent acq ∧
      covers x c.width m size off (fun l o => s.handlePlace (s.readH c (h l)) o) ∧
      (∀ q ∈ x.parts, q.st = (if (s.readH c (h q.lane)).st = .valid then .todo else .fin) ∧
        ((s.readH c (h q.lane)).st = .absent → q.got = List.replicate q.len 0)) ∧
      ∀ l, l < c.width → l < 64 → (absent.getLsbD l = true ↔ m.getLsbD l = true ∧ (s.readH c (h l)).st = .absent)
  (∀ e ∈ loadTable, ∀ (o : MLoad) (s : State) (k : Nat), s.cur.coach = some k →
    issues s k o.g (e.1 o) e.2.1 e.2.2.1 o.f o.rp o.pol e.2.2.2 o.d (fun _ => o.h) fun l =>
      (s.rdOff (s.coach k) l o.a).toNat) ∧
  ∀ (o : MGath) (s : State) (k : Nat), s.cur.coach = some k →
    issues s k o.g (.gathW o) 1 4 o.f o.rp o.pol false o.d (fun l => (s.rdOff (s.coach k) l o.a).toNat / 2 ^ 28) fun l =>
      (s.rdOff (s.coach k) l o.a).toNat % 2 ^ 28

/-- R219, R221, R240: a store through a handle that grants it is outstanding on its flag with the units of every active lane,
whose bytes are those of the source registers; STL.W commits its party's held stores first. -/
def Obligations.StoresIssueTheirBytes : Prop :=
  ∀ e ∈ storeTable, ∀ (o : MStore) (s : State) (k : Nat), s.cur.coach = some k →
    let c := s.coach k
    let m := s.active c o.g
    let h := s.readH c o.h
    let off (l : Nat) : Nat := (s.rdOff c l o.a).toNat
    m ≠ 0 → unwatched s k c → h.st = .valid → h.wb = false → s.holdsHard c.party = false →
    (∀ l, l < c.width → m.getLsbD l = true → grants s c h 2#4 (off l) e.2.1) →
    ∃ (u : State) (d : Coach) (x : Op), exec (e.1 o) s = .next (issued u k d x) ∧
      (u = s ∨ u = s.commitHard c.party) ∧ (e.2.2 = true → u = s.commitHard c.party) ∧ opensFlag c d o.f ∧ x.coach = k ∧
      x.lanes = m ∧ x.pol = o.pol ∧ x.kind = .store e.2.1 e.2.2 ∧
      covers x c.width m e.2.1 off (fun _ a => s.handlePlace h a) ∧
      ∀ q ∈ x.parts, q.st = .todo ∧ q.data.length = q.len ∧
        ∀ j, j < q.len → q.data[j]? = some (sourceByte s c o.b q.lane (q.pos + j))

/-- R222, R223: an atomic through a handle that grants it commits its party, and is outstanding on its flag with a lane for each
active lane: the word at its offset, aligned down, its operand and its comparand; one that the host cannot be asked for raises PROT.
R222: the new word of each atomic, from the word in memory, the operand and the comparand. -/
def Obligations.AtomicsIssueAndOperate : Prop :=
  (
  ∀ (i : Instr) (opc : Nat) (g : Guard) (r : Nat) (a cmp : VSrc) (hn f : Nat),
    ((∃ e ∈ atomTable, ∃ o : MAtom, i = e.1 o ∧ opc = e.2 ∧ g = o.g ∧ r = o.d ∧ a = o.a ∧ cmp = .const 0 ∧ hn = o.h ∧ f = o.f) ∨
      ∃ o : MCas, i = .acas o ∧ opc = 0x37 ∧ g = o.g ∧ r = o.d ∧ a = o.a ∧ cmp = o.c ∧ hn = o.h ∧ f = o.f) →
    ∀ (s : State) (k : Nat), s.cur.coach = some k →
    let c := s.coach k
    let m := s.active c g
    let h := s.readH c hn
    let off (l : Nat) : Nat := (s.rdOff c l a).toNat / 4 * 4
    let host (l : Nat) : Prop := l < c.width ∧ m.getLsbD l = true ∧ ∃ ha, s.handlePlace h (off l) = .host ha
    let carried : Prop := (opc = 0x30 ∨ opc = 0x36 ∨ opc = 0x37) ∧ (sget BarFn.blank s.bars 0).atomicOp = true
    m ≠ 0 → h.st = .valid → (∀ l, l < c.width → m.getLsbD l = true → grants s c h 0xA#4 (off l) 4) →
    ((∀ l, host l → carried) → unwatched s k c → h.wb = false → s.holdsHard c.party = false →
      ∃ (d : Coach) (x : Op), exec i s = .next (issued (s.commitHard c.party) k d x) ∧ opensFlag c d f ∧ x.coach = k ∧
        x.lanes = m ∧ x.kind = .atomic opc (c.renV r) ∧
        (∀ q ∈ x.parts, q.st = .todo ∧ q.place ≠ .nowhere) ∧
        ∀ l, l < c.width → m.getLsbD l = true → ∃ q ∈ x.parts, ∃ y ∈ q.ats, y.lane = l ∧ y.place = s.handlePlace h (off l) ∧
          y.v = s.readV c (c.renV r) l ∧ y.c = s.rdOff c l cmp) ∧
    ((∃ l, host l) → ¬ carried → exec i s = .next (s.trapNow k 6 (protTrap 1 hn 8)))) ∧
  (
  ∀ m v c : Word,
    (atomOp 0x30 m v c).toNat = (m.toNat + v.toNat) % 2 ^ 32 ∧
      (∀ md : FpMode, md.rm = .near → md.daz = false → md.ftz = false →
        atomOp 0x31 m v c = BitVec.ofNat 32 (faddLane f32 md m.toNat v.toNat).1) ∧
      (atomOp 0x32 m v c).toInt = min m.toInt v.toInt ∧ (atomOp 0x33 m v c).toInt = max m.toInt v.toInt ∧
      (∀ i, (atomOp 0x34 m v c).getLsbD i = (m.getLsbD i && v.getLsbD i)) ∧
      (∀ i, (atomOp 0x35 m v c).getLsbD i = (m.getLsbD i || v.getLsbD i)) ∧ atomOp 0x36 m v c = v ∧
      (m = c → atomOp 0x37 m v c = v) ∧ (m ≠ c → atomOp 0x37 m v c = m))

/-- R198: what a load or store through one handle meets, in order: a pending handle holds the bundle; an empty one raises
HINVALID, a poisoned one POISON; the lowest lane that leaves the page or the window raises HOVERRUN; a foreign key, then a
missing right, raises PROT; for a store an absent handle raises ABSENT, and WB holds the bundle. -/
def Obligations.HandleChecksInOrder : Prop :=
  ∀ (i : Instr) (g : Guard) (a : VSrc) (n size : Nat) (st : Bool),
    ((∃ e ∈ loadTable, ∃ o : MLoad, i = e.1 o ∧ g = o.g ∧ a = o.a ∧ n = o.h ∧ size = e.2.2.1 ∧ st = false) ∨
      ∃ e ∈ storeTable, ∃ o : MStore, i = e.1 o ∧ g = o.g ∧ a = o.a ∧ n = o.h ∧ size = e.2.1 ∧ st = true) →
    ∀ (s : State) (k l0 : Nat), s.cur.coach = some k →
    let c := s.coach k
    let m := s.active c g
    let h := s.readH c n
    let off (l : Nat) : Nat := (s.rdOff c l a).toNat
    let act (l : Nat) : Prop := l < c.width ∧ m.getLsbD l = true
    let inside (l : Nat) : Prop :=
      off l + size ≤ pageBytes h.size ∧ (h.st = .valid → h.lo.toNat ≤ off l ∧ off l + size ≤ h.hi.toNat)
    let need : BitVec 4 := if st then 2 else 1
    act l0 →
    (h.st = .pending → exec i s = hold s k) ∧
    (h.st = .empty → exec i s = .next (s.trapNow k 6 (mkTrap 0x0D 1 (BitVec.ofNat 64 n)))) ∧
    (h.st = .poisoned → exec i s = .next (s.trapNow k 6 (mkTrap 0x0B 1 (BitVec.ofNat 64 n)))) ∧
    (h.st = .valid ∨ h.st = .absent → ¬ inside l0 → (∀ l, l < l0 → act l → inside l) →
      exec i s = .next (s.trapNow k 6 (mkTrap 0x09 1 (BitVec.ofNat 64 (l0 + 256 * off l0))))) ∧
    (h.st = .valid → (∀ l, act l → inside l) → s.keyOk c h = false →
      exec i s = .next (s.trapNow k 6 (protTrap 1 n 0x80))) ∧
    (h.st = .valid → (∀ l, act l → inside l) → s.keyOk c h = true → need &&& ~~~h.rights ≠ 0 →
      exec i s = .next (s.trapNow k 6 (protTrap 1 n need.toNat))) ∧
    (st = true → h.st = .absent → (∀ l, act l → inside l) → unwatched s k c →
      exec i s = .next (s.trapNow k 6 (mkTrap 0x0A 1 (BitVec.ofNat 64 n)))) ∧
    (st = true → h.st = .valid → (∀ l, act l → inside l) → s.keyOk c h = true → h.rights.getLsbD 1 = true → unwatched s k c →
      h.wb = true → exec i s = hold s k)

/-- R225, R226: a scratchpad access of a convoy member, or of the own party, is outstanding on its flag with the units of the
lanes inside the allocation, relative to its base; a load's other lanes read zero, and the first touch is recorded. -/
def Obligations.ScratchpadAccesses : Prop :=
  (∀ (i : Instr) (g : Guard) (dst : VDst) (a : VSrc) (n size K f : Nat) (s : State) (k : Nat), s.cur.coach = some k →
    ((∃ o : MSpLoad, (i = .ldsW o ∧ n = 1 ∧ size = 4 ∨ i = .ldsQ o ∧ n = 4 ∧ size = 16) ∧ g = o.g ∧ dst = o.d ∧ a = o.a ∧
        f = o.f ∧ K = (s.party (s.coach k).party).k) ∨
      ∃ o : MCvLoad, i = .ldcW o ∧ n = 1 ∧ size = 4 ∧ g = o.g ∧ dst = o.d ∧ a = o.a ∧ f = o.f ∧ K = o.k) →
    let c := s.coach k
    let m := s.active c g
    let off (l : Nat) : Int := (s.rdOff c l a).toInt
    ∀ core base len, m ≠ 0 → s.spTarget c K = some (core, base, len) → unwatched s k c →
    let inside (l : Nat) : Prop := 0 ≤ off l ∧ off l + size ≤ len
    ∃ (d : Coach) (x : Op), exec i s = .next (issued s k d x) ∧ sameRegisters c d ∧ d.count f = c.count f + 1 ∧ x.coach = k ∧
      x.lanes = m ∧ x.kind = .load (destRegs c n dst) size none 0 false ∧
      (∀ q ∈ x.parts, inside q.lane → q.st = .todo ∧ q.place = .sram core (base + (off q.lane).toNat + q.pos)) ∧
      (∀ q ∈ x.parts, ¬ inside q.lane → q.st = .fin ∧ q.got = List.replicate size 0) ∧
      (∀ l, l < c.width → m.getLsbD l = true → ∀ j, j < size → ∃ q ∈ x.parts, q.lane = l ∧ q.pos ≤ j ∧ j < q.pos + q.len) ∧
      ((∀ l, l < c.width → m.getLsbD l = true → inside l) → d.spguard = c.spguard) ∧
      (c.spguard = none → (∃ l, l < c.width ∧ m.getLsbD l = true ∧ ¬ inside l) → d.spguard ≠ none)) ∧
  ∀ (i : Instr) (g : Guard) (a b : VSrc) (size K f : Nat) (s : State) (k : Nat), s.cur.coach = some k →
    ((∃ o : MSpStore, (i = .stsW o ∧ size = 4 ∨ i = .stsQ o ∧ size = 16) ∧ g = o.g ∧ a = o.a ∧ b = o.b ∧ f = o.f ∧
        K = (s.party (s.coach k).party).k) ∨
      ∃ o : MCvStore, i = .stcW o ∧ size = 4 ∧ g = o.g ∧ a = o.a ∧ b = o.b ∧ f = o.f ∧ K = o.k) →
    let c := s.coach k
    let m := s.active c g
    let off (l : Nat) : Int := (s.rdOff c l a).toInt
    ∀ core base len, m ≠ 0 → s.spTarget c K = some (core, base, len) → unwatched s k c →
    let inside (l : Nat) : Prop := 0 ≤ off l ∧ off l + size ≤ len
    ∃ (d : Coach) (x : Op), exec i s = .next (issued s k d x) ∧ sameRegisters c d ∧ d.count f = c.count f + 1 ∧ x.coach = k ∧
      x.lanes = m ∧ x.kind = .store size false ∧
      (∀ q ∈ x.parts, q.st = .todo ∧ inside q.lane ∧ q.place = .sram core (base + (off q.lane).toNat + q.pos) ∧
        ∀ j, j < q.len → q.data[j]? = some (sourceByte s c b q.lane (q.pos + j))) ∧
      ∀ l, l < c.width → m.getLsbD l = true → inside l → ∀ j, j < size →
        ∃ q ∈ x.parts, q.lane = l ∧ q.pos ≤ j ∧ j < q.pos + q.len

/-- R238, R240, R241: a fence is outstanding on its flag; FENCE.REL and FENCE.FULL commit the party's held stores first.
R256: SSTEP at a level of the kernel at or inside SLEV that is the coach's first at the party's pending superstep is
outstanding on its flag until the superstep completes; another index traps as ILLEGAL. -/
def Obligations.FencesAndSupersteps : Prop :=
  (
  ∀ e ∈ [(Instr.fenceAcq, 1), (Instr.fenceRel, 2), (Instr.fenceFull, 3)], ∀ (o : MFence) (s : State) (k : Nat),
    s.cur.coach = some k → s.active (s.coach k) o.g ≠ 0 → (e.2 ≠ 1 → s.holdsHard (s.coach k).party = false) →
    ∃ (d : Coach) (x : Op), exec (e.1 o) s = .next (issued (if e.2 = 1 then s else s.commitHard (s.coach k).party) k d x) ∧
      opensFlag (s.coach k) d o.f ∧ d.inflight = (s.coach k).inflight ∧ x.coach = k ∧ x.kind = .fence e.2 ∧ x.parts = []) ∧
  (
  ∀ (o : MSstep) (s : State) (k : Nat), s.cur.coach = some k → s.active (s.coach k) o.g ≠ 0 →
    let c := s.coach k
    let x := s.party c.party
    let kn := (s.launch x.launch).kernel
    let n := (s.rdS c o.a).toNat
    (((kn.levels[n]? = some .d ∨ kn.levels[n]? = some .c) ∧ kn.slev ≤ n) → x.skip = 0 →
      (∀ t, x.sstep = some t → t.level = n ∧ ∀ j ∈ t.coaches, j ≠ k) →
      ∃ (d : Coach) (y : Op) (z : SstepState),
        exec (.sstep o) s = .next ((issued (s.putParty c.party { x with sstep := some z }) k d y).tryArrive c.party) ∧
        opensFlag c d o.f ∧ z.level = n ∧ (∀ j, j ∈ z.coaches ↔ j = k ∨ ∃ t, x.sstep = some t ∧ j ∈ t.coaches) ∧
        y.coach = k ∧ y.party = c.party ∧ y.kind = .sstep n) ∧
    (¬ ((kn.levels[n]? = some .d ∨ kn.levels[n]? = some .c) ∧ kn.slev ≤ n) →
      exec (.sstep o) s = .next (s.trapNow k 6 (mkTrap 0x01 1 (BitVec.ofNat 64 (3 + 256 * n))))))

/-- R247 to R253: the barrier unit. BARINIT arms; an arrival lowers ARRIVALS, or strays with code 2, or 4 when unarmed; a
BEXPECT raises PENDING, or strays with code 3 or 4; a phase opens when both gauges are zero, and flips.
R250 to R253: barrier syllables on an object inside the allocation: BARINIT of a count 1 to 32767, BEXPECT and ARRIVE are
outstanding on their flags; outside it, the touch is recorded. ARRIVEW, once its coach's earlier accesses are performed, is applied
at the unit. ARRIVEW and BWAIT of a stray object trap as BARSTRAY (ARRIVEW where no BARINIT of it is on its way, R395); of an ended phase they go on with an acquire, and of the
current phase they stop the coach. -/
def Obligations.BarrierUnitAndSyllables : Prop :=
  (
  ∀ b : Bar,
    (∀ n, b.init n = { b with armed := true, stray := false, fault := 0, expected := n, arrivals := n, pending := 0 }) ∧
    (∀ n, b.stray = false → b.armed = true → 0 < n → n ≤ b.arrivals →
      (b.arrive n).arrivals + n = b.arrivals ∧ b.arrive n = { b with arrivals := (b.arrive n).arrivals }) ∧
    (∀ n, b.stray = false → b.armed = true → (n = 0 ∨ b.arrivals < n) → b.arrive n = { b with stray := true, fault := 2 }) ∧
    (∀ n, b.stray = false → b.armed = false → b.arrive n = { b with stray := true, fault := 4 }) ∧
    (∀ n e u, b.stray = true → b.arrive n = b ∧ b.credit e u = b) ∧
    (∀ e u, b.stray = false → b.armed = true → -(2 ^ 55) ≤ b.pending + e → b.pending + e < 2 ^ 55 →
      b.credit e u = { b with pending := b.pending + e }) ∧
    (b.opens = true ↔ b.stray = false ∧ b.armed = true ∧ b.arrivals = 0 ∧ b.pending = 0) ∧
    b.flip = { b with phase := !b.phase, arrivals := b.expected } ∧
    (b.expected < 2 ^ 15 → b.arrivals < 2 ^ 15 → -(2 ^ 55) ≤ b.pending → b.pending < 2 ^ 55 → b.fault < 2 ^ 8 →
      b.bytes.length = 16 ∧ Bar.decode (leNat (b.bytes.take 8)) (leNat (b.bytes.drop 8)) = b)) ∧
  (
  (∀ (o : MBar) (s : State) (k : Nat), s.cur.coach = some k → s.active (s.coach k) o.g ≠ 0 →
    let c := s.coach k
    let n := (s.rdS c o.a).toNat
    16 * o.k + 16 ≤ (s.party c.party).size →
    (1 ≤ n → n ≤ 32767 → ∃ (d : Coach) (x : Op), exec (.barinit o) s = .next (issued s k d x) ∧ opensFlag c d o.f ∧
      x.coach = k ∧ x.party = c.party ∧ x.kind = .barinit o.k n) ∧
    (n = 0 ∨ 32767 < n →
      exec (.barinit o) s = .next (s.trapNow k 6 (mkTrap 0x01 1 (BitVec.ofNat 64 (3 + 256 * n))))) ∧
    ∃ (d : Coach) (x : Op), exec (.bexpect o) s = .next (issued s k d x) ∧ opensFlag c d o.f ∧ x.coach = k ∧
      x.party = c.party ∧ x.kind = .bexpect o.k (s.rdS c o.a).toInt) ∧
  (∀ (o : MArrive) (s : State) (k : Nat), s.cur.coach = some k → s.active (s.coach k) o.g ≠ 0 →
    let c := s.coach k
    16 * o.k + 16 ≤ (s.party c.party).size →
    ∃ (d : Coach) (x : Op) (r : SDst), exec (.arrive o) s = .next (issued s k d x) ∧ opensFlag c d o.f ∧ x.coach = k ∧
      x.party = c.party ∧ x.kind = .arrive o.k (s.rdS c o.a) r ∧
      r = match o.d with | .reg n => .reg (c.renS n) | .latch => .latch) ∧
  (∀ (o : MBar) (s : State) (k : Nat), s.cur.coach = some k → s.active (s.coach k) o.g ≠ 0 →
    (s.party (s.coach k).party).size < 16 * o.k + 16 → ∀ i ∈ [Instr.barinit o, .bexpect o, .arrivew ⟨o.g, o.a, o.k⟩, .bwait ⟨o.g, o.a, o.k⟩],
      ∃ d, exec i s = .next (s.putCoach k d) ∧ d = { s.coach k with spguard := d.spguard } ∧ d.spguard ≠ none) ∧
  ∀ (o : MBarW) (s : State) (k : Nat), s.cur.coach = some k → s.active (s.coach k) o.g ≠ 0 →
    let c := s.coach k
    let x := s.party c.party
    let b := s.bar x.core (x.base + 16 * o.k)
    16 * o.k + 16 ≤ x.size →
    ((∀ q ∈ s.ops, q.coach = k → ∀ r ∈ q.parts, r.open = true → r.touches (barPart s c.party o.k) = false) →
      (b.stray = true → exec (.bwait o) s = .next (s.trapNow k 6 (mkTrap 0x12 1 (BitVec.ofNat 64 (16 * o.k))))) ∧
      (b.stray = false → b.phase ≠ (s.rdS c o.a).getLsbD 0 → exec (.bwait o) s = .next (s.selfInvalidate (coreOf k))) ∧
      (b.stray = false → b.phase = (s.rdS c o.a).getLsbD 0 →
        exec (.bwait o) s = .next (s.putCoach k { c with stop := .barrier o.k b.phase, more := c.stops }))) ∧
    (s.quiet k = true → tablesOk s = true → memoryOk s = true →
      let z := b.arrive (s.rdS c o.a).toNat
      let t := s.atUnit c.party o.k fun y => y.arrive (s.rdS c o.a).toNat
      t.bar x.core (x.base + 16 * o.k) = (if z.opens then z.flip else z) ∧
        (z.stray = true → (∀ q ∈ s.ops, q.party = c.party → ∀ n, q.kind ≠ .barinit o.k n) →
          exec (.arrivew o) s = .next (t.trapNow k 6 (mkTrap 0x12 1 (BitVec.ofNat 64 (16 * o.k))))) ∧
        (z.stray = false → z.opens = true → exec (.arrivew o) s = .next (t.selfInvalidate (coreOf k))) ∧
        (z.stray = false → z.opens = false →
          exec (.arrivew o) s =
            .next (t.putCoach k { t.coach k with stop := .barrier o.k b.phase, more := (t.coach k).stops }))))

/-! The X slot. -/

/-- R263: TDESC of a 64-byte record inside the allocation that keeps the descriptor's rules, through a handle that its bounds
fit, loads the slot with the record, the handle's number and the bounds.
R273, R274: SEAL closes batch NB and increments NB, and its number is written as SEAL is counted, after its bundle; CWAIT of a batch that has not completed stops the
coach, of one that has goes on, and of one that has not been sealed traps as ILLEGAL. -/
def Obligations.ShapesBatchesAndWaits : Prop :=
  (
  ∀ (o : XTdesc) (s : State) (k : Nat), s.cur.coach = some k → s.active (s.coach k) o.g ≠ 0 → courierRoom s k →
    let c := s.coach k
    let x := s.party c.party
    let off := (s.rdS c o.a).toNat
    let a := x.base + off
    let ds := (List.range 8).map fun i => BitVec.ofNat 64 (leNat (mgets (s.core x.core).sram (a + 8 * i) 8))
    let b := (Geo.read ds).bounds
    let h := s.readH c o.h
    (off % 64 ≠ 0 ∨ x.size < off + 64 → exec (.tdesc o) s = .next (s.trapNow k 6 (mkTrap 0x01 2 (BitVec.ofNat 64 (3 + 256 * 1))))) ∧
    (off % 64 = 0 → off + 64 ≤ x.size → (∀ q ∈ s.ops, q.coach ≠ k) → s.poison = [] → (Geo.read ds).check = 0 →
      (h.st = .valid ∧ s.keyOk c h = true ∧ h.lo.toNat ≤ b.1 ∧ b.2 ≤ h.hi.toNat ∨ h.st = .absent) →
      0 ≤ b.1 → b.2 ≤ pageBytes h.size →
      exec (.tdesc o) s = .next (s.putParty c.party { x with
        shapes := sset Shape.blank x.shapes o.k { valid := true, desc := ds, h := o.h, lo := b.1.toNat, hi := b.2.toNat } }))) ∧
  (
  (∀ (o : XSeal) (s : State) (k : Nat), s.cur.coach = some k → s.active (s.coach k) o.g ≠ 0 → courierRoom s k →
    let c := s.coach k
    ∃ (d : Coach) (m : Cmd) (e : FlagEntry), exec (.seal o) s = .next (accepted s k d m) ∧ m.kind = .seal ∧ m.coach = k ∧
      m.batch = c.nb ∧ m.len = 0 ∧ m.sps = [] ∧
      d = { c with nb := c.nb + 1, flags := c.flags ++ [e], fresh := d.fresh } ∧ e.f = o.f ∧ e.fin = true ∧
      e.ws = (if o.d = 0 then [] else [.scl (c.renS o.d) (c.nb.setWidth 64)]) ∧
      (tablesOk s = true → srising 0 c.s = true → o.f < 16 → c.flags = [] → unbeaten c s.cur.seq → ∀ r, r ≠ 0 →
        sget 0 (((accepted s k d m).countDone k).coach k).s r =
          if o.d ≠ 0 ∧ r = c.renS o.d then c.nb.setWidth 64 else sget 0 c.s r)) ∧
  ∀ (o : XCwait) (s : State) (k : Nat), s.cur.coach = some k → s.active (s.coach k) o.g ≠ 0 → courierRoom s k →
    let c := s.coach k
    let n : Word := (s.rdS c o.a).setWidth 32
    let upTo (a b : Word) : Prop := (b - a).toNat < 2 ^ 31
    (upTo n (c.nb - 1) → upTo n c.cb → exec (.cwait o) s = .next s) ∧
      (upTo n (c.nb - 1) → ¬ upTo n c.cb → exec (.cwait o) s = .next (s.putCoach k { c with stop := .cwait n, more := c.stops })) ∧
      (¬ upTo n (c.nb - 1) → exec (.cwait o) s = .next (s.trapNow k 6 (mkTrap 0x01 2 (BitVec.ofNat 64 (3 + 256 * 14))))))

/-- R258, R267 to R270: CPY.LD and CPYM of a box that its handle grants, to scratchpads that hold it, CPY.ST and CPYG to a
handle that grants writes, and CPYP, are accepted: a command of the queue, outstanding on its flag, with its box, its stream
length and its destinations. CPYP of a box that cannot be read is counted complete at once. -/
def Obligations.CopiesAreAccepted : Prop :=
  (∀ (o : XCopy) (s : State) (k : Nat) (co : List Nat), s.cur.coach = some k → s.active (s.coach k) o.g ≠ 0 → courierRoom s k →
    let c := s.coach k
    let x := s.party c.party
    let sh := s.shape c o.k
    let g := Geo.read sh.desc
    let h := s.readH c sh.h
    let b := s.rdS c o.b
    s.coords c o.a g.ndim = some co → dbits b 63 36 = 0 → dbits b 31 29 = 0 → dbits b 23 20 = 0 → dwOff b % 16 = 0 →
    (copyOk s c sh h co false → dwMask b = 0 → s.member? c.party x.k = some c.party → dwOff b + g.bytes ≤ x.size →
      (dwBar b = true → 16 * dwKb b + 16 ≤ x.size) →
      ∃ (d : Coach) (m : Cmd) (t : SpDest), exec (.cpyLd o) s = .next (accepted s k d m) ∧ opensFlag c d o.f ∧ m.kind = .ld ∧
        m.coach = k ∧ m.party = c.party ∧ m.batch = c.nb ∧ m.src = .box sh co h ∧ m.len = g.bytes ∧ m.sps = [t] ∧
        m.got = [] ∧ m.sent = [] ∧ t.party = c.party ∧ t.core = x.core ∧ t.addr = x.base + dwOff b ∧
        t.bar = if dwBar b then some (dwKb b) else none) ∧
    (copyOk s c sh h co false → dwMask b ≠ 0 →
      (∀ K, K < 4 → (dwMask b).testBit K = true → ∃ q, s.member? c.party K = some q ∧ dwOff b + g.bytes ≤ (s.party q).size ∧
        (dwBar b = true → 16 * dwKb b + 16 ≤ (s.party q).size)) →
      ∃ (d : Coach) (m : Cmd), exec (.cpym o) s = .next (accepted s k d m) ∧ opensFlag c d o.f ∧ m.kind = .m ∧ m.coach = k ∧
        m.batch = c.nb ∧ m.src = .box sh co h ∧ m.len = g.bytes ∧
        ∀ q, (∃ K, K < 4 ∧ (dwMask b).testBit K = true ∧ s.member? c.party K = some q) ↔
          ∃ t ∈ m.sps, t.party = q ∧ t.core = (s.party q).core ∧ t.addr = (s.party q).base + dwOff b ∧
            t.bar = if dwBar b then some (dwKb b) else none) ∧
    (copyOk s c sh h co true → dwMask b = 0 → dwBar b = false → dwOff b + g.bytes ≤ x.size → s.holdsHard c.party = false →
      ∃ (u : State) (d : Coach) (m : Cmd), exec (.cpySt o) s = .next (accepted u k d m) ∧ (u = s ∨ u = s.commitHard c.party) ∧
        opensFlag c d o.f ∧ m.kind = .st ∧ m.coach = k ∧ m.batch = c.nb ∧ m.src = .sp x.core (x.base + dwOff b) ∧
        m.dst = .box sh co h ∧ m.len = g.bytes ∧ m.got = [] ∧ m.sent = [])) ∧
  (∀ (o : XCopy) (s : State) (k : Nat) (sc dc : List Nat), s.cur.coach = some k → s.active (s.coach k) o.g ≠ 0 →
    courierRoom s k →
    let c := s.coach k
    let ssh := s.shape c ((s.rdS c o.b).toNat % 16)
    let dsh := s.shape c o.k
    let sg := Geo.read ssh.desc
    let dg := Geo.read dsh.desc
    (s.rdS c o.b).toNat < 16 → 1 ≤ o.a → o.a ≤ 58 → s.coords c o.a sg.ndim = some sc → s.coords c (o.a + 3) dg.ndim = some dc →
    copyOk s c ssh (s.readH c ssh.h) sc false → copyOk s c dsh (s.readH c dsh.h) dc true → sg.esize = dg.esize →
    sg.count = dg.count → s.holdsHard c.party = false →
    ∃ (u : State) (d : Coach) (m : Cmd), exec (.cpyg o) s = .next (accepted u k d m) ∧ (u = s ∨ u = s.commitHard c.party) ∧
      opensFlag c d o.f ∧ m.kind = .g ∧ m.coach = k ∧ m.batch = c.nb ∧ m.src = .box ssh sc (s.readH c ssh.h) ∧
      m.dst = .box dsh dc (s.readH c dsh.h) ∧ m.len = sg.bytes) ∧
  ∀ (o : XPrefetch) (s : State) (k : Nat) (co : List Nat), s.cur.coach = some k → s.active (s.coach k) o.g ≠ 0 → courierRoom s k →
    let c := s.coach k
    let sh := s.shape c o.k
    let g := Geo.read sh.desc
    let h := s.readH c sh.h
    (s.coords c o.a g.ndim = some co → copyOk s c sh h co false → ∃ (d : Coach) (m : Cmd), exec (.cpyp o) s = .next (accepted s k d m) ∧ opensFlag c d o.f ∧
      m.kind = .p ∧ m.coach = k ∧ m.src = .box sh co h ∧ m.dst = .nothing ∧ m.sps = [] ∧ m.len = g.bytes) ∧
    (sh.valid = true → (s.coords c o.a g.ndim = none ∨ s.coords c o.a g.ndim = some co ∧ ¬ copyOk s c sh h co false) →
      ∃ d e, exec (.cpyp o) s = .next (s.putCoach k d) ∧ onlyPending c d ∧ d.inflight = c.inflight ∧
        d.flags = c.flags ++ [e] ∧ e.f = o.f ∧ e.fin = true ∧ e.ws = [])

/-- R276 to R286, R296: the matrix syllables of a coach that may issue them enter the wing's queue of 16, outstanding on their
flags, with their operands: MLODGE and MWR with the words of their register run, renamed register by register. -/
def Obligations.MatrixOperationsQueue : Prop :=
  ∀ (s : State) (k : Nat), s.cur.coach = some k →
    let c := s.coach k
    let w := s.wing (wingOf k)
    let p := c.party
    let owns : Prop := w.owner = some k ∧ w.drover.party = some p
    let shares : Prop := (∃ j, w.owner = some j) ∧ w.drover.party = some p ∧ c.role ≠ .copy
    let run (a n : Nat) : List Nat := (List.range n).map fun i => c.renV (a + i)
    let queues (i : Instr) (g : Guard) (f : Nat) (kind : MKind) (srcs : List Nat) (lodge : Option (BitVec 4)) : Prop :=
      ∃ (d : Coach) (x : MOp), exec i s = .next (queuedM s k d x lodge) ∧ opensFlag c d f ∧ d.inflight = c.inflight ∧ x.coach = k ∧
        x.lanes = s.active c g ∧ x.kind = kind ∧ x.addr = s.cur.pc ∧
        ∀ i l, i < srcs.length → l < c.width → x.was[i * c.width + l]? = some (s.readV c (srcs.getD i 0) l)
    w.mq.length < 16 →
    (∀ o : XLodge, s.active c o.g ≠ 0 → o.a + 1536 / c.width ≤ 192 → fmtOk s o.fmt → owns →
      (∀ i, i < 4 → (∃ j, (s.wing (4 * coreOf k + i)).owner = some j) ∧ (s.wing (4 * coreOf k + i)).drover.party = some p) →
      queues (.mlodge o) o.g o.f (.lodge o.fmt (run o.a (1536 / c.width))) (run o.a (1536 / c.width)) (some o.fmt)) ∧
    (∀ (o : XStream) (b : BitVec 4), s.active c o.g ≠ 0 → fmtOk s o.fmt → owns → w.issuedFmt = some b →
      fmtPair o.fmt.toNat b.toNat = true →
      queues (.mstream o) o.g o.f (.stream o.acc o.fmt o.cl o.z) [] none) ∧
    (∀ o : XScale, s.active c o.g ≠ 0 → owns → mscaleBad c.width (s.rdS c o.b) = false →
      queues (.mscale o) o.g o.f (.scale (c.renV o.a) (s.rdS c o.b)) [c.renV o.a] none) ∧
    (∀ o : XMzero, s.active c o.g ≠ 0 → shares → queues (.mzero o) o.g o.f (.zero o.acc) [] none) ∧
    (∀ (o : XMrd) (r0 nr : Nat), s.active c o.g ≠ 0 → shares → (s.rdS c o.b).toNat = r0 + 16 * nr → r0 < 16 → 1 ≤ nr →
      r0 + nr ≤ 16 → o.d + 64 * nr / c.width ≤ 192 →
      queues (.mrd o) o.g o.f (.rd o.acc (run o.d (64 * nr / c.width)) r0 nr o.z) [] none) ∧
    ∀ (o : XMwr) (r0 nr : Nat), s.active c o.g ≠ 0 → shares → (s.rdS c o.b).toNat = r0 + 16 * nr → r0 < 16 → 1 ≤ nr →
      r0 + nr ≤ 16 → o.a + 64 * nr / c.width ≤ 192 →
      queues (.mwr o) o.g o.f (.wr o.acc (run o.a (64 * nr / c.width)) r0 nr) (run o.a (64 * nr / c.width)) none

/-- R304 to R306: DTAB writes a shadow entry; DGO starts a walk of the shadow table at its first iteration, and DGO.RS goes on
with the active table where the walk was suspended, if the table keeps its rules and every stream may be read.
R313, R314: DPOP takes the oldest beat once it is visible, and its words land, counted, four cycles on; of an empty queue it
waits while the walk runs, raises HINVALID with SHND when it is suspended, and ILLEGAL when it is idle. DSTAT is outstanding. -/
def Obligations.DroverSyllables : Prop :=
  (
  (∀ (o : XDtab) (s : State) (k : Nat), s.cur.coach = some k → s.active (s.coach k) o.g ≠ 0 → served s k →
    let c := s.coach k
    let w := s.wing (wingOf k)
    let lo := s.rdS c o.a
    let hi := s.rdS c o.b
    srising 0 w.drover.shadow = true → o.k ≤ 8 → (o.k < 6 → hi.toNat < 2 ^ 48) →
    (6 ≤ o.k → hi = 0 ∧ lo.toNat < 2 ^ 43 ∧ dbits lo 39 37 ≤ 5) →
    ∃ x : Wing, exec (.dtab o) s = .next (s.putWing (wingOf k) x) ∧ x.drover.active = w.drover.active ∧
      x.drover.st = w.drover.st ∧ entry x.drover.shadow o.k = (lo, hi) ∧
      ∀ j, j ≠ o.k → entry x.drover.shadow j = entry w.drover.shadow j) ∧
  ∀ (o : XDgo) (rs : Bool) (s : State) (k : Nat), s.cur.coach = some k → s.active (s.coach k) o.g ≠ 0 → served s k →
    let c := s.coach k
    let d := (s.wing (wingOf k)).drover
    let t := if rs then d.active else d.shadow
    let i := if rs then Instr.dgoRs o else .dgo o
    (d.st = .running → exec i s = hold s k) ∧
    (d.st ≠ .running → (rs = true → d.st = .suspended) → tableBad t = false →
      (∀ st ∈ streams t,
        let b := streamBounds t c.width st
        let h := s.readH c (streamHnd t st)
        0 ≤ b.1 ∧ (streamMem t st = false → b.2 ≤ (s.party c.party).size) ∧
          (streamMem t st = true → h.st = .valid ∧ s.keyOk c h = true ∧ h.rights.getLsbD 0 = true ∧ h.lo.toNat ≤ b.1 ∧
            b.2 ≤ h.hi.toNat ∧ b.2 ≤ pageBytes h.size)) →
      ∃ (e : Coach) (x : Wing), exec i s = .next ({ s.putCoach k e with nextId := s.nextId + 1 }.putWing (wingOf k) x) ∧
        opensFlag c e o.f ∧ x.drover.st = .running ∧ x.drover.active = t ∧ x.drover.pos = (if rs then d.pos else 0) ∧
        x.drover.coach = k ∧ x.drover.sa = d.sa ∧ x.drover.q0 = d.q0 ∧ x.drover.q1 = d.q1)) ∧
  (
  (∀ (o : XDpop) (s : State) (k : Nat), s.cur.coach = some k → s.active (s.coach k) o.g ≠ 0 → served s k →
    let c := s.coach k
    let m := s.active c o.g
    let x := s.wing (wingOf k)
    let q := if o.q = 0 then x.drover.q0 else x.drover.q1
    o.q < 2 →
    (∀ b bs, q = b :: bs → b.here = true → s.poison = [] → b.bytes.length = 4 * c.width →
      ∃ (e : Coach) (y : Wing), exec (.dpop o) s = .next ((s.putWing (wingOf k) y).putCoach k e) ∧ opensFlag c e o.f ∧
        (if o.q = 0 then y.drover.q0 else y.drover.q1) = bs ∧
        (if o.q = 0 then y.drover.q1 else y.drover.q0) = (if o.q = 0 then x.drover.q1 else x.drover.q0) ∧
        ∃ vs, (∃ f ∈ e.inflight, f.due = s.cur.cycle + 4 ∧ f.fe ≠ none ∧ f.w = .vec (c.renV o.d) m vs) ∧
          ∀ l, l < c.width → m.getLsbD l = true → nth vs l 0 = BitVec.ofNat 32 (leNat ((b.bytes.drop (4 * l)).take 4))) ∧
    (q = [] → x.drover.st = .running → exec (.dpop o) s = hold s k) ∧
    (q = [] → x.drover.st = .suspended →
      exec (.dpop o) s = .next (s.trapNow k 6 (mkTrap 0x0D 2 (BitVec.ofNat 64 x.drover.shnd)))) ∧
    (q = [] → x.drover.st = .idle →
      exec (.dpop o) s = .next (s.trapNow k 6 (mkTrap 0x01 2 (BitVec.ofNat 64 (3 + 256 * 45)))))) ∧
  ∀ (o : XDstat) (s : State) (k : Nat), s.cur.coach = some k → s.active (s.coach k) o.g ≠ 0 → served s k →
    let c := s.coach k
    ∃ (d : Coach) (x : Op), exec (.dstat o) s = .next (issued s k d x) ∧ opensFlag c d o.f ∧ x.coach = k ∧
      x.kind = .dstat (if o.d = 0 then 0 else c.renS o.d))

/-! Job syllables. -/

/-- R324, R349 to R351: LAUNCH, SNAP and ROLLIN of an aligned record that the handle grants, and SNAPQ, are outstanding on
their flags: LAUNCH commits and makes its party non-relaunchable first, SNAP commits, ROLLIN needs privilege.
R327, R328: COMMIT makes the party relaunchable with a token, and is outstanding; NEXTTILE commits and gives, 24 cycles on,
a tile with OK, or NONE when none is left, or neither. -/
def Obligations.JobAndPartySyllables : Prop :=
  (
  (∀ (o : CMem) (s : State) (k : Nat), s.cur.coach = some k → s.active (s.coach k) o.g ≠ 0 →
    let c := s.coach k
    let h := s.readH c o.h
    let off := (s.rdS c o.b).toNat
    let u := s.commitHard c.party
    (off % 128 = 0 → grants s c h 1#4 off 128 → s.holdsHard c.party = false →
      ∃ (d : Coach) (x : Op) (q : Part), exec (.launch o) s = .next (issued u k d x) ∧ opensFlag c d o.f ∧ x.coach = k ∧
        x.kind = .launch (c.cDest o.d) ∧ x.parts = [q] ∧ q.place = s.handlePlace h off ∧ q.len = 128) ∧
    (off % 128 ≠ 0 → exec (.launch o) s = .next (s.trapNow k 6 (mkTrap 0x01 3 (BitVec.ofNat 64 (4 + 256 * 48))))) ∧
    (c.priv = true → off % 32 = 0 → grants s c h 1#4 off 32 →
      ∃ (d : Coach) (x : Op) (q : Part), exec (.rollin o) s = .next (issued s k d x) ∧ opensFlag c d o.f ∧ x.coach = k ∧
        x.kind = .rollin (c.cDest o.d) ∧ x.parts = [q] ∧ q.place = s.handlePlace h off ∧ q.len = 32) ∧
    (c.priv = false → exec (.rollin o) s = .next (s.trapNow k 6 (mkTrap 0x13 3 3)))) ∧
  (∀ (o : CSnap) (s : State) (k : Nat), s.cur.coach = some k → s.active (s.coach k) o.g ≠ 0 →
    let c := s.coach k
    let h := s.readH c o.h
    let off := (s.rdS c o.b).toNat
    let u := s.commitPoint c.party
    (off % 128 = 0 → grants s c h 1#4 off 128 →
      ∃ (d : Coach) (x : Op) (q : Part), exec (.snap o) s = .next (issued u k d x) ∧ opensFlag c d o.f ∧ x.coach = k ∧
        x.kind = .snap (c.cDest o.d) o.full h off ∧ x.parts = [q] ∧ q.place = s.handlePlace h off ∧ q.len = 128) ∧
    (off % 128 ≠ 0 → exec (.snap o) s = .next (s.trapNow k 6 (mkTrap 0x01 3 (BitVec.ofNat 64 (4 + 256 * 50)))))) ∧
  ∀ (o : CSnapq) (s : State) (k : Nat), s.cur.coach = some k → s.active (s.coach k) o.g ≠ 0 →
    ∃ (d : Coach) (x : Op), exec (.snapq o) s = .next (issued s k d x) ∧ opensFlag (s.coach k) d o.f ∧ x.coach = k ∧
      x.kind = .snapq ((s.coach k).cDest o.d)) ∧
  (
  (∀ (o : CCommit) (s : State) (k : Nat), s.cur.coach = some k → s.active (s.coach k) o.g ≠ 0 →
    let c := s.coach k
    let u := s.commitThen c.party fun x => { x with token := s.rdS c o.a }
    ∃ (d : Coach) (x : Op), exec (.commit o) s = .next (issued u k d x) ∧ opensFlag c d o.f ∧ x.coach = k ∧
      x.kind = .commit) ∧
  ∀ (o : CNextTile) (s : State) (k : Nat), s.cur.coach = some k → s.active (s.coach k) o.g ≠ 0 →
    let p := (s.coach k).party
    let u := (s.commitThen p fun x => { x with tile := none, token := 0 }).overdueDeal p
    let c := s.coach k
    let gives (t : Nat) (ok none : Bool) : Prop := ∃ (v : State) (d : Coach), exec (.nexttile o) s = .next (v.putCoach k d) ∧
      onlyResults c d ∧ keepsResults c d ∧
      underWay d (s.cur.cycle + 24) s.cur.seq (scalarWrite c (.reg o.d) (BitVec.ofNat 64 t)) ∧
      (c.width ≤ 64 → prdUnderWay c d (s.cur.cycle + 24) s.cur.seq o.p (lanesBelow c.width) (fun _ => ok) ∧
        prdUnderWay c d (s.cur.cycle + 24) s.cur.seq (o.p + 1) (lanesBelow c.width) (fun _ => none))
    (∀ t v, u.takeTile p = some (t, v) → gives t true false) ∧
      (u.takeTile p = none → u.exhausted p = true → gives 0 false true) ∧
      (u.takeTile p = none → u.exhausted p = false → gives 0 false false))

/-! Events: landings, ends of stops, outstanding operations. -/

/-- R46, R50, R135, R137 to R139, R370: a result whose cycle has come, that nothing precedes and over which no later bundle's write of the
cycle prevails, lands in its register; a WAIT stop ends when the count is low enough, MWAIT with its reason code one cycle on, YIELD at its
cycle, and the stops that the same bundle made beside it remain; a step count that has reached 0 takes BRK. -/
def Obligations.LandingsAndStopsEnd : Prop :=
  ∀ (s : State) (k : Nat), tablesOk s = true →
    let c := s.coach k
    (∀ (i : Nat) (f : Landing), c.inflight[i]? = some f → f.fe = none → f.early ≤ s.now k → s.lands k f = true →
      (∀ g ∈ c.inflight, g.fe = none → g.sooner f = false) → unbeaten c f.seq →
      ∃ t, exec (.resultLanding k i) s = .next t ∧ sameStorage s t ∧ t.cores = s.cores ∧ (∀ j, j ≠ k → t.coach j = s.coach j) ∧
        (t.coach k).inflight = c.inflight.eraseIdx i ∧ (t.coach k).flags = c.flags ∧ (t.coach k).pc = c.pc ∧
        (∀ r v, f.w = .scl r v → (t.coach k).s = (if r = 0 then c.s else sset 0 c.s r v) ∧ (t.coach k).v = c.v ∧ (t.coach k).p = c.p ∧
          (srising 0 c.s = true → r ≠ 0 → sget 0 (t.coach k).s r = v ∧ ∀ q, q ≠ r → sget 0 (t.coach k).s q = sget 0 c.s q)) ∧
        (∀ r m vs, f.w = .vec r m vs → (t.coach k).s = c.s ∧ (t.coach k).p = c.p ∧
          (srising 0 c.v = true → ∀ q l, l < 64 → sget 0 (t.coach k).v (64 * q + l) =
            if q = r ∧ m.getLsbD l = true then nth vs l 0 else sget 0 c.v (64 * q + l))) ∧
        (∀ r m b, f.w = .prd r m b → (t.coach k).s = c.s ∧ (t.coach k).v = c.v ∧
          (srising 0 c.p = true → ∀ q l, l < 64 → (sget 0 (t.coach k).p q).getLsbD l =
            if q = r ∧ m.getLsbD l = true then b.getLsbD l else (sget 0 c.p q).getLsbD l)) ∧
        (∀ b, f.w = .flags b → (t.coach k).fpmode = c.fpmode ||| (b.setWidth 64 <<< 8))) ∧
    (∀ f n, c.stop = .wait f n → s.awake k = true → c.count f ≤ n →
      exec (.waitEnd k) s =
        .next (s.putCoach k { c with stop := c.more.headD .none, more := c.more.drop 1, next := max c.next (s.now k) })) ∧
    (∀ dl d lat seq, c.stop = .mwait dl d lat seq → s.awake k = true →
      let ends (i : Instr) (reason : Nat) : Prop :=
        ∃ t, exec i s = .next t ∧ sameStorage s t ∧ t.cores = s.cores ∧ (∀ m ∈ t.monitors, m.2 ≠ k) ∧
          (t.coach k).stop = c.more.headD .none ∧ (t.coach k).more = c.more.drop 1 ∧
          (t.coach k).mon = .none ∧ (t.coach k).next = max c.next (s.now k + 1) ∧
          underWay (t.coach k) (s.now k + 1) seq (match d with
            | .reg n => if n = 0 then .latC (BitVec.ofNat 64 reason) else .scl n (BitVec.ofNat 64 reason)
            | .latch => .latC (BitVec.ofNat 64 reason))
      (c.mon = .none → ends (.mwaitWake k) 3) ∧ (c.mon = .lost → ends (.mwaitWake k) 2) ∧
        (∀ line h, c.mon = .armed line h true → ends (.mwaitWake k) 0) ∧
        ∀ u, dl = some u → u ≤ s.tick → ends (.mwaitTimeout k) 1) ∧
    (∀ u, c.stop = .yield u → s.awake k = true → u ≤ s.now k →
      exec (.yieldExpire k) s =
        .next (s.putCoach k { c with stop := c.more.headD .none, more := c.more.drop 1, next := max c.next u })) ∧
    (c.stepDue = true → c.intrap = false → c.soft = none → s.ready k = true → (s.die (dieOf k)).gated = false → c.tvec ≠ 0 →
      (∀ f ∈ c.inflight, ∀ v, f.w ≠ .sys 1 v) → Site.sys k 1 ∉ s.poison →
      ∃ t, exec (.stepTrap k) s = .next t ∧ sameStorage s t ∧ (t.coach k).stepDue = false ∧ (t.coach k).intrap = true ∧
        (t.coach k).trappc = c.pc ∧ (t.coach k).pc = c.tvec ∧ (t.coach k).tcause = 0x60F ∧ (t.coach k).tinfo = 2 ∧
        (t.coach k).next = s.now k + 1)

/-- R54, R195, R197, R218 to R220, R236, R241, R338: what completes outstanding work. A walk's image reaches the handle that awaits
it; a store's unit writes exactly its bytes; a load that is wholly performed writes its registers; a fence, a loss notice, a page
request and a commit come to their ends; a commit's unit is moved whole. -/
def Obligations.OutstandingWorkCompletes : Prop :=
  ∀ (s : State), tablesOk s = true → memoryOk s = true →
    (∀ (n : Nat) (w : Walk), s.walks.find? (fun x => x.id = n) = some w →
      let va := w.va.toNat
      let r := (s.walkVia (dieOf w.coach) w.asid.toNat va).1
      let c := s.coach w.coach
      ((s.die (dieOf w.coach)).tables = [] → r = s.walk w.asid.toNat va) ∧
      let img : Handle := { r.handle w.asid va w.mask with walk := va, mask := w.mask }
      (r.err = 0 → srising 0 c.h = true →
      ∃ t, exec (.walkEnd n) s = .next t ∧ sameStorage s t ∧ samePads s t ∧ (∀ x, x ∈ t.walks ↔ x ∈ s.walks ∧ x.id ≠ n) ∧
        (∀ i, i < 16 → sget Handle.blank (t.coach w.coach).h i =
          let h := sget Handle.blank c.h i
          if h.st = .pending ∧ h.walk = n then img else h) ∧
        (r.st = .valid → ∃ h ∈ (t.core (coreOf w.coach)).tcache, h = r.handle w.asid va 0xF#4))) ∧
    (∀ (n i : Nat) (o : Op) (p : Part) (size : Nat) (rel : Bool), s.op? n = some o → o.kind = .store size rel →
      o.performed = false → o.parts[i]? = some p → p.len = p.data.length → 0 < p.len → p.len ≤ 16 → s.mayPerform o i p = true →
      (∀ c off, p.place = .sram c off → ∃ t, exec (.memoryAccessComplete n i) s = .next t ∧ sameStorage s t ∧
        written (s.core c).sram (t.core c).sram off p.data ∧
        ∀ e, e ≠ c → ∀ a, mget (t.core e).sram a = mget (s.core e).sram a) ∧
      (∀ pa e, p.place = .home pa e → o.held = false → s.exempts o.party = false → o.pol ≠ .st → addressable pa p.len = true →
        o.left = o.stamp → o.die < 10 → plainHome s o.asid.toNat pa o.stamp → ∃ t, exec (.memoryAccessComplete n i) s = .next t ∧
          written s.mem t.mem pa p.data ∧ t.host = s.host ∧ samePads s t)) ∧
    (∀ (n i : Nat) (o : Op) (e : FlagEntry) (regs : List Nat) (size : Nat) (rp : Option Nat) (m : Lanes) (acq : Bool),
      s.op? n = some o → o.kind = .load regs size rp m acq → o.performed = true → o.fe = some e.id → (s.coach o.coach).flags = [e] →
      unbeaten (s.coach o.coach) e.seq → regs ≠ [] → regs.Nodup → srising 0 (s.coach o.coach).v = true →
      ∃ t, exec (.memoryAccessComplete n i) s = .next t ∧ sameStorage s t ∧ samePads s t ∧ t.op? n = none ∧
        (t.coach o.coach).flags = [] ∧
        ∀ r l, l < (s.coach o.coach).width → l < 64 → sget 0 (t.coach o.coach).v (64 * r + l) =
          match regs.idxOf? r with
          | some j => if o.lanes.getLsbD l then o.laneWord j l else sget 0 (s.coach o.coach).v (64 * r + l)
          | none => sget 0 (s.coach o.coach).v (64 * r + l)) ∧
    (∀ (n i kind : Nat) (o : Op), s.op? n = some o → o.kind = .fence kind → s.settled o = true → s.fenceReady o kind = true →
      ∃ t, exec (.memoryAccessComplete n i) s = .next t ∧ sameStorage s t ∧ samePads s t ∧ t.op? n = none ∧
        (kind ≠ 2 → ∀ x ∈ (t.core (coreOf o.coach)).l1, x.2.owned = true)) ∧
    (∀ (n e : Nat) (o : Op), s.op? n = some o → (∃ p ∈ o.parts, p.st = .noticed) → o.die < 10 → oneEpoch s o.asid.toNat e →
      ∃ t, exec (.lossNoticeAck n) s = .next t ∧ sameStorage s t ∧ samePads s t ∧
        ∀ x, t.op? n = some x → ∀ p ∈ x.parts, p.st ≠ .noticed) ∧
    (∀ (tag : Nat) (granted : Bool) (r : PageReq) (o : Op), s.pageReqs.find? (fun x => x.tag = tag && x.host) = some r →
      s.op? r.op = some o → ∃ t, exec (.pageResponse tag granted) s = .next t ∧ sameStorage s t ∧ t.op? r.op = none ∧
        (∀ x ∈ t.pageReqs, x.op ≠ r.op) ∧
        ∀ e, (s.coach o.coach).flags = [e] → o.fe = some e.id → (t.coach o.coach).flags = []) ∧
    ∀ (n i : Nat) (c : Commit), s.commits.find? (fun x => x.id = n) = some c →
      (c.bytes = [] → (∀ o ∈ s.ops, o.id ∉ c.after) →
        ∃ l, exec (.commitDrainComplete n i) s = .next { s with commits := l } ∧ c ∉ l) ∧
      (∀ (b : HeldByte) (bs : List HeldByte), c.bytes[i]? = some b → unitBytes c b = b :: bs → bs.length < 16 → c.die < 10 →
        (∀ j y, (b :: bs)[j]? = some y → y.pa = b.pa + j) → (s.die c.die).gated = false → s.firstUnit c b = true →
        addressable b.pa 1 = true → b.st = false → plainHome s c.asid.toNat b.pa c.stamp →
        ∃ t, exec (.commitDrainComplete n i) s = .next t ∧ written s.mem t.mem b.pa ((b :: bs).map (·.b)) ∧ t.host = s.host ∧
          samePads s t ∧ ∀ x ∈ t.commits, x.id = n → ∀ y ∈ x.bytes, y ∉ b :: bs)

/-- R54, R222, R250, R251, R253, R314, R324, R338, R349, R350, R351: what a syllable that is outstanding on its flag comes to, by the
event that performs it. Each part of an atomic at its home changes the words of its lanes, one lane after another, and the last one
writes the words that the lanes found to the register; BARINIT, BEXPECT and ARRIVE are applied at the unit, where a phase that opens
flips, and ARRIVE's register tells the phase and whether it ended it; COMMIT counts once its stores are moved; SNAPQ's register
holds the status of the job's generation; DSTAT samples the Drover, to land four cycles after issue; the record of LAUNCH, SNAP and
ROLLIN is read, and judged: the register holds the status, an accepted launch its identifier, and an accepted SNAP takes its die's
cut, an accepted ROLLIN starts the rollback. -/
def Obligations.OutstandingSyllablesTakeEffect : Prop :=
  (∀ (i : Instr) (opc : Nat) (g : Guard) (r : Nat) (a : VSrc) (hn f : Nat),
    ((∃ e ∈ atomTable, ∃ o : MAtom, i = e.1 o ∧ opc = e.2 ∧ g = o.g ∧ r = o.d ∧ a = o.a ∧ hn = o.h ∧ f = o.f) ∨
      ∃ o : MCas, i = .acas o ∧ opc = 0x37 ∧ g = o.g ∧ r = o.d ∧ a = o.a ∧ hn = o.h ∧ f = o.f) →
    ∀ (s : State) (k : Nat), s.cur.coach = some k →
    let c := s.coach k
    let m := s.active c g
    let h := s.readH c hn
    let off (l : Nat) : Nat := (s.rdOff c l a).toNat / 4 * 4
    m ≠ 0 → h.st = .valid → (∀ l, l < c.width → m.getLsbD l = true → grants s c h 0xA#4 (off l) 4 ∧ ∃ pa e, s.handlePlace h (off l) = .home pa e) →
    unwatched s k c → h.wb = false → s.holdsHard c.party = false →
    ∃ (d : Coach) (x : Op), exec i s = .next (issued (s.commitHard c.party) k d x) ∧ opensFlag c d f ∧ x.coach = k ∧
      x.lanes = m ∧ x.kind = .atomic opc (c.renV r) ∧
      ∀ (u : State) (y : Op) (j pa : Nat) (p : Part) (e : Bool), tablesOk u = true → memoryOk u = true → u.op? x.id = some y → goesOn x y →
        y.parts[j]? = some p → p.place = .home pa e → u.mayPerform y j p = true → addressable pa p.len = true →
        (∀ b ∈ p.ats, ∃ q, b.place = .home q e ∧ q % 4 = 0 ∧ q / 128 = pa / 128) →
        y.left = y.stamp → y.die < 10 → plainHome u y.asid.toNat pa y.stamp → u.poison = [] → u.owner = [] →
        let out := atomicRun opc u.mem p.ats
        ∃ t, exec (.memoryAccessComplete x.id j) u = .next t ∧ t.host = u.host ∧ samePads u t ∧ (∀ q, mget t.mem q = mget out.1 q) ∧
          (y.parts = [p] → t.op? x.id = none ∧ ∀ n, (u.coach k).flags = [n] → x.fe = some n.id → unbeaten (u.coach k) n.seq → (t.coach k).flags = [] ∧
            (srising 0 (u.coach k).v = true → (p.ats.map (·.lane)).Nodup → ∀ (z : Nat) (b : AtomLane), p.ats[z]? = some b →
              b.lane < (u.coach k).width → b.lane < 64 → m.getLsbD b.lane = true →
              sget 0 (t.coach k).v (64 * c.renV r + b.lane) = nth out.2 z 0))) ∧
  (∀ (o : MBar) (s : State) (k : Nat), s.cur.coach = some k → s.active (s.coach k) o.g ≠ 0 →
    let c := s.coach k
    let n := s.rdS c o.a
    16 * o.k + 16 ≤ (s.party c.party).size →
    ∀ (i : Instr) (f : Bar → Bar), i = .barinit o ∧ 1 ≤ n.toNat ∧ n.toNat ≤ 32767 ∧ f = (fun b => b.init n.toNat) ∨
        i = .bexpect o ∧ f = (fun b => b.credit n.toInt 4) →
    ∃ (d : Coach) (x : Op), exec i s = .next (issued s k d x) ∧ opensFlag c d o.f ∧
      ∀ u : State, tablesOk u = true → memoryOk u = true → u.op? x.id = some x → u.settled x = true → u.barReady x = true →
        let core := (u.party c.party).core
        let at_ := (u.party c.party).base + 16 * o.k
        let b := f (u.bar core at_)
        ∃ t, exec (.memoryAccessComplete x.id 0) u = .next t ∧ sameStorage u t ∧ countsScalar u t k x 0 0 ∧
          t.bar core at_ = if b.opens then b.flip else b) ∧
  (∀ (o : MArrive) (s : State) (k : Nat), s.cur.coach = some k → s.active (s.coach k) o.g ≠ 0 →
    let c := s.coach k
    16 * o.k + 16 ≤ (s.party c.party).size →
    ∃ (d : Coach) (x : Op), exec (.arrive o) s = .next (issued s k d x) ∧ opensFlag c d o.f ∧
      ∀ u : State, tablesOk u = true → memoryOk u = true → u.op? x.id = some x → u.settled x = true → u.barReady x = true →
        let core := (u.party c.party).core
        let at_ := (u.party c.party).base + 16 * o.k
        let b := (u.bar core at_).arrive (s.rdS c o.a).toNat
        let phase : Nat := if (u.bar core at_).phase then 1 else 0
        ∃ t, exec (.memoryAccessComplete x.id 0) u = .next t ∧ sameStorage u t ∧
          t.bar core at_ = (if b.opens then b.flip else b) ∧
          countsScalar u t k x (match o.d with | .reg n => c.renS n | .latch => 0)
            (BitVec.ofNat 64 (phase + if b.opens then 2 else 0))) ∧
  (∀ (o : CCommit) (s : State) (k : Nat), s.cur.coach = some k → s.active (s.coach k) o.g ≠ 0 →
    ∃ (v : State) (d : Coach) (x : Op), exec (.commit o) s = .next (issued v k d x) ∧ opensFlag (s.coach k) d o.f ∧
      ∀ u : State, u.op? x.id = some x → u.settled x = true → u.committed x = true → tablesOk u = true →
        ∃ t, exec (.memoryAccessComplete x.id 0) u = .next t ∧ sameStorage u t ∧ samePads u t ∧ countsScalar u t k x 0 0) ∧
  (∀ (o : CSnapq) (s : State) (k : Nat), s.cur.coach = some k → s.active (s.coach k) o.g ≠ 0 →
    ∃ (d : Coach) (x : Op), exec (.snapq o) s = .next (issued s k d x) ∧ opensFlag (s.coach k) d o.f ∧
      ∀ u : State, u.op? x.id = some x → u.settled x = true → tablesOk u = true →
        let n := (u.job (s.coach k).asid.toNat).snap
        ∃ t, exec (.memoryAccessComplete x.id 0) u = .next t ∧ sameStorage u t ∧ samePads u t ∧
          countsScalar u t k x ((s.coach k).cDest o.d)
            (BitVec.ofNat 64 (n.state * 2 ^ 60 + n.cause * 2 ^ 52 + (if n.cross then 2 ^ 51 else 0) + n.gen % 2 ^ 32))) ∧
  (∀ (o : XDstat) (s : State) (k : Nat), s.cur.coach = some k → s.active (s.coach k) o.g ≠ 0 → served s k →
    ∃ (d : Coach) (x : Op), exec (.dstat o) s = .next (issued s k d x) ∧ opensFlag (s.coach k) d o.f ∧
      ∀ u : State, u.op? x.id = some x → u.settled x = true → tablesOk u = true →
        let v := (u.wing (wingOf k)).drover.status
        ∃ t l, exec (.memoryAccessComplete x.id 0) u = .next t ∧ sameStorage u t ∧ samePads u t ∧ t.op? x.id = none ∧
          (t.coach k).inflight = (u.coach k).inflight ++ [l] ∧ l.due = s.cur.cycle + 4 ∧ l.fe = x.fe ∧
          l.w = if o.d = 0 then .latC v else .scl ((s.coach k).renS o.d) v) ∧
  ∀ (i : Instr) (kind : OpKind) (hn f dst off len : Nat) (s v : State) (k : Nat), s.cur.coach = some k →
    let c := s.coach k
    let h := s.readH c hn
    (∃ o : CMem, s.active c o.g ≠ 0 ∧ hn = o.h ∧ f = o.f ∧ dst = c.cDest o.d ∧ off = (s.rdS c o.b).toNat ∧
        (i = .launch o ∧ kind = .launch dst ∧ len = 128 ∧ s.holdsHard c.party = false ∧ v = s.commitHard c.party ∨
          i = .rollin o ∧ kind = .rollin dst ∧ len = 32 ∧ c.priv = true ∧ v = s)) ∨
      (∃ o : CSnap, s.active c o.g ≠ 0 ∧ hn = o.h ∧ f = o.f ∧ dst = c.cDest o.d ∧ off = (s.rdS c o.b).toNat ∧ i = .snap o ∧
        kind = .snap dst o.full h off ∧ len = 128 ∧ v = s.commitPoint c.party) →
    off % len = 0 → grants s c h 1#4 off len →
    ∃ (d : Coach) (x : Op), exec i s = .next (issued v k d x) ∧ opensFlag c d f ∧ x.coach = k ∧ x.kind = kind ∧
      ∀ (u : State) (y : Op), tablesOk u = true → memoryOk u = true → u.op? x.id = some y → goesOn x y →
        let ds := dblsOfBytes (y.parts.flatMap (·.got))
        (∀ pa e p, y.parts = [p] → p.place = .home pa e → p.st = .todo → p.len = len → u.recordReady y = true → u.isDead pa = false →
          oneEpoch u y.asid.toNat y.stamp → y.left = y.stamp → y.die < 10 → calmL2 u → u.poison = [] →
          ∃ t z, exec (.memoryAccessComplete x.id 0) u = .next t ∧ sameStorage u t ∧ samePads u t ∧ t.op? x.id = some z ∧ goesOn y z ∧
            z.performed = true ∧ z.parts.flatMap (·.got) = mgets u.mem pa len) ∧
        (u.recordReady y = false → y.performed = true → y.parts ≠ [] →
          (kind = .launch dst →
            let w := u.noteLaunch ds
            let st := (w.validate k ds).1
            ∃ t, exec (.memoryAccessComplete x.id 0) u = .next t ∧
              (st ≠ 0 → countsScalar w t k x dst (BitVec.ofNat 64 st) ∧ t.launches = u.launches) ∧
              (st = 0 → countsScalar w t k x dst (BitVec.ofNat 64 (w.nextLaunch % 2 ^ 32 * 2 ^ 32)) ∧
                (t.launch w.nextLaunch).doubles = ds ∧ (t.launch w.nextLaunch).fin = false ∧
                (t.launch w.nextLaunch).kernel = (w.validate k ds).2)) ∧
          (∀ full, kind = .snap dst full h off →
            let st := u.snapStatus y full ds
            ∃ t, exec (.memoryAccessComplete x.id 0) u = .next t ∧
              (st ≠ 0 → sameStorage u t ∧ countsScalar u t k x dst (BitVec.ofNat 64 st)) ∧
              (st = 0 → u.delayers y.asid.toNat y.die = [] → y.die < 10 → countsScalar u t k x dst 0 ∧
                (t.cutOf y.asid.toNat y.die).cut = true)) ∧
          (kind = .rollin dst →
            let st := u.rollStatus ds
            ∃ t, exec (.memoryAccessComplete x.id 0) u = .next t ∧
              (st ≠ 0 → sameStorage u t ∧ countsScalar u t k x dst (BitVec.ofNat 64 st)) ∧
              (st = 0 → (t.job (dbits (nth ds 0 0) 15 0)).snap.rollback = true ∧
                (t.job (dbits (nth ds 0 0) 15 0)).snap.rollGen = dbits (nth ds 1 0) 31 0)))

/-! Events: parties and launches. -/

/-- R154, R319 to R322, R126: a party that has waited 4 ms is promoted; one that fits goes to its cores, unless an earlier one fits;
created, its coaches are as R319 says, its allocation is zero and its shape slots are invalid; a victim halts, and drained it
leaves its core; an ended coach gives up its entry, the last one the engines, whose accumulators keep what they hold. -/
def Obligations.PartiesComeAndGo : Prop :=
  ∀ (s : State) (p : Nat), tablesOk s = true → memoryOk s = true →
    let x := s.party p
    let l := s.launch x.launch
    (x.waits = true → x.promoted = false → (s.die x.die).gated = false → x.pendSince + 6800000 ≤ s.tick →
      exec (.priorityPromote p) s = .next (s.putParty p { x with promoted := true })) ∧
    (∀ t, s.placeable p = true → s.seatUnit State.bring (s.unitOf p) = some t →
      (∀ q, (s.party q).waits = true → (∃ r ∈ s.unitOf p, (s.party r).die = (s.party q).die) →
        lexLt (s.rank q) (s.rank p) = true → s.placeable q = true → p ∈ s.unitOf q ∨ s.seatUnit State.bring (s.unitOf q) = none) →
      (x.st = .pending → s.afterCut x.launch = false → exec (.partyPlace p) s = .next t.tickFree) ∧ (x.st = .saved → exec (.partyRestore p) s = .next t.tickFree)) ∧
    (∀ core ks base j k r, ks.Nodup → ks.length = l.kernel.coaches.length → ks[j]? = some k → l.kernel.coaches[j]? = some r →
      let t := s.createParty p core ks base
      created l x j r (t.coach k) ∧ (t.coach k).party = p ∧ (t.party p).shapes = [] ∧ (t.party p).st = .running ∧
        (t.party p).base = base + 256 ∧ (t.party p).size = l.kernel.scratch ∧
        ∀ a, base + 256 ≤ a → a < base + 256 + l.kernel.scratch → mget (t.core core).sram a = 0) ∧
    ((s.victims State.bring x.die).contains p = true → s.unitOf p = [p] → x.st = .running →
      (∀ k ∈ x.coaches, s.replaying (wingOf k) = false) → ∃ t, exec (.preemptRequest p) s = .next t ∧ sameStorage s t ∧ samePads s t ∧ (t.party p).st = .draining ∧
        (t.party p).slot = l.slots.head? ∧ (t.party p).held = x.held ∧
        (t.launch x.launch).slots = l.slots.drop 1 ∧
        ∀ k ∈ x.coaches, (s.coach k).ended = false →
          (∀ line h w, (t.coach k).mon ≠ .armed line h w) ∧ (t.coach k).steps = 0 ∧ (t.coach k).live = (s.coach k).live) ∧
    (x.st = .draining → s.drainedParty p = true →
      ∃ t, exec (.preemptSave p) s = .next t ∧ (t.party p).st = .saved ∧ (t.party p).coaches = [] ∧ (t.party p).pendSince = s.tick ∧
        ∀ k ∈ x.coaches, t.coach k = Coach.blank) ∧
    ∀ k, (s.coach k).present = true → (s.coach k).ended = true → (s.coach k).party = p → x.launch ≠ 0 → (s.coach k).flags = [] →
      (∀ o ∈ s.ops, o.coach ≠ k) → (∀ w ∈ s.walks, w.coach ≠ k) → (∀ m ∈ (s.core (coreOf k)).courier, m.coach ≠ k) →
      (x.st = .ended → s.matrixStuck p = false) →
      ∃ t, exec (.coachRelease k) s = .next t ∧ sameStorage s t ∧ samePads s t ∧ t.coach k = Coach.blank ∧
        (∀ j, j ≠ k → t.coach j = s.coach j) ∧ (t.party p).coaches = x.coaches.filter (· ≠ k) ∧
        (x.coaches.filter (· ≠ k) = [] → x.st = .ended → ∀ i, i < 4 →
          (s.wing (4 * x.core + i)).drover.party = some p →
          (t.wing (4 * x.core + i)).drover = { Drover.reset with party := s.droverAsker p x.core i } ∧
            (t.wing (4 * x.core + i)).owner = none ∧ (t.wing (4 * x.core + i)).acc = (s.wing (4 * x.core + i)).acc)

/-- R160, R161, R357: a table mismatch opens the window of two cycles whose bundles are squashed; detected at its end, it changes no register
and no memory, every result of fixed latency that was to land from the window on lands as much later as every other, and one record
names the first squashed bundle; the third in a millisecond takes the wing out of service, firmware brings it back; firmware restarts an
ended steward. -/
def Obligations.MismatchesAndRepairs : Prop :=
  (∀ (s : State) (w : Nat), tablesOk s = true →
    let g := s.wing w
    let now := (s.die (dieOfCore (coreOfWing w))).cycle
    let old := g.mismatches.filter fun m => decide (s.tick < m + 1700000)
    (g.out = false → (s.die (dieOfCore (coreOfWing w))).gated = false →
      (g.squash = none → s.replaying w = false →
        exec (.tableMismatch w) s = .next (s.putWing w { g with squash := some (now + 1), again := [] })) ∧
      (∀ u, g.squash = some u → u + 2 ≤ now → old.length < 2 → ∃ t d, exec (.tableMismatch w) s = .next t ∧ sameStorage s t ∧ samePads s t ∧
        (t.wing w).out = false ∧ (t.wing w).squash = none ∧ (t.wing w).again = g.again ∧ (t.wing w).mismatches = old ++ [s.tick] ∧
        now ≤ u + d ∧ u + d ≤ (t.wing w).next ∧ (∀ k, sameRegisters (s.coach k) (t.coach k) ∧ (t.coach k).flags = (s.coach k).flags) ∧
        (∀ k ∈ s.coachesOfWing w, (t.coach k).inflight = (s.coach k).inflight.map fun f =>
          if f.fe = none then { f with due := if u ≤ f.due then f.due + d else f.due, early := if u ≤ f.early then f.early + d else f.early }
          else f) ∧
        ∀ k a rest, g.again = (k, a) :: rest → (s.core (coreOf k)).statq.length < 256 →
          sget 0 (s.core (coreOf k)).lost (s.coach k).asid.toNat = 0 → (t.core (coreOf k)).statq = (s.core (coreOf k)).statq ++
            [{ d0 := BitVec.ofNat 64 (0x10 + 256 * (k % 16) + 4096 * (k / 16 % 4) + 65536 * (s.coach k).asid.toNat), d1 := a,
               d2 := BitVec.ofNat 64 s.tick, d3 := BitVec.ofNat 64 (old.length + 1) }]) ∧
      (∀ u, g.squash = some u → u + 2 ≤ now → 2 ≤ old.length →
        ∃ t, exec (.tableMismatch w) s = .next t ∧ (t.wing w).out = true)) ∧
    exec (.wingReturnToService w) s = .next (s.putWing w { g with out := false, mismatches := [] })) ∧
  ∀ (s : State) (k : Nat),
    let c := s.coach k
    c.present = true → c.ended = true → (s.party c.party).launch = 0 →
    ∃ d, exec (.stewardRestart k) s = .next (s.putCoach k d).tickFree ∧ d.present = true ∧ d.ended = false ∧ d.priv = true ∧
      d.asid = c.asid ∧ d.v = [] ∧ d.s = [] ∧ d.p = [] ∧ d.h = [] ∧ d.flags = [] ∧ d.inflight = [] ∧ d.live = c.launched ∧
      d.stop = .none ∧ d.intrap = false

/-- R327, R329, R257, R346: a die whose pool is below eight tiles is dealt the next chunk, of which a party that was told to retry gets
the first, and which is channel state for a die that has cut before I/O die 0; the DONE double of a launch whose parties have ended and whose writes are performed; a superstep that all have
arrived at completes, an acquire on every core. -/
def Obligations.LaunchesProceed : Prop :=
  ∀ (s : State) (n : Nat), tablesOk s = true → memoryOk s = true →
    let l := s.launch n
    (∀ die, l.nextTile < l.kernel.tiles l.doubles → (sget [] l.pools die).length < 8 → die < 8 →
      (nth l.doubles 5 0).getLsbD die = true → l.fin = false → (∃ p ∈ l.parties, (s.party p).die = die ∧ (s.party p).st ≠ .ended) →
      let a := l.asid.toNat
      stampOf (s.epochOf a die) (s.epochOf a 8) ≠ .new →
      let late : Prop := (s.job a).snap.running = true ∧ (s.cutOf a die).cut = true ∧ (s.cutOf a 8).cut = false
      let chunk := (List.range (min 16 (l.kernel.tiles l.doubles - l.nextTile))).map (· + l.nextTile)
      let askers := l.parties.filter fun p => (s.party p).die == die && (s.party p).reserve.isSome && (s.party p).st != .ended
      let dealt (given : Nat) : State := s.putLaunch n
        { l with nextTile := l.nextTile + chunk.length, pools := sset [] l.pools die (sget [] l.pools die ++ chunk.drop given) }
      (askers = [] → ¬ late → exec (.tileChunkDeal n die) s = .next (dealt 0)) ∧
      (askers = [] → late → exec (.tileChunkDeal n die) s = .next ((dealt 0).modCut a die fun c =>
        { c with recs := c.recs ++ chunk.flatMap fun u => [BitVec.ofNat 64 (2 ^ 61 + n), BitVec.ofNat 64 u, 0, 0, 0, 0, 0, 0] })) ∧
      (∀ p, askers = [p] → ¬ late → exec (.tileChunkDeal n die) s =
        .next ((dealt 1).putParty p { s.party p with reserve := none, replay := (s.party p).replay ++ [l.nextTile] }))) ∧
    (∀ pa e, l.fin = false → s.stalled = [] → oneEpoch s l.asid.toNat (s.epochOf l.asid.toNat 8) → (∀ p ∈ l.parties, (s.party p).st = .ended) → (∀ o ∈ s.ops, o.party ∉ l.parties) →
      (∀ c ∈ s.commits, c.party ∉ l.parties) → (∀ e ∈ s.cores, ∀ m ∈ e.2.courier, m.party ∉ l.parties) →
      s.jobPlace l.asid.toNat (nth l.doubles 11 0).toNat = .home pa e → quietHome s l.asid.toNat pa →
      (nth l.doubles 11 0).toNat % 8 = 0 →
      let faulted := (l.parties.filter fun p => (s.party p).faulted).length
      ∃ t, exec (.launchDone n) s = .next t ∧ (t.launch n).fin = true ∧
        written s.mem t.mem pa (leBytes (min (l.faults - (nth l.doubles 13 0).toNat) 65535 * 2 ^ 48 + 2 ^ 32 + faulted) 8)) ∧
    ∀ group level,
      let ps := s.groupOf n group level
      (∃ p ∈ ps, (s.party p).st = .running) → oneEpoch s l.asid.toNat (s.epochOf l.asid.toNat 8) →
      (∀ p ∈ ps, (s.party p).launch = n ∧ (s.party p).die < 8) →
      (∀ p ∈ ps, (s.party p).st = .ended ∧ s.arrivedClean p = true ∨ (s.party p).st = .running ∧ s.arrivedClean p = true ∧
        (∃ u, (s.party p).sstep = some u ∧ u.arrived = true ∧ u.level = level) ∧
          ∀ q ∈ ps, (s.party q).st = .running → (s.party q).past < (s.party p).ssteps) →
      ∃ t, exec (.superstepComplete n group level) s = .next t ∧ sameStorage s t ∧ samePads s t ∧
        ∀ p ∈ ps, (s.party p).st = .running → (t.party p).sstep = none ∧
          (∀ o ∈ t.ops, o.party = p → ∀ lev, o.kind ≠ .sstep lev) ∧
          ∀ e ∈ (t.core (s.party p).core).l1, e.2.owned = true

/-! Events: engines. -/

/-- R258, R271 to R274: the Courier reads a byte of a command's stream, writes a chunk into a scratchpad, and writes a byte to
memory, at once or into the party's held-store area; the flag counts a command once its last byte is read; a command that is done
leaves the queue, and a batch without commands completes, which ends a wait that it covers. -/
def Obligations.CourierMoves : Prop :=
  (∀ (s : State) (n core : Nat) (m : Cmd), tablesOk s = true → memoryOk s = true → s.cmd? n = some (core, m, true) →
    s.cmdSettled m = true →
    (m.done = true → exec (.courierCommandComplete n) s =
      .next ((s.healStaging fun c _ => c == n).modCore core fun c => { c with courier := c.courier.filter fun x => x.id ≠ n })) ∧
    (∀ j b, j < m.len → (∀ e ∈ m.got, e.1 ≠ j) → j ∉ m.flying → s.cmdClear m (s.sidePlace m.src j) = true → s.poison = [] →
      ((∃ c off, s.sidePlace m.src j = .sram c off ∧ b = mget (s.core c).sram off) ∨
        ∃ pa e, s.sidePlace m.src j = .home pa e ∧ addressable pa 1 = true ∧ s.isDead pa = false ∧
          m.die < 10 ∧ oneEpoch s m.asid.toNat m.stamp ∧ m.left = m.stamp ∧ calmL2 s ∧ (∀ h ∈ s.ownBytes m.party, h.pa ≠ pa) ∧
          b = nth (s.physBytes pa 1) 0 0) →
      ∃ t, exec (.courierSourceRead n j) s = .next t ∧ sameStorage s t ∧ samePads s t ∧
        (t.core core).courier = (s.core core).courier.map (fun x => if x.id = n then
          { x with got := x.got ++ [(j, b)], flying := x.flying.filter (· ≠ j), fe := if m.got.length + 1 < m.len then x.fe else none }
          else x) ∧
        (m.got.length + 1 < m.len → t.coaches = s.coaches) ∧
        (m.got.length + 1 = m.len → ∀ e, m.fe = some e.id → (s.coach m.coach).flags = [e] → (t.coach m.coach).flags = [])) ∧
    (∀ chunk sp bs, (m.kind = .ld ∨ m.kind = .m ∧ ∀ i, i < chunk % m.nchunks → chunk / m.nchunks * m.nchunks + i ∈ m.sent) →
      s.poison = [] → chunk ∉ m.sent → m.sps[chunk / m.nchunks]? = some sp → sp.bar = none →
      bs.length = m.chunkLen (chunk % m.nchunks) →
      (∀ j b, bs[j]? = some b → m.byte? (1024 * (chunk % m.nchunks) + j) = some b) →
      (∀ x ∈ s.earlierCmds core m, x.owesSp sp.core (sp.addr + 1024 * (chunk % m.nchunks)) bs.length = false) →
      (∀ j, j < bs.length → s.cmdClear m (.sram sp.core (sp.addr + 1024 * (chunk % m.nchunks) + j)) = true) →
      ∃ t, exec (.courierChunkDelivery n chunk) s = .next t ∧ sameStorage s t ∧
        written (s.core sp.core).sram (t.core sp.core).sram (sp.addr + 1024 * (chunk % m.nchunks)) bs ∧
        (∀ c, c ≠ sp.core → ∀ a, mget (t.core c).sram a = mget (s.core c).sram a) ∧
        (t.core core).courier = (s.core core).courier.map fun x => if x.id = m.id then { m with sent := m.sent ++ [chunk] } else x) ∧
    ∀ j b pa e, s.poison = [] → (m.kind = .st ∨ m.kind = .g) → (∃ sh co h, m.dst = .box sh co h) → j ∉ m.sent → m.byte? j = some b →
      m.len + j ∉ m.flying → s.sidePlace m.dst j = .home pa e → addressable pa 1 = true → s.owesMem m j (.home pa e) = false →
      s.cmdClear m (.home pa e) = true → (∀ x ∈ s.earlierCmds core m, s.owesMem x x.len (.home pa e) = false) →
      (m.held = false → m.die < 10 → (∀ c ∈ s.commits, c.party ≠ m.party) →
        plainHome s m.asid.toNat pa m.stamp →
        ∃ t, exec (.courierChunkDelivery n j) s = .next t ∧ written s.mem t.mem pa [b] ∧ t.host = s.host ∧ samePads s t) ∧
      (m.held = true → ∃ t h, exec (.courierChunkDelivery n j) s = .next t ∧ sameStorage s t ∧ samePads s t ∧
        (t.party m.party).held = joinHeld (s.party m.party).held m.id [h] ∧ h.pa = pa ∧ h.b = b ∧ h.op = m.id)) ∧
  ∀ (s : State) (k : Nat),
    let c := s.coach k
    let b := c.cb + 1
    let upTo (x y : Word) : Prop := (y - x).toNat < 2 ^ 31
    c.present = true → upTo b (c.nb - 1) → c.more = [] →
    (∀ m ∈ (s.core (coreOf k)).courier, ¬ (m.coach = k ∧ m.party = c.party ∧ m.batch = b)) →
    (∀ n, c.stop = .cwait n → upTo n b → exec (.batchComplete k) s =
      .next (s.putCoach k { c with cb := b, stop := .none, next := max c.next (s.now k + 1) })) ∧
    ((∀ n, c.stop = .cwait n → ¬ upTo n b) → exec (.batchComplete k) s = .next (s.putCoach k { c with cb := b }))

/-- R281, R283, R286, R295, R296: at its start MZERO zeroes its accumulator, MWR writes its rows, MRD latches them and MSTREAM takes
a tile from the A-operand queue; lodgings that meet start together, and when they are counted every wing of the core holds the four
runs; at its end MRD writes its registers, MSTREAM its accumulator and MSCALE its table; a stream that has waited 4,096 cycles is recorded once. -/
def Obligations.MatrixOperationsRun : Prop :=
  ∀ (s : State) (w : Nat), tablesOk s = true → s.poison = [] →
    let x := s.wing w
    let die := s.die (dieOfCore (coreOfWing w))
    (∀ (o : MOp) (rest : List MOp), x.mq = o :: rest → die.gated = false → x.canStart die.cycle o = true → srising 0 x.acc = true →
      (∀ fmt regs, o.kind ≠ .lodge fmt regs) →
      ∃ t, exec (.matrixOpStart w) s = .next t ∧ sameStorage s t ∧ samePads s t ∧ t.coaches = s.coaches ∧ (t.wing w).mq = rest ∧
        (t.wing w).arrayFree = die.cycle + o.kind.occ ∧ (∀ v, v ≠ w → t.wing v = s.wing v) ∧
        (∃ r, (t.wing w).mrun.map (·.op) = x.mrun.map (·.op) ++ [o] ∧ (t.wing w).mrun.getLast? = some r ∧ r.op = o ∧ r.due = die.cycle + o.kind.total ∧
          (∀ a regs r0 nr z, o.kind = .rd a regs r0 nr z →
            r.words = (List.range (64 * nr)).map fun i => sget 0 x.acc (1024 * a + 64 * r0 + i)) ∧
          (∀ a fmt cl z, o.kind = .stream a fmt cl z → some r.bytes = tile? x.drover ∧ (t.wing w).drover.sa = x.drover.sa.drop 16)) ∧
        (∀ a q, o.kind = .zero a → sget 0 (t.wing w).acc q = if q / 1024 = a then 0 else sget 0 x.acc q) ∧
        (∀ a regs r0 nr q, o.kind = .wr a regs r0 nr → sget 0 (t.wing w).acc q =
          if 1024 * a + 64 * r0 ≤ q ∧ q < 1024 * a + 64 * r0 + 64 * nr then nth o.was (q - (1024 * a + 64 * r0)) 0
          else sget 0 x.acc q)) ∧
    (∀ (p : Nat) (l : List (MOp × BitVec 4 × List Nat)), (s.party p).core = coreOfWing w → die.gated = false →
      s.fourOwners (coreOfWing w) p = true → s.rendezvous? (coreOfWing w) = some l →
      ∃ t, exec (.mlodgeRendezvous p) s = .next t ∧ sameStorage s t ∧ samePads s t ∧ t.coaches = s.coaches ∧
        ∀ i e, l[i]? = some e →
          let y := s.wing (4 * coreOfWing w + i)
          let z := t.wing (4 * coreOfWing w + i)
          z.lodged = true ∧ z.lfmt = e.2.1 ∧ z.lodges = y.lodges + 1 ∧ z.mq = y.mq.drop 1 ∧ z.arrayFree = die.cycle + 40 ∧
            ∃ r, z.mrun = y.mrun ++ [r] ∧ r.op = e.1 ∧ r.start = die.cycle ∧ r.due = die.cycle + 12) ∧
    (∀ (n : Nat) (r : MRun) (fmt : BitVec 4) (regs : List Nat), x.mrun.find? (fun q => q.op.id = n) = some r → die.gated = false →
      r.due ≤ die.cycle → r.op.kind = .lodge fmt regs →
      let l := s.lodgings (coreOfWing w) r.start
      l.length = 4 → ∃ t, exec (.matrixOpComplete w n) s = .next t ∧ sameStorage s t ∧ samePads s t ∧
        ∀ e ∈ l, (∀ q ∈ (t.wing e.1).mrun, q.op.id ≠ e.2.1.op.id) ∧ ∀ q, sget 0 (t.wing e.1).lodge q =
          nth (l.flatMap fun y => (List.range 1536).map fun i => nth y.2.1.op.was i 0) q 0) ∧
    (∀ (n : Nat) (r : MRun) (e : FlagEntry), x.mrun.find? (fun q => q.op.id = n) = some r → die.gated = false → r.due ≤ die.cycle →
      let c := s.coach r.op.coach
      (∀ fmt regs, r.op.kind ≠ .lodge fmt regs) → c.flags = [e] → r.op.fe = e.id → unbeaten c e.seq →
      (∀ q ∈ x.mrun, q.op.id ≠ n → q.op.kind.sources = []) →
      ∃ t, exec (.matrixOpComplete w n) s = .next t ∧ sameStorage s t ∧ samePads s t ∧ (t.coach r.op.coach).flags = [] ∧
        (∀ q ∈ (t.wing w).mrun, q.op.id ≠ n) ∧
        (∀ a regs r0 nr z, r.op.kind = .rd a regs r0 nr z → regs.Nodup → srising 0 c.v = true → (t.wing w).acc = x.acc ∧
          ∀ reg l, l < c.width → l < 64 → sget 0 (t.coach r.op.coach).v (64 * reg + l) =
            match regs.idxOf? reg with
            | some j => nth r.words (c.width * j + l) 0
            | none => sget 0 c.v (64 * reg + l)) ∧
        (∀ a fmt cl z, r.op.kind = .stream a fmt cl z → srising 0 x.acc = true → ∀ q, sget 0 (t.wing w).acc q =
          if q / 1024 = a then nth (r.result a fmt cl z x.acc).1 (q % 1024) 0 else sget 0 x.acc q) ∧
        (∀ reg ctl, r.op.kind = .scale reg ctl →
          let ws := scaleWrites ctl r.op.lanes r.op.was
          if mscaleB ctl then (t.wing w).bstage = ssetAll 0 x.bstage ws ∧ (t.wing w).atab = x.atab
          else (t.wing w).atab = ssetAll 0 x.atab ws ∧ (t.wing w).bstage = x.bstage)) ∧
    ∀ (o : MOp) (u : Nat), x.starving = some o → x.starve = some (u, false) → u + 4096 ≤ die.cycle →
      ∃ t, exec (.mstarve w) s = .next t ∧ sameStorage s t ∧ samePads s t ∧ t.coaches = s.coaches ∧
        (t.wing w).starve = some (u, true) ∧ (t.wing w).mq = x.mq ∧
        ((s.core (coreOf o.coach)).statq.length < 255 → ∃ r ∈ (t.core (coreOf o.coach)).statq, r.d0.toNat % 256 = 0x31 ∧ r.d1 = o.addr)

/-- R308, R310, R315: a running walk reserves a slot in every queue that reads in its iteration and goes on to the next; the bytes of
a beat arrive from scratchpad or memory; a walk whose iterations are all issued and whose beats have all arrived is idle, and its
flag counts; a suspended walk that a later DGO took over is counted once its own beats have arrived. -/
def Obligations.DroverWalks : Prop :=
  ∀ (s : State) (w : Nat), tablesOk s = true →
    let d := (s.wing w).drover
    (let die := s.die (dieOfCore (coreOfWing w))
      let is := indicesOf d.active d.pos
      d.st = .running → d.pos < iterations d.active → die.gated = false → d.next ≤ die.cycle → d.cycle + 2 ≤ die.cycle →
      s.walkLives d = true → (∀ st ∈ d.reads is, (d.queue st).length < queueCap st) →
      ∃ t, exec (.droverIteration w) s = .next t ∧ sameStorage s t ∧ samePads s t ∧ t.coaches = s.coaches ∧
        let e := (t.wing w).drover
        e.pos = d.pos + 1 ∧ e.st = .running ∧ e.next = die.cycle + 1 ∧
          ∀ st ∈ [6, 7, 8], if st ∈ d.reads is then
              ∃ b, e.queue st = d.queue st ++ [b] ∧ b.here = false ∧ b.bytes = [] ∧ b.len = beatSize (s.coach d.coach).width st ∧
                b.place = (let a := streamAddr d.active st is
                  if streamMem d.active st then s.handlePlace (sget Handle.blank d.hs st) a
                  else .sram (s.party (s.coach d.coach).party).core ((s.party (s.coach d.coach).party).base + a))
            else e.queue st = d.queue st) ∧
    (∀ (n st : Nat) (b : Beat), d.beat? n = some (st, b) → b.here = false → b.asked = false → b.cached = false → s.poison = [] →
      (s.die (dieOf b.coach)).gated = false → d.cycle + 2 ≤ (s.die (dieOf b.coach)).cycle →
      s.ahead (s.coach b.coach).asid.toNat (dieOf b.coach) b.stamp = false →
      let off := b.bytes.length
      (∀ c o, b.place = .sram c o →
        let m := min (b.len - off) (8 - (o + off) % 8)
        s.walkClear b (.sram c (o + off)) m = true →
        exec (.droverBeatArrival w n) s = .next (s.putBeat w st (b.join (mgets (s.core c).sram (o + off) m)))) ∧
      (∀ pa enc, b.place = .home pa enc →
        let m := min (b.len - off) (8 - (pa + off) % 8)
        s.walkClear b (.home (pa + off) enc) m = true → addressable (pa + off) m = true → s.isDead (pa + off) = false →
        dieOf b.coach < 10 → oneEpoch s (s.coach b.coach).asid.toNat b.stamp → b.left = b.stamp → calmL2 s →
        (∀ h ∈ s.ownBytes (s.coach b.coach).party, h.pa < pa + off ∨ pa + off + m ≤ h.pa) →
        ∃ t, exec (.droverBeatArrival w n) s = .next t ∧ sameStorage s t ∧ samePads s t ∧ t.coaches = s.coaches ∧
          ∃ z, (t.wing w).drover.beat? n = some (st, z) ∧ z.bytes = b.bytes ++ s.physBytes (pa + off) m ∧
            z.here = decide (b.len ≤ b.bytes.length + m))) ∧
    (∀ (k f go : Nat) (e : FlagEntry), d.old = [(k, f, go)] → (∀ b ∈ d.sa ++ d.q0 ++ d.q1, b.go = go → b.here = true) → e.id = f →
      (s.coach k).flags = [e] →
      ∃ t, exec (.droverWalkEnd w) s = .next t ∧ sameStorage s t ∧ samePads s t ∧ (t.coach k).flags = [] ∧
        (t.wing w).drover = { d with old := [] }) ∧
    ∀ e : FlagEntry, d.old = [] → d.arrived = true → d.fe = some e.id → (s.coach d.coach).flags = [e] →
      (d.st = .running ∧ iterations d.active ≤ d.pos ∨ d.st = .suspended) →
      ∃ t, exec (.droverWalkEnd w) s = .next t ∧ sameStorage s t ∧ samePads s t ∧ (t.coach d.coach).flags = [] ∧
        (t.wing w).drover = { d with st := if d.st = .running then .idle else .suspended, fe := none }

/-! Events: the translation command queue. -/

/-- R200 to R203: the coordinator takes the next command and advances CONS; CONTEXT records the job's context and PRESP answers a
request; at its invalidation point a core empties the matching handles, or blocks writes through them; the command completes once
every core has passed its point and what came before is performed, with DONE, bit 63 set if it was refused. -/
def Obligations.TranslationCommands : Prop :=
  ∀ (s : State), tablesOk s = true → memoryOk s = true →
    (s.tcq = none → 2 ≤ s.cfg.st → quietQueue s s.cfg.tcq →
      (s.queueHead s.cfg.tcq = .nothing → exec .tcqTake s = .next { s with tcqBad := none }) ∧
      (∀ b n, s.queueHead s.cfg.tcq = .malformed b n → s.tcqBad = some (b, n) → exec .tcqTake s = .next s) ∧
      (∀ slot cons pa e, s.queueHead s.cfg.tcq = .command slot cons → s.sysPlace (s.cfg.tcq + 24) = .home pa e → quietHome s 0 pa →
        s.stalled = [] →
        ∃ (t : State) (c : TcqCmd), exec .tcqTake s = .next t ∧ t.tcq = some c ∧ c.done = c.refused ∧ c.passed = [] ∧ c.host = false ∧
          (∀ i, i < 8 → c.arg i = s.sysDbl (slot + 8 * i)) ∧
          (c.refused = true ↔ tcqMalformed c = true ∨ c.kind ≠ 1 ∧ (s.job c.asid).present = false) ∧
          written s.mem t.mem pa (leBytes ((cons + 1) % 2 ^ 32) 8)) ∧
      (∀ pasid va len, s.jobs.find? (fun e => e.2.present && e.2.pasid == pasid) = none →
        exec (.atsInvalidation pasid va len) s = .next { s with hostOut := s.hostOut ++ [leBytes pasid 4] }) ∧
      (∀ pasid va len a j, s.jobs.find? (fun e => e.2.present && e.2.pasid == pasid) = some (a, j) → a < 2 ^ 16 →
        ∃ c : TcqCmd, exec (.atsInvalidation pasid va len) s = .next { s with tcq := some c } ∧ c.kind = 2 ∧ c.asid = a ∧
          c.arg 1 = BitVec.ofNat 64 va ∧ c.arg 2 = BitVec.ofNat 64 len ∧ c.host = true ∧ c.done = false ∧ c.passed = [])) ∧
    ∀ c : TcqCmd, s.tcq = some c →
      (c.kind = 1 → c.done = false → s.noteSys s.cfg.jobtab 2048 = s →
        (s.jobEntry? c.asid = none → exec .context s = .next { s with tcq := some { c with refused := true, done := true } }) ∧
        (∀ i e, s.jobEntry? c.asid = some (i, e) → ∃ t, exec .context s = .next t ∧ sameStorage s t ∧
          t.tcq = some { c with done := true } ∧
          let j := t.job c.asid
          j.present = true ∧ j.root = (c.arg 1).toNat ∧ j.key.toNat = (c.arg 2).toNat / 2 ^ 40 % 2 ^ 8 ∧
            j.pasid = (c.arg 2).toNat / 2 ^ 20 % 2 ^ 20 ∧ j.notifq = (c.arg 3).toNat ∧ j.pageq = (c.arg 4).toNat ∧
            j.pkgs = (nth e 1 0).toNat ∧ j.index = i ∧ j.meas = List.replicate 32 0 ∧ ∀ a, a ≠ c.asid → t.job a = s.job a)) ∧
      (∀ r o, c.kind = 4 → c.done = false →
        s.pageReqs.find? (fun x => x.tag == dbits (c.arg 1) 15 0 && !x.host && x.asid.toNat == c.asid) = some r → s.op? r.op = some o →
        ∃ t, exec .presp s = .next t ∧ sameStorage s t ∧ t.tcq = some { c with done := true } ∧ t.op? r.op = none ∧
          (∀ x ∈ t.pageReqs, x.op ≠ r.op) ∧ ∀ e, (s.coach o.coach).flags = [e] → o.fe = some e.id → (t.coach o.coach).flags = []) ∧
      (∀ (i : Instr) (core : Nat), c.kind = 2 ∧ i = .inval core ∨ c.kind = 3 ∧ i = .wbset core ∨ c.kind = 5 ∧ i = .release core →
        c.done = false → core < 520 → core ∉ c.passed → (s.die (dieOfCore core)).gated = false →
        ∃ t, exec i s = .next t ∧ sameStorage s t ∧ samePads s t ∧
          (∃ d : TcqCmd, t.tcq = some d ∧ d = { c with passed := c.passed ++ [core], awaitOps := d.awaitOps }) ∧
          (∀ h ∈ (t.core core).tcache, h.hit c.asid c.lo c.hi = false) ∧
          (∀ k, coreOf k ≠ core → t.coach k = s.coach k) ∧
          ∀ k n, coreOf k = core → (s.coach k).present = true → (s.coach k).asid.toNat = c.asid → srising 0 (s.coach k).h = true → n < 16 →
            let h := sget Handle.blank (s.coach k).h n
            let matching : Prop := (h.st = .valid ∨ h.st = .absent ∨ h.st = .poisoned) ∧ h.asid.toNat = c.asid ∧
              h.vbase.toNat < c.hi ∧ c.lo < h.vbase.toNat + pageBytes h.size
            (matching → sget Handle.blank (t.coach k).h n =
              if c.kind = 3 then (if h.st = .valid then { h with wb := true } else h) else Handle.blank) ∧
            (¬ matching → sget Handle.blank (t.coach k).h n = h)) ∧
      ((c.done = true ∨ (c.kind = 2 ∨ c.kind = 3 ∨ c.kind = 5) ∧ c.passed.length = 520 ∧ s.stillWaits c.awaitOps = false) → c.asid ≠ 0 →
        ∃ t, exec .tcqCommandComplete s = .next t ∧ t.tcq = none ∧
          (c.kind = 5 → c.refused = false → t.job c.asid = Job.blank ∧ ∀ e ∈ t.keys, e.2.asid.toNat ≠ c.asid) ∧
          (c.host = true → sameStorage s t ∧ (c.kind ≠ 5 → t.hostOut = s.hostOut ++ [leBytes (s.job c.asid).pasid 4])) ∧
          (∀ pa e, c.host = false → s.sysPlace (s.cfg.tcq + 32) = .home pa e → quietHome s 0 pa → s.stalled = [] →
            written s.mem t.mem pa (leBytes (c.seqNo + if c.refused then 2 ^ 63 else 0) 8)))

/-! Events: the host port, boot and maintenance. -/

/-- R376 to R382, R189, R229: what the host reads and writes through BAR0 and BAR2; the driver's fields, accepted while STATE is 2;
negotiation; the liveness bitmap, a region that turns live reading zero; boot to STATE 2 with a steward on every compute die and the
identity and firmware digests, or to recovery with the cause of the first step that fails, where an image that the vendor root key signed is
taken. Which number the command has and which result refuses it is the model's choice (log 88). -/
def Obligations.HostAndBoot : Prop :=
  ∀ (s : State), tablesOk s = true → memoryOk s = true →
    (∀ fn off, fn ≤ 8 → off < 2 ^ 26 → off % 8 = 0 →
      (fn = 0 → off < 0x1C8 → exec (.hostBarAccess ⟨fn, 0, off, .read 8⟩) s =
        .next { s with hostOut := s.hostOut ++ [0 :: leBytes (s.cfgRead off).toNat 8] }) ∧
      (fn ≠ 0 → off ≠ 0x180 + 8 * fn → exec (.hostBarAccess ⟨fn, 0, off, .read 8⟩) s =
        .next { s with hostOut := s.hostOut ++ [0 :: List.replicate 8 0] })) ∧
    (∀ fn off n, fn ≤ 8 → 2 ≤ s.cfg.st → s.bar2Reaches fn off n = true → s.isDead off = false → n ≤ 1024 → calmL2 s →
      ∃ t, exec (.hostBarAccess ⟨fn, 2, off, .read n⟩) s = .next t ∧ sameStorage s t ∧ samePads s t ∧ t.coaches = s.coaches ∧
        t.hostOut = s.hostOut ++ [0 :: s.physBytes off n]) ∧
    (∀ fn off n, fn ≤ 8 → 2 ≤ s.cfg.st → s.bar2Reaches fn off n = false →
      exec (.hostBarAccess ⟨fn, 2, off, .read n⟩) s = .next { s with hostOut := s.hostOut ++ [[1]] }) ∧
    (∀ fn off bs, fn ≤ 8 → 2 ≤ s.cfg.st → s.bar2Reaches fn off bs.length = true → s.hostMayPut off bs.length = true →
      0 < bs.length → bs.length ≤ 1024 → (∀ i, i < bs.length → quietHome s 0 (off + i)) → calmL2 s →
      ∃ t, exec (.hostBarAccess ⟨fn, 2, off, .write bs⟩) s = .next t ∧ written s.mem t.mem off bs ∧ t.host = s.host ∧ samePads s t) ∧
    (∀ off v, s.cfg.st ≠ 2 → exec (.configWrite off v) s = .next s) ∧
    (∀ v, s.cfg.st = 2 → v < 2 ^ 64 →
      exec (.configWrite 0xF0 v) s = .next { s with cfg := { s.cfg with tcq := v } } ∧
      exec (.configWrite 0xF8 v) s = .next { s with cfg := { s.cfg with errlog := v } } ∧
      exec (.configWrite 0x100 v) s = .next { s with cfg := { s.cfg with kmq := v } } ∧
      exec (.configWrite 0x108 v) s = .next { s with cfg := { s.cfg with jobtab := v } } ∧
      exec (.configWrite 0x110 v) s = .next { s with cfg := { s.cfg with livemap := v } } ∧
      ∀ i, i < 8 → ∃ m, exec (.configWrite (0xA0 + 8 * i) v) s = .next { s with cfg := { s.cfg with disable := m } } ∧
        ∀ b, b < 512 → m.getLsbD b = if b / 64 = i then v.testBit (b % 64) else s.cfg.disable.getLsbD b) ∧
    (s.cfg.st ≠ 2 → exec .negotiate s = .next s) ∧
    (s.cfg.st = 2 → ∃ m, exec .negotiate s = .next { s with cfg := { s.cfg with st := 3, negmask := m } } ∧
      ∀ b, b < 512 → m.getLsbD b = (b == 0 || s.cfg.devmask.getLsbD b && !s.cfg.disable.getLsbD b)) ∧
    (∀ fn base rs ao, fn ≤ 8 → exec (.barProgramming fn base rs ao) s = .next { s with
      bars := sset BarFn.blank s.bars fn { base := some (base / 2 ^ 40 * 2 ^ 40), ranges := rs, atomicOp := ao } }) ∧
    (2 ≤ s.cfg.st → s.cfg.livemap ≠ 0 → srising 0 s.dead = true →
      (∀ e, ({ s with env := e } : State).noteSys s.cfg.livemap 49152 = { s with env := e }) →
      let live (r : Nat) : Bool := (nth (s.plainRead (s.sysPlace (s.cfg.livemap + r / 8)) 1) 0 0).getLsbD (r % 8)
      ∃ t, exec .livegenWrite s = .next t ∧ t.host = s.host ∧ t.cores = s.cores ∧ t.coaches = s.coaches ∧
        (∀ r, r < 393216 → (sget 0 t.dead r = 0 ↔ live r = true)) ∧
        ∀ a, a < memEnd → mget t.mem a = if live (a / 2 ^ 21) = true ∧ sget 0 s.dead (a / 2 ^ 21) ≠ 0 then 0 else mget s.mem a) ∧
    (∀ o : BootInput, s.cfg.st = 1 →
      (s.bootCause o = if s.bootSeed o = none then 3 else if s.flash.vouches s.flash.image s.flash.imageSig = false then 1
        else if s.flash.vouches s.flash.record s.flash.recordSig = false then 2 else if Config.recordRepair s.flash.record = false then 4
        else if o.hbm = false then 5 else if o.links = false then 6 else 0) ∧
      (s.bootCause o ≠ 0 → exec (.boot o) s = .next { s with cfg := { s.cfg with st := 0, cause := s.bootCause o } }) ∧
      (s.bootCause o = 0 → ∃ t seed, s.bootSeed o = some seed ∧ exec (.boot o) s = .next t ∧ sameStorage s t ∧ t.cfg.st = 2 ∧ t.cfg.cause = 0 ∧
        t.cfg.iddig = Config.shake256 (Config.xmssPublic seed) ∧ t.cfg.fwdig = Config.shake256 s.flash.image ∧ t.tick = o.tick % 2 ^ 64 ∧
        t.limits.current ≤ 2000 ∧ t.limits.power ≤ 8000 ∧ t.limits.junction ≤ 105 ∧
        ∀ d, d < 8 → let c := t.coach ((512 + d) * 64); c.present = true ∧ c.priv = true ∧ c.asid = 0 ∧ c.live ≠ 0)) ∧
    ∀ img sig,
      (s.cfg.st ≠ 0 → exec (.recoveryImageWrite img sig) s = .next s) ∧
      (s.cfg.st = 0 → s.mbox.busy = true → s.mbox.code = imageCode →
        (s.flash.vouches img sig = true → exec (.recoveryImageWrite img sig) s =
          .next (mailDone { s with flash := { s.flash with image := img, imageSig := sig } } 0)) ∧
        (s.flash.vouches img sig = false → exec (.recoveryImageWrite img sig) s = .next (mailDone s 1)))

/-- R228, R356, R364, R389: refreshes, refresh management, scrubbing, the limiters, the 16,000 A of all dies together, and the stop at
115 °C, over which stopped dies stay stopped. -/
def Obligations.MemoryUpkeepAndLimits : Prop :=
  ∀ (s : State),
    (∀ ch, exec (.refresh ch) s = .next { s with refreshOwed := sset 0 s.refreshOwed ch (sget 0 s.refreshOwed ch - 1) }) ∧
    (∀ ch, srising 0 s.refreshOwed = true → srising 0 s.refreshAlert = true →
      ∃ t, exec (.refreshAlert ch) s = .next t ∧ sameStorage s t ∧
        sget 0 t.refreshOwed ch = (if sget 0 s.refreshOwed ch = 8 then 0 else sget 0 s.refreshOwed ch) ∧
        sget 0 s.refreshAlert ch < sget 0 t.refreshAlert ch ∧ sget 0 t.refreshAlert ch ≤ sget 0 s.refreshAlert ch + 4) ∧
    (∀ x : Site, s.cfg.errlog = 0 → x ∉ s.poison → ∃ t, exec (.scrub x) s = .next t ∧ sameStorage s t ∧ t.cores = s.cores ∧
      t.coaches = s.coaches ∧ (t.poison = s.poison ∨ t.poison = s.poison ++ [x])) ∧
    (∀ x : Site, x ∈ s.poison → (x ∉ s.latent → exec (.scrub x) s = .next s) ∧
      (x ∈ s.latent → s.cfg.errlog = 0 → exec (.scrub x) s = .next { s with latent := s.latent.filter (· != x) })) ∧
    (∀ die current, die < 8 → srising 0 s.dies = true → srising 0 s.amps = true →
      let total := ((List.range 8).map fun d => if d = die then current else sget 0 s.amps d).sum
      (s.limits.current < current ∨ 16000 < total → ∃ t, exec (.currentLimit die current) s = .next t ∧ 850 ≤ (t.die die).mhz ∧
        (850 < (s.die die).mhz → (t.die die).mhz < (s.die die).mhz)) ∧
      (current ≤ s.limits.current → total ≤ 16000 → ∃ t, exec (.currentLimit die current) s = .next t ∧ (t.die die).mhz = 1700)) ∧
    (∀ power, (s.limits.power < power → exec (.thermalLimit power) s = .next { s with thermal := max 850 (s.thermal - 50) }) ∧
      (power ≤ s.limits.power → exec (.thermalLimit power) s = .next { s with thermal := min 1700 (s.thermal + 50) })) ∧
    ∀ t, (115 ≤ t → ∃ u, exec (.junctionLimit t) s = .next u ∧ u.cfg = State.reset.cfg ∧ u.coaches = [] ∧ u.mem = [] ∧ u.cores = [] ∧
        u.flash = s.flash ∧ u.host = s.host ∧ (srising 0 s.dies = true → ∀ d, (u.die d).gated = (s.die d).gated)) ∧
      (s.limits.junction < t → t < 115 → exec (.junctionLimit t) s = .next { s with cooling := max 850 (s.cooling - 50) }) ∧
      (t ≤ s.limits.junction → t < 115 → exec (.junctionLimit t) s = .next { s with cooling := min 1700 (s.cooling + 50) })

/-! Events: links, generations and rollbacks. -/

/-- R244, R333, R336, R354, R360, R379: a waymark cuts the die that it reaches, once; a peer's read, write and atomic are performed at
their home and answered; a link that goes down stops the jobs that use it; a port that is trained comes up; a silent package
aborts the generation that it has not drained. -/
def Obligations.LinksCarryItems : Prop :=
  ∀ (s : State), tablesOk s = true → memoryOk s = true →
    (∀ (link : Nat) (o : LinkItem), isDieLink link = true →
      let n := (s.job o.asid).snap
      let a := linkStart link
      let b := linkEnd link
      s.linkUp link = true → n.running = true → (s.cutOf o.asid a).cut = true →
      link ∉ (s.cutOf o.asid b).seen → s.oldOnTheWay o.asid b = false → (s.cutOf o.asid b).delayed = none →
      s.delayers o.asid b = [] → cutsOk s o.asid →
      ∃ t, exec (.waymarkArrival link o) s = .next t ∧ sameStorage s t ∧ samePads s t ∧ t.coaches = s.coaches ∧
        (t.cutOf o.asid b).cut = true ∧ link ∈ (t.cutOf o.asid b).seen ∧
        t.epochOf o.asid b = if (s.cutOf o.asid b).cut then s.epochOf o.asid b else (s.epochOf o.asid b + 1) % 256) ∧
    (∀ (link asid epoch req pa : Nat), link < 16 → s.linkUp link = true → (s.job asid).ports.getLsbD link = true →
      (s.job asid).snap.rollback = false → oneEpoch s asid epoch → addressable pa 1 = true → s.isDead pa = false → calmL2 s → s.poison = [] →
      let item (b : LinkBody) : LinkItem := { asid := asid, epoch := epoch, index := (s.job asid).index, body := b }
      let at_ (b : LinkBody) : Instr := .linkItemArrival link (item b)
      let back (b : LinkBody) : Nat × LinkItem := (link, item b)
      (∀ len, 0 < len → len ≤ 1024 → addressable (pa + len - 1) 1 = true → ∃ t, exec (at_ (.read req pa len)) s = .next t ∧ sameStorage s t ∧
        samePads s t ∧ t.coaches = s.coaches ∧ t.linkOut = s.linkOut ++ [back (.readResp req (mgets s.mem pa len))]) ∧
      (∀ b, plainHome s asid pa epoch → ∃ t, exec (at_ (.write req pa [(0, b)])) s = .next t ∧ written s.mem t.mem pa [b] ∧
        t.host = s.host ∧ samePads s t ∧ t.linkOut = s.linkOut ++ [back (.ack req)]) ∧
      (∀ opc v c, plainHome s asid pa epoch →
        let m : Word := BitVec.ofNat 32 (leNat (mgets s.mem pa 4))
        ∃ t, exec (at_ (.atomic req opc [(pa, v, c)])) s = .next t ∧
          written s.mem t.mem pa (leBytes (atomOp opc m v c).toNat 4) ∧ t.host = s.host ∧ samePads s t ∧
          t.linkOut = s.linkOut ++ [back (.atomicResp req [m])])) ∧
    (∀ link, isLink link = true → srising 0 s.linksDown = true → (∃ l ∈ bothWays link, s.linkUp l = true) →
      ∃ t, exec (.linkDown link) s = .next t ∧ (∀ l ∈ bothWays link, t.linkUp l = false) ∧
        (∀ e ∈ t.linkOut, e ∈ s.linkOut → e.1 ∉ bothWays link) ∧
        ∀ k, let c := s.coach k
          c.present = true → c.asid ≠ 0 → (s.job c.asid.toNat).present = true → (s.party c.party).launch ≠ 0 →
          (1000 ≤ link ∨ (s.job c.asid.toNat).ports.getLsbD link = true) → (t.coach k).halted = true) ∧
    (∀ link, (∀ l ∈ bothWays link, s.linkUp l = false) → exec (.linkDown link) s = .next s.tickFree) ∧
    (∀ port i e, port < 16 → s.linkUp port = false → 2 ≤ s.cfg.st → i < 64 → s.jobEntryAt? i = some e →
      (nth e 2 0).getLsbD port = true → srising 0 s.linksDown = true → s.tick < 2 ^ 64 →
      ∃ t, exec (.ualinkTraining port) s = .next t ∧ sameStorage s t ∧ t.linkUp port = true ∧ s.tick ≤ t.tick ∧ t.tick < 2 ^ 64) ∧
    ∀ asid package, (s.job asid).present = true → (s.job asid).snap.running = true → (s.job asid).snap.coord = (s.job asid).pkg →
      package < (s.job asid).pkgs → package ≠ (s.job asid).pkg → (package, 1) ∉ (s.job asid).snap.reports → cutsOk s asid →
      ∃ t, exec (.heartbeatTimeout asid package) s = .next t ∧ aborted t asid 4

/-- R334, R337, R343, R344, R347, R352: a cut that is delayed for 2 ms aborts its generation; reports and verdicts; the next granule
goes to its slot with its manifest entry; a die notes a rollback notice. -/
def Obligations.GenerationsProceed : Prop :=
  ∀ (s : State), tablesOk s = true →
    (∀ asid die u, (s.cutOf asid die).delayed = some u → u + 3400000 ≤ s.tick → (s.job asid).snap.running = true → cutsOk s asid →
      ∃ t, exec (.cutDelayTimeout asid die) s = .next t ∧
        if (s.job asid).snap.coord = (s.job asid).pkg then (s.job asid).snap.asked = false → aborted t asid 1
        else (t.job asid).snap.asked = true ∧ (t.job asid).snap.state = (s.job asid).snap.state) ∧
    (∀ (o : LinkItem) (a : Nat) (d0 d1 d2 d3 : Dbl), o.body = .packet d0 d1 d2 d3 → s.jobOfTag (dbits d0 63 32) = some a →
      let j := s.job a
      let n := j.snap
      let code := dbits d1 47 40
      n.running = true → dbits d1 31 0 = n.gen % 2 ^ 32 →
      (dbits d0 7 0 = 2 → n.coord = j.pkg →
        let r := (dbits d0 25 16, code)
        let rs := if n.reports.contains r then n.reports else n.reports ++ [r]
        let all (c : Nat) : Prop := ∀ q, q < j.pkgs → (q, c) ∈ rs
        ∃ t, exec (.packageReport o) s = .next t ∧
          (code = 3 → cutsOk s a → aborted t a (dbits d1 55 48)) ∧
          (code ≠ 3 → sameStorage s t ∧ (t.job a).snap.reports = rs ∧
            (all 0 → all 1 → (t.job a).snap.state = 3 ∧ (t.job a).snap.done = true) ∧
            (all 0 → ¬ all 1 → (t.job a).snap.state = 2) ∧ (¬ all 0 → (t.job a).snap.state = n.state))) ∧
      (dbits d0 7 0 = 3 → n.coord ≠ j.pkg →
        (code = 0 → ∃ t c, exec (.verdict o) s = .next t ∧ sameStorage s t ∧ t.coaches = s.coaches ∧
          (t.job a).snap = { n with cross := c, state := 2 }) ∧
        (code = 2 → ∃ t c, exec (.verdict o) s = .next t ∧ sameStorage s t ∧ t.coaches = s.coaches ∧
          (t.job a).snap = { n with cross := c, state := 3, cause := 0, stage := .off, done := true }) ∧
        (code = 3 → cutsOk s a → ∃ t, exec (.verdict o) s = .next t ∧ aborted t a (dbits d1 55 48)))) ∧
    (∀ asid va g key rest,
      let n := (s.job asid).snap
      asid < 65536 → n.running = true → n.stage = .granules → s.drainList asid = (va, g, false, key) :: rest → srising 0 s.granules = true →
      let body := s.granuleContent asid g
      let w := s.writeSlot asid n.slot body []
      ∃ t, exec (.granuleDrain asid) s = .next t ∧
        (w.2 = false → t = w.1.abortHere asid 3) ∧
        (w.2 = true → t.mem = w.1.mem ∧ t.host = w.1.host ∧ (t.granule asid g).p = false ∧
          (t.job asid).snap = { (w.1.job asid).snap with
            slot := (w.1.job asid).snap.slot + 1,
            manifest := (w.1.job asid).snap.manifest ++ (leBytes va 8 ++ leBytes 0 8 ++ digest body) })) ∧
    ∀ (link : Nat) (o : LinkItem), isDieLink link = true →
      let b := linkEnd link
      (s.job o.asid).snap.rollback = true → s.linkUp link = true → link ∉ (s.cutOf o.asid b).notices → srising 0 (s.job o.asid).snap.cuts = true →
      (∃ d l, d < 10 ∧ l ∈ s.jobLinksIn o.asid d ∧ l ∉ (s.cutOf o.asid d).notices ∧ (d, l) ≠ (b, link)) →
      exec (.rollbackNotice link o) s = .next (s.modCut o.asid b fun c => { c with notices := c.notices ++ [link] })

/-! Events: the debug mailbox and the key manager. -/

/-- R363 to R366, R359, R375: each command of the mailbox with the scope that it needs, and without it result 1. -/
def Obligations.MailboxCommands : Prop :=
  ∀ (s : State), s.mbox.busy = true →
    let m := s.mbox
    (∀ (code bit : Nat) (i : Instr), (code, bit, i) ∈ [(2, 0, .stopat), (3, 0, .scan), (4, 0, .resume), (5, 2, .dbgen), (6, 3, .lantern),
        (8, 1, .injwr)] → m.code = code → s.granted bit = false → exec i s = .next (mailDone s 1)) ∧
    (m.code = 1 →
      let g := mgets s.host (m.arg 0).toNat 96
      let nonce := g.drop 48
      let good : Prop := Config.xmssVerify (Config.recordDebugKey s.flash.record) g (mgets s.host ((m.arg 0).toNat + 96) 2820) = true ∧
        leNat (g.take 32) = s.cfg.iddig.toNat ∧ s.tick < leNat ((g.drop 40).take 8) ∧ nonce ∉ m.nonces
      (good → exec .auth s = .next { s with mbox := { m with
        grant := some { scope := BitVec.ofNat 64 (leNat ((g.drop 32).take 8)), expiry := leNat ((g.drop 40).take 8) },
        nonces := m.nonces ++ [nonce], stat := 0, busy := false } }) ∧
      (¬ good → exec .auth s = .next (mailDone s 1))) ∧
    (m.code = 2 → s.granted 0 = true → dbits (m.arg 1) 63 10 = 0 → m.arg 1 ≠ 0 → exec .stopat s =
      .next { s with mbox := { m with stops := m.stops ++ [((m.arg 0).toNat, (m.arg 1).setWidth 10)], stat := 0, busy := false } }) ∧
    (m.code = 3 → s.granted 0 = true →
      let target := (m.arg 0).toNat
      let core := bits target 14 12 * 64 + bits target 11 6
      ((s.die (bits target 14 12)).gated = false → exec .scan s = .next (mailDone s 2)) ∧
      ((s.die (bits target 14 12)).gated = true → bits target 63 60 = 2 → (m.arg 1).toNat < (768 - (s.core core).l1share) * 128 →
        (m.arg 1).toNat < 98304 →
        exec .scan s = .next { s with mbox := { m with
          data := BitVec.ofNat 64 (leNat (mgets (s.core core).sram (8 * (m.arg 1).toNat) 8)), stat := 0, busy := false } }) ∧
      ∀ v, (s.die (bits target 14 12)).gated = true → bits target 63 60 = 3 → (m.arg 1).toNat < 393216 →
        s.sliceDbl (32 * bits target 14 12 + bits target 4 0) (m.arg 1).toNat = some v →
        exec .scan s = .next { s with mbox := { m with data := v, stat := 0, busy := false } }) ∧
    (m.code = 4 → s.granted 0 = true → dbits (m.arg 1) 63 10 = 0 → srising 0 s.dies = true →
      ∃ t, exec .resume s = .next t ∧ sameStorage s t ∧ t.coaches = s.coaches ∧ t.mbox.busy = false ∧ t.mbox.stat = 0 ∧
        ∀ d, (t.die d).gated = ((s.die d).gated && !(decide (d < 10) && (m.arg 1).getLsbD d))) ∧
    (m.code = 5 → s.granted 2 = true → dbits (m.arg 0) 63 17 = 0 → srising 0 s.jobs = true →
      let a := dbits (m.arg 0) 15 0
      ∃ t, exec .dbgen s = .next t ∧ sameStorage s t ∧ t.coaches = s.coaches ∧ t.mbox.busy = false ∧ t.mbox.stat = 0 ∧
        (t.job a).dbgen = (m.arg 0).getLsbD 16 ∧
        ((m.arg 0).getLsbD 16 = false → ∀ e ∈ t.wings, (∀ b ∈ e.2.bps, b.2.asid.toNat ≠ a) ∧ ∀ b ∈ e.2.watches, b.2.asid.toNat ≠ a)) ∧
    (m.code = 6 → s.granted 3 = true →
      ((m.arg 0) = 0 → ∃ t, exec .lantern s = .next t ∧ sameStorage s t ∧ t.lantern = none ∧ t.mbox.busy = false ∧ t.mbox.stat = 0) ∧
      ((m.arg 0) ≠ 0 → dbits (m.arg 1) 63 5 = 0 → 10 ≤ dbits (m.arg 1) 4 0 → dbits (m.arg 1) 4 0 ≤ 24 → exec .lantern s =
        .next (mailDone { s with lantern := some ((m.arg 0).toNat, dbits (m.arg 1) 4 0) } 0)) ∧
      ((m.arg 0) ≠ 0 → (dbits (m.arg 1) 63 5 ≠ 0 ∨ dbits (m.arg 1) 4 0 < 10 ∨ 24 < dbits (m.arg 1) 4 0) →
        exec .lantern s = .next (mailDone s 2))) ∧
    (m.code = 7 →
      let j := s.injector (injOf (m.arg 0))
      (s.granted 1 = false → exec .injrd s = .next { s with mbox := { m with data := 0, stat := 1, busy := false } }) ∧
      (s.granted 1 = true → dbits (m.arg 0) 63 6 = 0 → dbits (m.arg 0) 3 3 = 0 →
        ∀ v, (dbits (m.arg 0) 5 4 = 0 ∧ v = j.ctl ∨ dbits (m.arg 0) 5 4 = 1 ∧ v = j.trig ∨
          dbits (m.arg 0) 5 4 = 2 ∧ v = j.cnt ∨ dbits (m.arg 0) 5 4 = 3 ∧ v = j.data) →
        exec .injrd s = .next { s with mbox := { m with data := v, stat := 0, busy := false } })) ∧
    (m.code = 8 → s.granted 1 = true → dbits (m.arg 0) 63 6 = 0 → dbits (m.arg 0) 3 3 = 0 →
      let i := injOf (m.arg 0)
      let j := s.injector i
      let reg := dbits (m.arg 0) 5 4
      (injOk reg j (m.arg 1) = false → exec .injwr s = .next (mailDone s 2)) ∧
      (injOk reg j (m.arg 1) = true → ∃ e : Injector, exec .injwr s =
          .next (mailDone { s with injectors := sset Injector.reset s.injectors i e } 0) ∧
        (reg = 0 → e.ctl = m.arg 1 ∧ ((m.arg 1).getLsbD 63 = true → j.ctl.getLsbD 63 = false → e.cnt = 0)) ∧
        (reg = 1 → e = { j with trig := m.arg 1 }) ∧ (reg = 3 → e = { j with data := m.arg 1 })))

/-- R359, R360, R364, R365, R375: dies stop together; a grant that expires ends the injectors, the lantern and the comparators, while
stopped dies stay; an injection short of taking its link down; a lantern tags the next bundle and records it. -/
def Obligations.DebugEvents : Prop :=
  ∀ (s : State),
    (∀ u mask die, (u, mask) ∈ s.mbox.stops → u ≤ s.tick → mask.getLsbD die = true → srising 0 s.dies = true →
      ∃ t, exec (.dieStop die) s = .next t ∧ sameStorage s t ∧ t.coaches = s.coaches ∧
        t.mbox.stops = s.mbox.stops.filter (fun e => decide (s.tick < e.1)) ∧
        (∀ d, d < 10 → ((t.die d).gated = true ↔ (∃ e ∈ s.mbox.stops, e.1 ≤ s.tick ∧ e.2.getLsbD d = true) ∨ (s.die d).gated = true)) ∧
        ∀ d, (t.die d).cycle = (s.die d).cycle) ∧
    (∀ g, s.mbox.grant = some g → g.expiry ≤ s.tick →
      ∃ t, exec .grantExpiry s = .next t ∧ sameStorage s t ∧ t.coaches = s.coaches ∧ t.dies = s.dies ∧ t.mbox.grant = none ∧
        t.lantern = none ∧ (∀ e ∈ t.injectors, e.2.ctl.getLsbD 63 = false) ∧
        (∀ e ∈ t.wings, e.2.bps = [] ∧ e.2.watches = []) ∧ ∀ e ∈ t.jobs, e.2.dbgen = false) ∧
    (∀ inj,
      let j := s.injector inj
      let link := dbits j.ctl 55 48
      j.ctl.getLsbD 63 = true → j.trig ≠ 0 → j.cnt = j.last → (∀ l ∈ injLinks inj link, s.linkUp l = true) → s.cfg.errlog = 0 →
      (dbits j.ctl 59 56 < 2 ∧ dbits j.ctl 15 0 < 8 ∨ 2 ≤ dbits j.ctl 59 56 ∧ dbits j.data 23 0 ≤ 1700000) →
      exec (.injectorFire inj) s = .next { s with injectors := sset Injector.reset s.injectors inj { j with
        ctl := j.ctl &&& 0x7FFFFFFFFFFFFFFF#64 } }.tickFree) ∧
    ∀ hdr e w, s.lantern = some (hdr, e) →
      let now := (s.die (dieOfCore (coreOfWing w))).cycle
      ((s.wing w).lanInt ≠ some (now / 2 ^ e) → Config.lanternPick w (now / 2 ^ e) e % 2 ^ e ≤ now % 2 ^ e →
        exec (.lanternSample w) s = .next (s.putWing w { s.wing w with lanInt := some (now / 2 ^ e), lanWant := true })) ∧
      (∀ g : Tagged, (s.wing w).tagged.find? (fun x => x.fin.isSome) = some g → tablesOk s = true →
        ∃ t, exec (.lanternRecord w) s = .next t ∧ (t.wing w).tagged = (s.wing w).tagged.erase g ∧
          ∀ k, sameRegisters (s.coach k) (t.coach k))

/-- R386: KMQ_TAKE takes the next command; KGEN makes a key for a job's slot that holds none; KSEAL, KIMPORT and KCLEAR use the slot;
each ends with its status and DONE, and a command for a job that does not exist with status 2. -/
def Obligations.KeyManagerCommands : Prop :=
  ∀ (s : State), (s.job 0).present = false →
    (∀ slot cons pa e, s.kmq = none → 2 ≤ s.cfg.st → quietQueue s s.cfg.kmq → s.queueHead s.cfg.kmq = .command slot cons →
      s.sysPlace (s.cfg.kmq + 24) = .home pa e → quietHome s 0 pa → s.stalled = [] →
      1 ≤ dbits (s.sysDbl slot) 7 0 → dbits (s.sysDbl slot) 7 0 ≤ 4 → dbits (s.sysDbl slot) 15 8 = 0 →
      ∃ (t : State) (c : TcqCmd), exec .kmqTake s = .next t ∧ t.kmq = some c ∧ c.slotAddr = slot ∧ (∀ i, i < 8 → c.arg i = s.sysDbl (slot + 8 * i)) ∧
        t.mem = msets s.mem pa (leBytes ((cons + 1) % 2 ^ 32) 8)) ∧
    ∀ c : TcqCmd, s.kmq = some c → quietHome s 0 (keyStatusAt c) → quietHome s 0 (keyDoneAt s) → s.stalled = [] →
      let job := s.job c.asid
      let slot := job.key.toNat
      let key := (s.keys.find? fun e => e.1 == slot).map (·.2)
      let ends (i : Instr) (status : Nat) (refused : Bool) (keys : Sparse KeySlot) : Prop :=
        ∃ t, exec i s = .next t ∧ t.kmq = none ∧ t.keys = keys ∧ t.leaf = s.leaf ∧ t.host = s.host ∧ t.mem = keyEnds s c status refused s.mem
      (∀ (n : Nat) (i : Instr), (n, i) ∈ [(1, .kgen), (2, .kseal), (3, .kimport), (4, .kclear)] → c.kind = n →
        (job.present = false → ends i 2 true s.keys) ∧ (job.present = true → n = 2 ∨ n = 3 → key = none → ends i 1 false s.keys)) ∧
      (job.present = true → c.kind = 1 → (key ≠ none → ends .kgen 2 false s.keys) ∧
        (key = none → quietHome s 0 ((c.slotAddr + 48) % 2 ^ 40) →
          ∃ t x, exec .kgen s = .next t ∧ t.kmq = none ∧ t.keys = sset KeySlot.blank s.keys slot x ∧ x.asid.toNat = c.asid % 2 ^ 16 ∧
            x.meas = job.meas ∧ t.mem = keyEnds s c 0 false (msets s.mem ((c.slotAddr + 48) % 2 ^ 40) (leBytes slot 8)))) ∧
      (job.present = true → c.kind = 4 → ends .kclear 0 false (sset KeySlot.blank s.keys slot KeySlot.blank)) ∧
      ∀ x, job.present = true → key = some x →
        (x.asid.toNat ≠ c.asid ∨ x.meas ≠ job.meas → (c.kind = 2 → ends .kseal 1 false s.keys) ∧ (c.kind = 3 → ends .kimport 1 false s.keys)) ∧
        (x.asid.toNat = c.asid → x.meas = job.meas →
          (c.kind = 2 → 2 ^ 20 ≤ s.leaf → ends .kseal 3 false s.keys) ∧
          (c.kind = 2 → s.leaf < 2 ^ 20 → ends .kseal 3 false s.keys ∨
            ∃ t, exec .kseal s = .next t ∧ t.kmq = none ∧ t.keys = s.keys ∧ t.leaf = s.leaf + 1) ∧
          (c.kind = 2 → s.leaf < 2 ^ 20 → s.pick 9100 2 ≠ 1 → noReserve s → keyStatusAt c + 8 ≤ keyDoneAt s ∨ keyDoneAt s + 8 ≤ keyStatusAt c →
            ∃ t, exec .kseal s = .next t ∧ t.kmq = none ∧ t.keys = s.keys ∧ t.leaf = s.leaf + 1 ∧ mgets t.mem (keyStatusAt c) 8 = leBytes 0 8 ∧
              mgets t.mem (keyDoneAt s) 8 = leBytes c.seqNo 8) ∧
          (c.kind = 3 → s.cfg.errlog = 0 → (tbit (c.arg 1).toNat 56 = true ∨ s.encRange c.asid (c.arg 2).toNat (c.arg 3).toNat slot = false) →
            ends .kimport 4 false s.keys) ∧
          (c.kind = 3 → tbit (c.arg 1).toNat 56 = false → s.encRange c.asid (c.arg 2).toNat (c.arg 3).toNat slot = true →
            (∃ t, exec .kimport s = .next t ∧ t.kmq = none ∧ t.keys = s.keys) ∧
            let len := (c.arg 3).toNat
            let src := (c.arg 1).toNat
            let z := s.noteAgent c.asid src (len + 28) false
            ∀ bs, Config.gcmOpen x.key (z.agentBytes c.asid src 12) (z.agentBytes c.asid (src + 12) len)
                (z.agentBytes c.asid (src + 12 + len) 16) = some bs → noReserve s →
              keyStatusAt c + 8 ≤ keyDoneAt s ∨ keyDoneAt s + 8 ≤ keyStatusAt c →
              ∃ t, exec .kimport s = .next t ∧ mgets t.mem (keyStatusAt c) 8 = leBytes 0 8 ∧ mgets t.mem (keyDoneAt s) 8 = leBytes c.seqNo 8))

/-! Steps, encodings, invariants. -/

/-- R65, R139, R140 and logs 1 and 2: a package that is booting boots; else an event that is due takes place; else, where a wing can issue
and its coach has no trap due, the bundle at the coach's pc that holds one instruction, well formed and untrapped, is executed,
that is, step is exec of that instruction with the bookkeeping of the bundle around it, and the next address is the one after
the bundle where nothing transferred; else what R330 promises is kept when the agents' patience is at an end, or one of the events
that may happen is tried, or a period of the clock passes. -/
def Obligations.StepRunsDecodedInstruction : Prop :=
  (∀ (s : State), s.cfg.st = 1 → step s = exec (.boot s.bootInput) s) ∧
  (∀ (s : State) (i : Instr) (t : State), s.cfg.st ≠ 1 → s.cfg.st ≠ 0 → s.dueEvent = some i → exec i s = .next t →
    step s = .next t.tickFree) ∧
  (∀ (s : State), s.cfg.st ≠ 1 → (s.cfg.st ≠ 0 → s.dueEvent = none ∧ s.issuer = none) →
    (∃ i ∈ s.mayHappen, step s = s.tryEvent exec i) ∨ step s = .next (s.advance exec).tickFree ∨
      (s.mustKeep = true ∧ ∃ e t, e ∈ s.promises ∧ s.frozen e.1 = false ∧ exec e.1 s = .next t ∧ e.2 t = true ∧ step s = .next t.tickFree)) ∧
  ∀ (s r t u : State) (k : Nat) (bs : List Byte) (i : Instr),
    s.cfg.st ≠ 1 → s.cfg.st ≠ 0 → s.dueEvent = none → s.issuer = some k →
    (s.coach k).soft = none → ((s.coach k).stepDue = false ∨ (s.coach k).intrap = true) → s.squashes (wingOf k) = false →
    badTarget (s.coach k).pc = false →
    (∀ a, (s.coach k).pend = some (.target a) → badTarget a = false) →
    s.fetchBundle k (s.coach k).pc.toNat ((s.coach k).delayImg.getD []) = some (bs, r) →
    (bundleOf r bs).d.single? = some i → bundleTrap (entered r k (bundleOf r bs)) k (r.coach k) (bundleOf r bs) = none →
    r.poison = [] → exec i (entered r k (bundleOf r bs)) = .next u → u.cur.status = .done →
    exec i ((entered r k (bundleOf r bs)).modCoach k fun c =>
      { c with delayImg := none, steps := if c.intrap then c.steps else c.steps - 1,
               stepDue := c.stepDue || (!c.intrap && c.steps == 1) }) = .next t →
    t.cur.status = .done → (t.coach k).overflows = false →
    step s = .next (State.endBundle ((State.afterIssue (entered r k (bundleOf r bs)) t k (bundleOf r bs)
      ((bundleOf r bs).slots.filterMap slotInstr?)).settleSpill k (r.coach k).stack)) ∧
    ∀ q, step s = .next q → tablesOk t = true → (r.coach k).stack.length ≤ 32 → (t.coach k).stack.length ≤ 32 → (t.coach k).present = true → (t.coach k).ended = false → t.cur.joined = false →
      (r.coach k).pend = none →
      (q.coach k).pc = t.cur.npc.getD (t.cur.pc + BitVec.ofNat 64 (24 + 4 * t.cur.litc)) ∧ (q.coach k).pend = t.cur.pend ∧
        (q.coach k).seq = (r.coach k).seq + 1 ∧ q.cur = Cur.blank ∧ sameMemory t q

/-- Log 11: no instruction and no event is refused; and only an access performed past the 768 GiB of R21, or past 720 GiB
in a package whose whole capacity is protected, stops the machine, so every syllable answers a next state. -/
def Obligations.OnlyAccessesPastMemoryFault : Prop :=
  (∀ (i : Instr) (s : State) (r : Refusal), exec i s ≠ .refused r) ∧
  (∀ (i : Instr) (s : State) (f : Fault), exec i s = .fault f → ∃ pa, f = .noMemory pa ∧
    ((∃ n j, i = .memoryAccessComplete n j) ∨ (∃ n j, i = .commitDrainComplete n j) ∨ (∃ n j, i = .courierSourceRead n j) ∨
      (∃ n j, i = .courierChunkDelivery n j) ∨ (∃ w n, i = .droverBeatArrival w n) ∨ ∃ l x, i = .linkItemArrival l x)) ∧
  (∀ (s : State) (n j pa : Nat) (e : Bool) (o : Op) (p : Part), s.ops.find? (fun x => x.id == n) = some o →
    (match o.kind with | .load _ _ _ _ _ => True | .store _ _ => True | .atomic _ _ => True | _ => False) →
    o.performed = false → o.parts[j]? = some p → s.mayPerform o j p = true → p.place = .home pa e →
    (exec (.memoryAccessComplete n j) s = .fault (.noMemory pa) ↔
      768 * 2 ^ 30 < pa + p.len ∨ Config.protectAll = true ∧ 720 * 2 ^ 30 < pa + p.len))

/-- R29 to R45 and R162: words of a bundle, written out from its encoding. -/
def Obligations.DecodeWords : Prop :=
  decodeTableWord 192 0x267910082800000000 = some (.fcmpF32 { g := .always, dup := false, win := 0, pd := 2, cc := 2, a := .reg 1, b := .reg 5 }) ∧
    decodeTableWord 192 0x5278100E9000000000 = some (.shflDn { g := .always, dup := false, win := 0, d := .reg 2, a := .reg 1, b := .const 2, m := false }) ∧
    decodeTableWord 192 0x178082698000000000000000000 = some (.xlate { g := .always, hd := 1, a := .reg 4, b := .const 3 }) ∧
    decodeTableWord 192 0xA78402994000000000000000000 = some (.ldW { g := .always, d := .reg 8, a := .reg 5, h := 2, f := 3, rp := true, pol := .dflt }) ∧
    decodeTableWord 192 0x4178368908000000000000000000 = some (.arrive { g := .always, d := .reg 6, a := .const 1, k := 1, f := 2 }) ∧
    decodeTableWord 224 0x8000000000000027918A7F00000000000000000000002000000 = some (.cpyLd { g := .always, k := 3, f := 2, a := 20, b := .lit 0x800 }) ∧
    decodeTableWord 192 0x11790800010000000000000000000000000000 = some (.mstream { g := .always, acc := 1, f := 2, fmt := 0, cl := true, z := false }) ∧
    decodeTableWord 192 0x22794300000000000000000000000000000000 = some (.dpop { g := .always, d := 40, q := 0, f := 6 }) ∧
    decodeTableWord 224 0x3C3A783FF00000000000000000000000000000000002000000 = some (.sysrd { g := .always, d := .reg 7, n := 0x3C }) ∧
    decodeTableWord 192 0x417980200000000000000000000000000000000000000000 = some (.nexttile { g := .always, d := 48, p := 4 }) ∧
    decodeTableWord 224 0x32C78001FF000000000000000000000000000000002000000 = some (.lsetup { a := .reg 3, b := .lit 3 })

/-- R29 to R45: the words of a well-formed instruction decode to it, every operand and modifier included. An empty syllable of
guard 0 is the same words in every slot, and decodes as the V slot's. -/
def Obligations.EncodeThenDecode : Prop :=
  ∀ (i : Instr) (ws : List Word), i.wf = true → encode i = some ws → (∀ sl, i = .nop sl 0 → sl = .v) →
    (decodeBundle xq1Feat (ws.take 6) (ws.drop 6)).single? = some i

/-- R36, R65: what a slot decodes to is well formed and encodes to the syllable that was decoded, in every field. -/
def Obligations.DecodedIsWellFormed : Prop :=
  ∀ (sl : Slot) (r : RawOp) (i : Instr), r.opc < 256 → r.grd < 32 → r.d < 256 → r.a < 256 → r.b < 256 → r.mod < 8 →
    (r.dup = true → dupOk sl r.opc = true) → decodeSlot sl r = .ok i →
    i.wf = true ∧ ∃ e : EncSyl, encodeSyl i = some (sl, e) ∧ e.raw = ⟨r.opc, r.grd, r.d, r.a, r.b, r.mod⟩

/-- Log 3: every step keeps the canonical form of every memory. -/
def Obligations.MemoryCanonicalInvariant : Prop :=
  ∀ (s t : State), memoryOk s = true → step s = .next t → memoryOk t = true

/-- The model's own form: every step keeps the numbers of every table rising, so that each number has one entry: coaches, wings,
cores, parties, launches, jobs, dies, and the registers and tables within them. -/
def Obligations.TablesOrderedInvariant : Prop :=
  ∀ (s t : State), tablesOk s = true → innerOk s = true → step s = .next t → tablesOk t = true ∧ innerOk t = true

/-- R24, R81, R379, R389: after reset the package is booting at tick 0 with the XQ-1 feature mask, every UALink port down, no
coach, party, launch or job; and the invariants hold. -/
def Obligations.ResetState : Prop :=
  State.reset.cfg.st = 1 ∧ State.reset.tick = 0 ∧ State.reset.cfg.devmask.toNat = 0x301030F ∧ State.reset.cfg.timing.toNat = 0x5846000100000001 ∧
    (∀ p, p < 16 → State.reset.linkUp p = false) ∧
    State.reset.coaches = [] ∧ State.reset.parties = [] ∧ State.reset.launches = [] ∧ State.reset.jobs = [] ∧
    State.reset.ops = [] ∧ State.reset.tcq = none ∧ State.reset.mbox.busy = false ∧ State.reset.mbox.grant = none ∧
    memoryOk State.reset = true ∧ tablesOk State.reset = true ∧ innerOk State.reset = true
end

