-- ==== Sys2Proof/Laws/Memory.lean ====
section
/-! SUPPORT. What the operations over storage do: which addresses exist, and what a write at each place leaves alone. -/

namespace Sys2Proof.Machine

/-- Below 720 GiB memory exists, whether or not the whole capacity is protected. -/
theorem addressable_below {pa n : Nat} (h : pa + n ≤ 720 * 2 ^ 30) : addressable pa n = true := by
  unfold addressable usableEnd memEnd
  split <;> simp <;> omega

/-- Above 768 GiB it does not. -/
theorem addressable_above {pa n : Nat} (h : 768 * 2 ^ 30 < pa + n) : addressable pa n = false := by
  unfold addressable usableEnd memEnd
  split <;> simp <;> omega

/-- A write at a scratchpad changes no other storage. -/
theorem plainWrite_sram_mem (s : State) (asid c o : Nat) (bs : List Byte) : (s.plainWrite asid (.sram c o) bs).mem = s.mem := rfl
theorem plainWrite_sram_host (s : State) (asid c o : Nat) (bs : List Byte) : (s.plainWrite asid (.sram c o) bs).host = s.host := rfl

/-- A write to a peer changes no storage of this package, and one to no place nothing at all. -/
theorem plainWrite_peer (s : State) (asid q pa : Nat) (bs : List Byte) :
    (s.plainWrite asid (.peer q pa) bs).mem = s.mem ∧ (s.plainWrite asid (.peer q pa) bs).host = s.host ∧
      (s.plainWrite asid (.peer q pa) bs).cores = s.cores := by
  simp only [State.plainWrite, State.peerWrite]
  split <;> simp
theorem plainWrite_nowhere (s : State) (asid : Nat) (bs : List Byte) : s.plainWrite asid .nowhere bs = s := rfl

/-- A region that is not live reads zero (R229). -/
theorem physBytes_dead {s : State} {pa : Nat} (n : Nat) (h : s.isDead pa = true) : s.physBytes pa n = List.replicate n 0 := by
  simp [State.physBytes, h]

/-- A live one reads what memory holds. -/
theorem physBytes_live {s : State} {pa : Nat} (n : Nat) (h : s.isDead pa = false) : s.physBytes pa n = mgets s.mem pa n := by
  simp [State.physBytes, h]

end Sys2Proof.Machine
end

