-- ==== Sys2Proof/Laws/Sparse.lean ====
section
/-! SUPPORT. Laws of tables and byte memories: read after write, and that every update keeps the canonical form. -/

namespace Sys2Proof.Machine

theorem srising_mono {α : Type} {t : Sparse α} {a b : Nat} (h : srising b t = true) (hab : a ≤ b) :
    srising a t = true := by
  cases t with
  | nil => rfl
  | cons e l =>
    simp only [srising, Bool.and_eq_true, decide_eq_true_eq] at h ⊢
    exact ⟨by omega, h.2⟩

/-- A number below every listed one reads the default. -/
theorem sget_below {α : Type} (d : α) {t : Sparse α} {b k : Nat} (h : srising b t = true) (hk : k < b) :
    sget d t k = d := by
  cases t with
  | nil => rfl
  | cons e l =>
    simp only [srising, Bool.and_eq_true, decide_eq_true_eq] at h
    simp only [sget]
    rw [if_neg (by omega), if_pos (by omega)]

theorem srising_sset {α : Type} [DecidableEq α] (d : α) {t : Sparse α} {b k : Nat} (v : α)
    (h : srising b t = true) (hk : b ≤ k) : srising b (sset d t k v) = true := by
  induction t generalizing b with
  | nil => simp only [sset]; split <;> simp [srising, hk]
  | cons e l ih =>
    obtain ⟨j, w⟩ := e
    simp only [srising, Bool.and_eq_true, decide_eq_true_eq] at h
    simp only [sset]
    split
    · split
      · simp [srising, h]
      · simp only [srising, Bool.and_eq_true, decide_eq_true_eq]
        exact ⟨hk, by omega, h.2⟩
    · split
      · rename_i hkj
        subst hkj
        split
        · exact srising_mono h.2 (by omega)
        · simp only [srising, Bool.and_eq_true, decide_eq_true_eq]
          exact ⟨hk, h.2⟩
      · simp only [srising, Bool.and_eq_true, decide_eq_true_eq]
        exact ⟨h.1, ih h.2 (by omega)⟩

theorem sget_sset_same {α : Type} [DecidableEq α] (d : α) {t : Sparse α} {b : Nat} (k : Nat) (v : α)
    (h : srising b t = true) : sget d (sset d t k v) k = v := by
  induction t generalizing b with
  | nil =>
    simp only [sset]
    split
    · rename_i hv; simp [sget, hv]
    · simp [sget]
  | cons e l ih =>
    obtain ⟨j, w⟩ := e
    simp only [srising, Bool.and_eq_true, decide_eq_true_eq] at h
    simp only [sset]
    split
    · split
      · rename_i hkj hv
        simp only [sget]
        rw [if_neg (by omega), if_pos hkj, hv]
      · simp [sget]
    · split
      · rename_i hkj
        subst hkj
        split
        · rename_i hv
          rw [sget_below d h.2 (by omega), hv]
        · simp [sget]
      · simp only [sget]
        rw [if_neg (by omega), if_neg (by omega)]
        exact ih h.2

theorem sget_sset_other {α : Type} [DecidableEq α] (d : α) {t : Sparse α} {b : Nat} {k j : Nat} (v : α)
    (h : srising b t = true) (hjk : j ≠ k) : sget d (sset d t k v) j = sget d t j := by
  induction t generalizing b with
  | nil =>
    simp only [sset]
    split
    · rfl
    · simp only [sget]
      rw [if_neg (by omega)]
      split <;> rfl
  | cons e l ih =>
    obtain ⟨i, w⟩ := e
    simp only [srising, Bool.and_eq_true, decide_eq_true_eq] at h
    simp only [sset]
    split
    · split
      · rfl
      · rename_i hki hv
        simp only [sget]
        rw [if_neg (show ¬ k = j by omega)]
        split
        · rename_i hjk'
          rw [if_neg (by omega), if_pos (by omega)]
        · rfl
    · split
      · rename_i hki
        subst hki
        split
        · simp only [sget]
          rw [if_neg (show ¬ k = j by omega)]
          split
          · rename_i hjk'
            exact sget_below d h.2 (by omega)
          · rfl
        · simp only [sget]
          rw [if_neg (show ¬ k = j by omega), if_neg (show ¬ k = j by omega)]
      · simp only [sget]
        split
        · rfl
        · split
          · rfl
          · exact ih h.2

theorem mem_sset {α : Type} [DecidableEq α] (d : α) {t : Sparse α} {k : Nat} {v : α} {e : Nat × α}
    (h : e ∈ sset d t k v) : e ∈ t ∨ e = (k, v) ∧ v ≠ d := by
  induction t with
  | nil =>
    simp only [sset] at h
    split at h
    · simp at h
    · rename_i hv
      simp only [List.mem_singleton] at h
      exact .inr ⟨h, hv⟩
  | cons x l ih =>
    obtain ⟨j, w⟩ := x
    simp only [sset] at h
    split at h
    · split at h
      · exact .inl h
      · rename_i hv
        rcases List.mem_cons.1 h with h | h
        · exact .inr ⟨h, hv⟩
        · exact .inl h
    · split at h
      · split at h
        · exact .inl (List.mem_cons_of_mem _ h)
        · rename_i hv
          rcases List.mem_cons.1 h with h | h
          · exact .inr ⟨h, hv⟩
          · exact .inl (List.mem_cons_of_mem _ h)
      · rcases List.mem_cons.1 h with h | h
        · exact .inl (h ▸ List.mem_cons_self)
        · rcases ih h with h | h
          · exact .inl (List.mem_cons_of_mem _ h)
          · exact .inr h

/-- An update keeps a table's canonical form. -/
theorem swf_sset {α : Type} [DecidableEq α] (d : α) {t : Sparse α} (k : Nat) (v : α) (h : swf d t = true) :
    swf d (sset d t k v) = true := by
  simp only [swf, Bool.and_eq_true, List.all_eq_true, bne_iff_ne, ne_eq] at h ⊢
  refine ⟨srising_sset d v h.1 (by omega), fun e he => ?_⟩
  rcases mem_sset d he with he | ⟨rfl, hv⟩
  · exact h.2 e he
  · exact hv

theorem swf_rising {α : Type} [DecidableEq α] {d : α} {t : Sparse α} (h : swf d t = true) : srising 0 t = true := by
  simp only [swf, Bool.and_eq_true] at h
  exact h.1

theorem swf_get_same {α : Type} [DecidableEq α] {d : α} {t : Sparse α} (k : Nat) (v : α) (h : swf d t = true) :
    sget d (sset d t k v) k = v := sget_sset_same d k v (swf_rising h)

theorem swf_get_other {α : Type} [DecidableEq α] {d : α} {t : Sparse α} {k j : Nat} (v : α) (h : swf d t = true)
    (hjk : j ≠ k) : sget d (sset d t k v) j = sget d t j := sget_sset_other d v (swf_rising h) hjk

theorem swf_ssetAll {α : Type} [DecidableEq α] (d : α) {t : Sparse α} (kvs : List (Nat × α)) (h : swf d t = true) :
    swf d (ssetAll d t kvs) = true := by
  induction kvs generalizing t with
  | nil => exact h
  | cons e l ih => exact ih (swf_sset d e.1 e.2 h)

/-! Memories. -/

theorem mset_wf {m : List Host.Cell} (a : Nat) (b : Byte) (h : Memory.wf m = true) : Memory.wf (mset m a b) = true :=
  swf_sset 0 a b h

theorem msets_wf {m : List Host.Cell} (a : Nat) (bs : List Byte) (h : Memory.wf m = true) :
    Memory.wf (msets m a bs) = true := by
  induction bs generalizing m a with
  | nil => exact h
  | cons b bs ih => exact ih (a + 1) (mset_wf a b h)

theorem mget_mset_same {m : List Host.Cell} (a : Nat) (b : Byte) (h : Memory.wf m = true) : mget (mset m a b) a = b :=
  swf_get_same a b h

theorem mget_mset_other {m : List Host.Cell} {a x : Nat} (b : Byte) (h : Memory.wf m = true) (hx : x ≠ a) :
    mget (mset m a b) x = mget m x := swf_get_other b h hx

/-- A write of bytes leaves every other byte. -/
theorem mget_msets_other {m : List Host.Cell} {a x : Nat} (bs : List Byte) (h : Memory.wf m = true)
    (hx : x < a ∨ a + bs.length ≤ x) : mget (msets m a bs) x = mget m x := by
  induction bs generalizing m a with
  | nil => rfl
  | cons b bs ih =>
    simp only [List.length_cons] at hx
    rw [msets, ih (mset_wf a b h) (by omega), mget_mset_other b h (by omega)]

/-- Reading after a write of bytes gives the bytes. -/
theorem mgets_msets_same {m : List Host.Cell} (a : Nat) (bs : List Byte) (h : Memory.wf m = true) :
    mgets (msets m a bs) a bs.length = bs := by
  induction bs generalizing m a with
  | nil => rfl
  | cons b bs ih =>
    simp only [List.length_cons, mgets, msets]
    rw [ih (a + 1) (mset_wf a b h), mget_msets_other bs (mset_wf a b h) (by omega), mget_mset_same a b h]

end Sys2Proof.Machine
end

