-- ==== Sys2Proof/Laws/State.lean ====
section
/-! SUPPORT. What each update of the state writes and what it leaves: one lemma per update for the fields left, one for the
field written. -/

namespace Sys2Proof.Machine

variable (s : State)

@[simp] theorem State.putCoach_rest (k : Nat) (x : Coach) :
    (s.putCoach k x).tick = s.tick ∧ (s.putCoach k x).dies = s.dies ∧ (s.putCoach k x).wings = s.wings ∧
    (s.putCoach k x).cores = s.cores ∧ (s.putCoach k x).parties = s.parties ∧ (s.putCoach k x).launches = s.launches ∧
    (s.putCoach k x).jobs = s.jobs ∧ (s.putCoach k x).mem = s.mem ∧ (s.putCoach k x).host = s.host ∧
    (s.putCoach k x).owner = s.owner ∧ (s.putCoach k x).ops = s.ops ∧ (s.putCoach k x).walks = s.walks ∧
    (s.putCoach k x).commits = s.commits ∧ (s.putCoach k x).monitors = s.monitors ∧ (s.putCoach k x).tcq = s.tcq ∧
    (s.putCoach k x).tcqBad = s.tcqBad ∧ (s.putCoach k x).ringBad = s.ringBad ∧ (s.putCoach k x).kmq = s.kmq ∧
    (s.putCoach k x).kmqBad = s.kmqBad ∧ (s.putCoach k x).tcqDone = s.tcqDone ∧ (s.putCoach k x).pageReqs = s.pageReqs ∧
    (s.putCoach k x).nextTag = s.nextTag ∧ (s.putCoach k x).hostPages = s.hostPages ∧ (s.putCoach k x).keys = s.keys ∧
    (s.putCoach k x).seals = s.seals ∧ (s.putCoach k x).lineCtr = s.lineCtr ∧ (s.putCoach k x).majors = s.majors ∧
    (s.putCoach k x).nodes = s.nodes ∧ (s.putCoach k x).nodeCache = s.nodeCache ∧ (s.putCoach k x).l2 = s.l2 ∧
    (s.putCoach k x).dead = s.dead ∧ (s.putCoach k x).elided = s.elided ∧ (s.putCoach k x).refreshOwed = s.refreshOwed ∧
    (s.putCoach k x).refreshAlert = s.refreshAlert ∧ (s.putCoach k x).poison = s.poison ∧
    (s.putCoach k x).latent = s.latent ∧ (s.putCoach k x).granules = s.granules ∧ (s.putCoach k x).stalled = s.stalled ∧
    (s.putCoach k x).merging = s.merging ∧ (s.putCoach k x).linksDown = s.linksDown ∧
    (s.putCoach k x).linkOut = s.linkOut ∧ (s.putCoach k x).injectors = s.injectors ∧ (s.putCoach k x).mbox = s.mbox ∧
    (s.putCoach k x).lantern = s.lantern ∧ (s.putCoach k x).cfg = s.cfg ∧ (s.putCoach k x).bars = s.bars ∧
    (s.putCoach k x).leaf = s.leaf ∧ (s.putCoach k x).flash = s.flash ∧ (s.putCoach k x).seed = s.seed ∧
    (s.putCoach k x).limits = s.limits ∧ (s.putCoach k x).thermal = s.thermal ∧ (s.putCoach k x).cooling = s.cooling ∧
    (s.putCoach k x).amps = s.amps ∧ (s.putCoach k x).nextLaunch = s.nextLaunch ∧ (s.putCoach k x).nextId = s.nextId ∧
    (s.putCoach k x).hostOut = s.hostOut ∧ (s.putCoach k x).env = s.env ∧ (s.putCoach k x).freeCtr = s.freeCtr ∧
    (s.putCoach k x).cur = s.cur :=
  ⟨rfl, rfl, rfl, rfl, rfl, rfl, rfl, rfl, rfl, rfl, rfl, rfl, rfl, rfl, rfl, rfl, rfl, rfl, rfl, rfl, rfl, rfl, rfl, rfl, rfl, rfl, rfl, rfl, rfl, rfl, rfl, rfl, rfl, rfl, rfl, rfl, rfl, rfl, rfl, rfl, rfl, rfl, rfl, rfl, rfl, rfl, rfl, rfl, rfl, rfl, rfl, rfl, rfl, rfl, rfl, rfl, rfl, rfl, rfl⟩

@[simp] theorem State.putWing_rest (k : Nat) (x : Wing) :
    (s.putWing k x).tick = s.tick ∧ (s.putWing k x).dies = s.dies ∧ (s.putWing k x).coaches = s.coaches ∧
    (s.putWing k x).cores = s.cores ∧ (s.putWing k x).parties = s.parties ∧ (s.putWing k x).launches = s.launches ∧
    (s.putWing k x).jobs = s.jobs ∧ (s.putWing k x).mem = s.mem ∧ (s.putWing k x).host = s.host ∧
    (s.putWing k x).owner = s.owner ∧ (s.putWing k x).ops = s.ops ∧ (s.putWing k x).walks = s.walks ∧
    (s.putWing k x).commits = s.commits ∧ (s.putWing k x).monitors = s.monitors ∧ (s.putWing k x).tcq = s.tcq ∧
    (s.putWing k x).tcqBad = s.tcqBad ∧ (s.putWing k x).ringBad = s.ringBad ∧ (s.putWing k x).kmq = s.kmq ∧
    (s.putWing k x).kmqBad = s.kmqBad ∧ (s.putWing k x).tcqDone = s.tcqDone ∧ (s.putWing k x).pageReqs = s.pageReqs ∧
    (s.putWing k x).nextTag = s.nextTag ∧ (s.putWing k x).hostPages = s.hostPages ∧ (s.putWing k x).keys = s.keys ∧
    (s.putWing k x).seals = s.seals ∧ (s.putWing k x).lineCtr = s.lineCtr ∧ (s.putWing k x).majors = s.majors ∧
    (s.putWing k x).nodes = s.nodes ∧ (s.putWing k x).nodeCache = s.nodeCache ∧ (s.putWing k x).l2 = s.l2 ∧
    (s.putWing k x).dead = s.dead ∧ (s.putWing k x).elided = s.elided ∧ (s.putWing k x).refreshOwed = s.refreshOwed ∧
    (s.putWing k x).refreshAlert = s.refreshAlert ∧ (s.putWing k x).poison = s.poison ∧
    (s.putWing k x).latent = s.latent ∧ (s.putWing k x).granules = s.granules ∧ (s.putWing k x).stalled = s.stalled ∧
    (s.putWing k x).merging = s.merging ∧ (s.putWing k x).linksDown = s.linksDown ∧
    (s.putWing k x).linkOut = s.linkOut ∧ (s.putWing k x).injectors = s.injectors ∧ (s.putWing k x).mbox = s.mbox ∧
    (s.putWing k x).lantern = s.lantern ∧ (s.putWing k x).cfg = s.cfg ∧ (s.putWing k x).bars = s.bars ∧
    (s.putWing k x).leaf = s.leaf ∧ (s.putWing k x).flash = s.flash ∧ (s.putWing k x).seed = s.seed ∧
    (s.putWing k x).limits = s.limits ∧ (s.putWing k x).thermal = s.thermal ∧ (s.putWing k x).cooling = s.cooling ∧
    (s.putWing k x).amps = s.amps ∧ (s.putWing k x).nextLaunch = s.nextLaunch ∧ (s.putWing k x).nextId = s.nextId ∧
    (s.putWing k x).hostOut = s.hostOut ∧ (s.putWing k x).env = s.env ∧ (s.putWing k x).freeCtr = s.freeCtr ∧
    (s.putWing k x).cur = s.cur :=
  ⟨rfl, rfl, rfl, rfl, rfl, rfl, rfl, rfl, rfl, rfl, rfl, rfl, rfl, rfl, rfl, rfl, rfl, rfl, rfl, rfl, rfl, rfl, rfl, rfl, rfl, rfl, rfl, rfl, rfl, rfl, rfl, rfl, rfl, rfl, rfl, rfl, rfl, rfl, rfl, rfl, rfl, rfl, rfl, rfl, rfl, rfl, rfl, rfl, rfl, rfl, rfl, rfl, rfl, rfl, rfl, rfl, rfl, rfl, rfl⟩

@[simp] theorem State.putCore_rest (k : Nat) (x : Core) :
    (s.putCore k x).tick = s.tick ∧ (s.putCore k x).dies = s.dies ∧ (s.putCore k x).coaches = s.coaches ∧
    (s.putCore k x).wings = s.wings ∧ (s.putCore k x).parties = s.parties ∧ (s.putCore k x).launches = s.launches ∧
    (s.putCore k x).jobs = s.jobs ∧ (s.putCore k x).mem = s.mem ∧ (s.putCore k x).host = s.host ∧
    (s.putCore k x).owner = s.owner ∧ (s.putCore k x).ops = s.ops ∧ (s.putCore k x).walks = s.walks ∧
    (s.putCore k x).commits = s.commits ∧ (s.putCore k x).monitors = s.monitors ∧ (s.putCore k x).tcq = s.tcq ∧
    (s.putCore k x).tcqBad = s.tcqBad ∧ (s.putCore k x).ringBad = s.ringBad ∧ (s.putCore k x).kmq = s.kmq ∧
    (s.putCore k x).kmqBad = s.kmqBad ∧ (s.putCore k x).tcqDone = s.tcqDone ∧ (s.putCore k x).pageReqs = s.pageReqs ∧
    (s.putCore k x).nextTag = s.nextTag ∧ (s.putCore k x).hostPages = s.hostPages ∧ (s.putCore k x).keys = s.keys ∧
    (s.putCore k x).seals = s.seals ∧ (s.putCore k x).lineCtr = s.lineCtr ∧ (s.putCore k x).majors = s.majors ∧
    (s.putCore k x).nodes = s.nodes ∧ (s.putCore k x).nodeCache = s.nodeCache ∧ (s.putCore k x).l2 = s.l2 ∧
    (s.putCore k x).dead = s.dead ∧ (s.putCore k x).elided = s.elided ∧ (s.putCore k x).refreshOwed = s.refreshOwed ∧
    (s.putCore k x).refreshAlert = s.refreshAlert ∧ (s.putCore k x).poison = s.poison ∧
    (s.putCore k x).latent = s.latent ∧ (s.putCore k x).granules = s.granules ∧ (s.putCore k x).stalled = s.stalled ∧
    (s.putCore k x).merging = s.merging ∧ (s.putCore k x).linksDown = s.linksDown ∧
    (s.putCore k x).linkOut = s.linkOut ∧ (s.putCore k x).injectors = s.injectors ∧ (s.putCore k x).mbox = s.mbox ∧
    (s.putCore k x).lantern = s.lantern ∧ (s.putCore k x).cfg = s.cfg ∧ (s.putCore k x).bars = s.bars ∧
    (s.putCore k x).leaf = s.leaf ∧ (s.putCore k x).flash = s.flash ∧ (s.putCore k x).seed = s.seed ∧
    (s.putCore k x).limits = s.limits ∧ (s.putCore k x).thermal = s.thermal ∧ (s.putCore k x).cooling = s.cooling ∧
    (s.putCore k x).amps = s.amps ∧ (s.putCore k x).nextLaunch = s.nextLaunch ∧ (s.putCore k x).nextId = s.nextId ∧
    (s.putCore k x).hostOut = s.hostOut ∧ (s.putCore k x).env = s.env ∧ (s.putCore k x).freeCtr = s.freeCtr ∧
    (s.putCore k x).cur = s.cur :=
  ⟨rfl, rfl, rfl, rfl, rfl, rfl, rfl, rfl, rfl, rfl, rfl, rfl, rfl, rfl, rfl, rfl, rfl, rfl, rfl, rfl, rfl, rfl, rfl, rfl, rfl, rfl, rfl, rfl, rfl, rfl, rfl, rfl, rfl, rfl, rfl, rfl, rfl, rfl, rfl, rfl, rfl, rfl, rfl, rfl, rfl, rfl, rfl, rfl, rfl, rfl, rfl, rfl, rfl, rfl, rfl, rfl, rfl, rfl, rfl⟩

@[simp] theorem State.putDie_rest (k : Nat) (x : Die) :
    (s.putDie k x).tick = s.tick ∧ (s.putDie k x).coaches = s.coaches ∧ (s.putDie k x).wings = s.wings ∧
    (s.putDie k x).cores = s.cores ∧ (s.putDie k x).parties = s.parties ∧ (s.putDie k x).launches = s.launches ∧
    (s.putDie k x).jobs = s.jobs ∧ (s.putDie k x).mem = s.mem ∧ (s.putDie k x).host = s.host ∧
    (s.putDie k x).owner = s.owner ∧ (s.putDie k x).ops = s.ops ∧ (s.putDie k x).walks = s.walks ∧
    (s.putDie k x).commits = s.commits ∧ (s.putDie k x).monitors = s.monitors ∧ (s.putDie k x).tcq = s.tcq ∧
    (s.putDie k x).tcqBad = s.tcqBad ∧ (s.putDie k x).ringBad = s.ringBad ∧ (s.putDie k x).kmq = s.kmq ∧
    (s.putDie k x).kmqBad = s.kmqBad ∧ (s.putDie k x).tcqDone = s.tcqDone ∧ (s.putDie k x).pageReqs = s.pageReqs ∧
    (s.putDie k x).nextTag = s.nextTag ∧ (s.putDie k x).hostPages = s.hostPages ∧ (s.putDie k x).keys = s.keys ∧
    (s.putDie k x).seals = s.seals ∧ (s.putDie k x).lineCtr = s.lineCtr ∧ (s.putDie k x).majors = s.majors ∧
    (s.putDie k x).nodes = s.nodes ∧ (s.putDie k x).nodeCache = s.nodeCache ∧ (s.putDie k x).l2 = s.l2 ∧
    (s.putDie k x).dead = s.dead ∧ (s.putDie k x).elided = s.elided ∧ (s.putDie k x).refreshOwed = s.refreshOwed ∧
    (s.putDie k x).refreshAlert = s.refreshAlert ∧ (s.putDie k x).poison = s.poison ∧ (s.putDie k x).latent = s.latent ∧
    (s.putDie k x).granules = s.granules ∧ (s.putDie k x).stalled = s.stalled ∧ (s.putDie k x).merging = s.merging ∧
    (s.putDie k x).linksDown = s.linksDown ∧ (s.putDie k x).linkOut = s.linkOut ∧
    (s.putDie k x).injectors = s.injectors ∧ (s.putDie k x).mbox = s.mbox ∧ (s.putDie k x).lantern = s.lantern ∧
    (s.putDie k x).cfg = s.cfg ∧ (s.putDie k x).bars = s.bars ∧ (s.putDie k x).leaf = s.leaf ∧
    (s.putDie k x).flash = s.flash ∧ (s.putDie k x).seed = s.seed ∧ (s.putDie k x).limits = s.limits ∧
    (s.putDie k x).thermal = s.thermal ∧ (s.putDie k x).cooling = s.cooling ∧ (s.putDie k x).amps = s.amps ∧
    (s.putDie k x).nextLaunch = s.nextLaunch ∧ (s.putDie k x).nextId = s.nextId ∧ (s.putDie k x).hostOut = s.hostOut ∧
    (s.putDie k x).env = s.env ∧ (s.putDie k x).freeCtr = s.freeCtr ∧ (s.putDie k x).cur = s.cur :=
  ⟨rfl, rfl, rfl, rfl, rfl, rfl, rfl, rfl, rfl, rfl, rfl, rfl, rfl, rfl, rfl, rfl, rfl, rfl, rfl, rfl, rfl, rfl, rfl, rfl, rfl, rfl, rfl, rfl, rfl, rfl, rfl, rfl, rfl, rfl, rfl, rfl, rfl, rfl, rfl, rfl, rfl, rfl, rfl, rfl, rfl, rfl, rfl, rfl, rfl, rfl, rfl, rfl, rfl, rfl, rfl, rfl, rfl, rfl, rfl⟩

@[simp] theorem State.putJob_rest (k : Nat) (x : Job) :
    (s.putJob k x).tick = s.tick ∧ (s.putJob k x).dies = s.dies ∧ (s.putJob k x).coaches = s.coaches ∧
    (s.putJob k x).wings = s.wings ∧ (s.putJob k x).cores = s.cores ∧ (s.putJob k x).parties = s.parties ∧
    (s.putJob k x).launches = s.launches ∧ (s.putJob k x).mem = s.mem ∧ (s.putJob k x).host = s.host ∧
    (s.putJob k x).owner = s.owner ∧ (s.putJob k x).ops = s.ops ∧ (s.putJob k x).walks = s.walks ∧
    (s.putJob k x).commits = s.commits ∧ (s.putJob k x).monitors = s.monitors ∧ (s.putJob k x).tcq = s.tcq ∧
    (s.putJob k x).tcqBad = s.tcqBad ∧ (s.putJob k x).ringBad = s.ringBad ∧ (s.putJob k x).kmq = s.kmq ∧
    (s.putJob k x).kmqBad = s.kmqBad ∧ (s.putJob k x).tcqDone = s.tcqDone ∧ (s.putJob k x).pageReqs = s.pageReqs ∧
    (s.putJob k x).nextTag = s.nextTag ∧ (s.putJob k x).hostPages = s.hostPages ∧ (s.putJob k x).keys = s.keys ∧
    (s.putJob k x).seals = s.seals ∧ (s.putJob k x).lineCtr = s.lineCtr ∧ (s.putJob k x).majors = s.majors ∧
    (s.putJob k x).nodes = s.nodes ∧ (s.putJob k x).nodeCache = s.nodeCache ∧ (s.putJob k x).l2 = s.l2 ∧
    (s.putJob k x).dead = s.dead ∧ (s.putJob k x).elided = s.elided ∧ (s.putJob k x).refreshOwed = s.refreshOwed ∧
    (s.putJob k x).refreshAlert = s.refreshAlert ∧ (s.putJob k x).poison = s.poison ∧ (s.putJob k x).latent = s.latent ∧
    (s.putJob k x).granules = s.granules ∧ (s.putJob k x).stalled = s.stalled ∧ (s.putJob k x).merging = s.merging ∧
    (s.putJob k x).linksDown = s.linksDown ∧ (s.putJob k x).linkOut = s.linkOut ∧
    (s.putJob k x).injectors = s.injectors ∧ (s.putJob k x).mbox = s.mbox ∧ (s.putJob k x).lantern = s.lantern ∧
    (s.putJob k x).cfg = s.cfg ∧ (s.putJob k x).bars = s.bars ∧ (s.putJob k x).leaf = s.leaf ∧
    (s.putJob k x).flash = s.flash ∧ (s.putJob k x).seed = s.seed ∧ (s.putJob k x).limits = s.limits ∧
    (s.putJob k x).thermal = s.thermal ∧ (s.putJob k x).cooling = s.cooling ∧ (s.putJob k x).amps = s.amps ∧
    (s.putJob k x).nextLaunch = s.nextLaunch ∧ (s.putJob k x).nextId = s.nextId ∧ (s.putJob k x).hostOut = s.hostOut ∧
    (s.putJob k x).env = s.env ∧ (s.putJob k x).freeCtr = s.freeCtr ∧ (s.putJob k x).cur = s.cur :=
  ⟨rfl, rfl, rfl, rfl, rfl, rfl, rfl, rfl, rfl, rfl, rfl, rfl, rfl, rfl, rfl, rfl, rfl, rfl, rfl, rfl, rfl, rfl, rfl, rfl, rfl, rfl, rfl, rfl, rfl, rfl, rfl, rfl, rfl, rfl, rfl, rfl, rfl, rfl, rfl, rfl, rfl, rfl, rfl, rfl, rfl, rfl, rfl, rfl, rfl, rfl, rfl, rfl, rfl, rfl, rfl, rfl, rfl, rfl, rfl⟩

@[simp] theorem State.putParty_rest (k : Nat) (x : Party) :
    (s.putParty k x).tick = s.tick ∧ (s.putParty k x).dies = s.dies ∧ (s.putParty k x).coaches = s.coaches ∧
    (s.putParty k x).wings = s.wings ∧ (s.putParty k x).cores = s.cores ∧ (s.putParty k x).launches = s.launches ∧
    (s.putParty k x).jobs = s.jobs ∧ (s.putParty k x).mem = s.mem ∧ (s.putParty k x).host = s.host ∧
    (s.putParty k x).owner = s.owner ∧ (s.putParty k x).ops = s.ops ∧ (s.putParty k x).walks = s.walks ∧
    (s.putParty k x).commits = s.commits ∧ (s.putParty k x).monitors = s.monitors ∧ (s.putParty k x).tcq = s.tcq ∧
    (s.putParty k x).tcqBad = s.tcqBad ∧ (s.putParty k x).ringBad = s.ringBad ∧ (s.putParty k x).kmq = s.kmq ∧
    (s.putParty k x).kmqBad = s.kmqBad ∧ (s.putParty k x).tcqDone = s.tcqDone ∧ (s.putParty k x).pageReqs = s.pageReqs ∧
    (s.putParty k x).nextTag = s.nextTag ∧ (s.putParty k x).hostPages = s.hostPages ∧ (s.putParty k x).keys = s.keys ∧
    (s.putParty k x).seals = s.seals ∧ (s.putParty k x).lineCtr = s.lineCtr ∧ (s.putParty k x).majors = s.majors ∧
    (s.putParty k x).nodes = s.nodes ∧ (s.putParty k x).nodeCache = s.nodeCache ∧ (s.putParty k x).l2 = s.l2 ∧
    (s.putParty k x).dead = s.dead ∧ (s.putParty k x).elided = s.elided ∧ (s.putParty k x).refreshOwed = s.refreshOwed ∧
    (s.putParty k x).refreshAlert = s.refreshAlert ∧ (s.putParty k x).poison = s.poison ∧
    (s.putParty k x).latent = s.latent ∧ (s.putParty k x).granules = s.granules ∧ (s.putParty k x).stalled = s.stalled ∧
    (s.putParty k x).merging = s.merging ∧ (s.putParty k x).linksDown = s.linksDown ∧
    (s.putParty k x).linkOut = s.linkOut ∧ (s.putParty k x).injectors = s.injectors ∧ (s.putParty k x).mbox = s.mbox ∧
    (s.putParty k x).lantern = s.lantern ∧ (s.putParty k x).cfg = s.cfg ∧ (s.putParty k x).bars = s.bars ∧
    (s.putParty k x).leaf = s.leaf ∧ (s.putParty k x).flash = s.flash ∧ (s.putParty k x).seed = s.seed ∧
    (s.putParty k x).limits = s.limits ∧ (s.putParty k x).thermal = s.thermal ∧ (s.putParty k x).cooling = s.cooling ∧
    (s.putParty k x).amps = s.amps ∧ (s.putParty k x).nextLaunch = s.nextLaunch ∧ (s.putParty k x).nextId = s.nextId ∧
    (s.putParty k x).hostOut = s.hostOut ∧ (s.putParty k x).env = s.env ∧ (s.putParty k x).freeCtr = s.freeCtr ∧
    (s.putParty k x).cur = s.cur :=
  ⟨rfl, rfl, rfl, rfl, rfl, rfl, rfl, rfl, rfl, rfl, rfl, rfl, rfl, rfl, rfl, rfl, rfl, rfl, rfl, rfl, rfl, rfl, rfl, rfl, rfl, rfl, rfl, rfl, rfl, rfl, rfl, rfl, rfl, rfl, rfl, rfl, rfl, rfl, rfl, rfl, rfl, rfl, rfl, rfl, rfl, rfl, rfl, rfl, rfl, rfl, rfl, rfl, rfl, rfl, rfl, rfl, rfl, rfl, rfl⟩

@[simp] theorem State.putLaunch_rest (k : Nat) (x : Launch) :
    (s.putLaunch k x).tick = s.tick ∧ (s.putLaunch k x).dies = s.dies ∧ (s.putLaunch k x).coaches = s.coaches ∧
    (s.putLaunch k x).wings = s.wings ∧ (s.putLaunch k x).cores = s.cores ∧ (s.putLaunch k x).parties = s.parties ∧
    (s.putLaunch k x).jobs = s.jobs ∧ (s.putLaunch k x).mem = s.mem ∧ (s.putLaunch k x).host = s.host ∧
    (s.putLaunch k x).owner = s.owner ∧ (s.putLaunch k x).ops = s.ops ∧ (s.putLaunch k x).walks = s.walks ∧
    (s.putLaunch k x).commits = s.commits ∧ (s.putLaunch k x).monitors = s.monitors ∧ (s.putLaunch k x).tcq = s.tcq ∧
    (s.putLaunch k x).tcqBad = s.tcqBad ∧ (s.putLaunch k x).ringBad = s.ringBad ∧ (s.putLaunch k x).kmq = s.kmq ∧
    (s.putLaunch k x).kmqBad = s.kmqBad ∧ (s.putLaunch k x).tcqDone = s.tcqDone ∧
    (s.putLaunch k x).pageReqs = s.pageReqs ∧ (s.putLaunch k x).nextTag = s.nextTag ∧
    (s.putLaunch k x).hostPages = s.hostPages ∧ (s.putLaunch k x).keys = s.keys ∧ (s.putLaunch k x).seals = s.seals ∧
    (s.putLaunch k x).lineCtr = s.lineCtr ∧ (s.putLaunch k x).majors = s.majors ∧ (s.putLaunch k x).nodes = s.nodes ∧
    (s.putLaunch k x).nodeCache = s.nodeCache ∧ (s.putLaunch k x).l2 = s.l2 ∧ (s.putLaunch k x).dead = s.dead ∧
    (s.putLaunch k x).elided = s.elided ∧ (s.putLaunch k x).refreshOwed = s.refreshOwed ∧
    (s.putLaunch k x).refreshAlert = s.refreshAlert ∧ (s.putLaunch k x).poison = s.poison ∧
    (s.putLaunch k x).latent = s.latent ∧ (s.putLaunch k x).granules = s.granules ∧
    (s.putLaunch k x).stalled = s.stalled ∧ (s.putLaunch k x).merging = s.merging ∧
    (s.putLaunch k x).linksDown = s.linksDown ∧ (s.putLaunch k x).linkOut = s.linkOut ∧
    (s.putLaunch k x).injectors = s.injectors ∧ (s.putLaunch k x).mbox = s.mbox ∧
    (s.putLaunch k x).lantern = s.lantern ∧ (s.putLaunch k x).cfg = s.cfg ∧ (s.putLaunch k x).bars = s.bars ∧
    (s.putLaunch k x).leaf = s.leaf ∧ (s.putLaunch k x).flash = s.flash ∧ (s.putLaunch k x).seed = s.seed ∧
    (s.putLaunch k x).limits = s.limits ∧ (s.putLaunch k x).thermal = s.thermal ∧
    (s.putLaunch k x).cooling = s.cooling ∧ (s.putLaunch k x).amps = s.amps ∧
    (s.putLaunch k x).nextLaunch = s.nextLaunch ∧ (s.putLaunch k x).nextId = s.nextId ∧
    (s.putLaunch k x).hostOut = s.hostOut ∧ (s.putLaunch k x).env = s.env ∧ (s.putLaunch k x).freeCtr = s.freeCtr ∧
    (s.putLaunch k x).cur = s.cur :=
  ⟨rfl, rfl, rfl, rfl, rfl, rfl, rfl, rfl, rfl, rfl, rfl, rfl, rfl, rfl, rfl, rfl, rfl, rfl, rfl, rfl, rfl, rfl, rfl, rfl, rfl, rfl, rfl, rfl, rfl, rfl, rfl, rfl, rfl, rfl, rfl, rfl, rfl, rfl, rfl, rfl, rfl, rfl, rfl, rfl, rfl, rfl, rfl, rfl, rfl, rfl, rfl, rfl, rfl, rfl, rfl, rfl, rfl, rfl, rfl⟩

@[simp] theorem State.modCoach_rest (k : Nat) (f : Coach → Coach) :
    (s.modCoach k f).tick = s.tick ∧ (s.modCoach k f).dies = s.dies ∧ (s.modCoach k f).wings = s.wings ∧
    (s.modCoach k f).cores = s.cores ∧ (s.modCoach k f).parties = s.parties ∧ (s.modCoach k f).launches = s.launches ∧
    (s.modCoach k f).jobs = s.jobs ∧ (s.modCoach k f).mem = s.mem ∧ (s.modCoach k f).host = s.host ∧
    (s.modCoach k f).owner = s.owner ∧ (s.modCoach k f).ops = s.ops ∧ (s.modCoach k f).walks = s.walks ∧
    (s.modCoach k f).commits = s.commits ∧ (s.modCoach k f).monitors = s.monitors ∧ (s.modCoach k f).tcq = s.tcq ∧
    (s.modCoach k f).tcqBad = s.tcqBad ∧ (s.modCoach k f).ringBad = s.ringBad ∧ (s.modCoach k f).kmq = s.kmq ∧
    (s.modCoach k f).kmqBad = s.kmqBad ∧ (s.modCoach k f).tcqDone = s.tcqDone ∧ (s.modCoach k f).pageReqs = s.pageReqs ∧
    (s.modCoach k f).nextTag = s.nextTag ∧ (s.modCoach k f).hostPages = s.hostPages ∧ (s.modCoach k f).keys = s.keys ∧
    (s.modCoach k f).seals = s.seals ∧ (s.modCoach k f).lineCtr = s.lineCtr ∧ (s.modCoach k f).majors = s.majors ∧
    (s.modCoach k f).nodes = s.nodes ∧ (s.modCoach k f).nodeCache = s.nodeCache ∧ (s.modCoach k f).l2 = s.l2 ∧
    (s.modCoach k f).dead = s.dead ∧ (s.modCoach k f).elided = s.elided ∧ (s.modCoach k f).refreshOwed = s.refreshOwed ∧
    (s.modCoach k f).refreshAlert = s.refreshAlert ∧ (s.modCoach k f).poison = s.poison ∧
    (s.modCoach k f).latent = s.latent ∧ (s.modCoach k f).granules = s.granules ∧ (s.modCoach k f).stalled = s.stalled ∧
    (s.modCoach k f).merging = s.merging ∧ (s.modCoach k f).linksDown = s.linksDown ∧
    (s.modCoach k f).linkOut = s.linkOut ∧ (s.modCoach k f).injectors = s.injectors ∧ (s.modCoach k f).mbox = s.mbox ∧
    (s.modCoach k f).lantern = s.lantern ∧ (s.modCoach k f).cfg = s.cfg ∧ (s.modCoach k f).bars = s.bars ∧
    (s.modCoach k f).leaf = s.leaf ∧ (s.modCoach k f).flash = s.flash ∧ (s.modCoach k f).seed = s.seed ∧
    (s.modCoach k f).limits = s.limits ∧ (s.modCoach k f).thermal = s.thermal ∧ (s.modCoach k f).cooling = s.cooling ∧
    (s.modCoach k f).amps = s.amps ∧ (s.modCoach k f).nextLaunch = s.nextLaunch ∧ (s.modCoach k f).nextId = s.nextId ∧
    (s.modCoach k f).hostOut = s.hostOut ∧ (s.modCoach k f).env = s.env ∧ (s.modCoach k f).freeCtr = s.freeCtr ∧
    (s.modCoach k f).cur = s.cur :=
  ⟨rfl, rfl, rfl, rfl, rfl, rfl, rfl, rfl, rfl, rfl, rfl, rfl, rfl, rfl, rfl, rfl, rfl, rfl, rfl, rfl, rfl, rfl, rfl, rfl, rfl, rfl, rfl, rfl, rfl, rfl, rfl, rfl, rfl, rfl, rfl, rfl, rfl, rfl, rfl, rfl, rfl, rfl, rfl, rfl, rfl, rfl, rfl, rfl, rfl, rfl, rfl, rfl, rfl, rfl, rfl, rfl, rfl, rfl, rfl⟩

@[simp] theorem State.modWing_rest (k : Nat) (f : Wing → Wing) :
    (s.modWing k f).tick = s.tick ∧ (s.modWing k f).dies = s.dies ∧ (s.modWing k f).coaches = s.coaches ∧
    (s.modWing k f).cores = s.cores ∧ (s.modWing k f).parties = s.parties ∧ (s.modWing k f).launches = s.launches ∧
    (s.modWing k f).jobs = s.jobs ∧ (s.modWing k f).mem = s.mem ∧ (s.modWing k f).host = s.host ∧
    (s.modWing k f).owner = s.owner ∧ (s.modWing k f).ops = s.ops ∧ (s.modWing k f).walks = s.walks ∧
    (s.modWing k f).commits = s.commits ∧ (s.modWing k f).monitors = s.monitors ∧ (s.modWing k f).tcq = s.tcq ∧
    (s.modWing k f).tcqBad = s.tcqBad ∧ (s.modWing k f).ringBad = s.ringBad ∧ (s.modWing k f).kmq = s.kmq ∧
    (s.modWing k f).kmqBad = s.kmqBad ∧ (s.modWing k f).tcqDone = s.tcqDone ∧ (s.modWing k f).pageReqs = s.pageReqs ∧
    (s.modWing k f).nextTag = s.nextTag ∧ (s.modWing k f).hostPages = s.hostPages ∧ (s.modWing k f).keys = s.keys ∧
    (s.modWing k f).seals = s.seals ∧ (s.modWing k f).lineCtr = s.lineCtr ∧ (s.modWing k f).majors = s.majors ∧
    (s.modWing k f).nodes = s.nodes ∧ (s.modWing k f).nodeCache = s.nodeCache ∧ (s.modWing k f).l2 = s.l2 ∧
    (s.modWing k f).dead = s.dead ∧ (s.modWing k f).elided = s.elided ∧ (s.modWing k f).refreshOwed = s.refreshOwed ∧
    (s.modWing k f).refreshAlert = s.refreshAlert ∧ (s.modWing k f).poison = s.poison ∧
    (s.modWing k f).latent = s.latent ∧ (s.modWing k f).granules = s.granules ∧ (s.modWing k f).stalled = s.stalled ∧
    (s.modWing k f).merging = s.merging ∧ (s.modWing k f).linksDown = s.linksDown ∧
    (s.modWing k f).linkOut = s.linkOut ∧ (s.modWing k f).injectors = s.injectors ∧ (s.modWing k f).mbox = s.mbox ∧
    (s.modWing k f).lantern = s.lantern ∧ (s.modWing k f).cfg = s.cfg ∧ (s.modWing k f).bars = s.bars ∧
    (s.modWing k f).leaf = s.leaf ∧ (s.modWing k f).flash = s.flash ∧ (s.modWing k f).seed = s.seed ∧
    (s.modWing k f).limits = s.limits ∧ (s.modWing k f).thermal = s.thermal ∧ (s.modWing k f).cooling = s.cooling ∧
    (s.modWing k f).amps = s.amps ∧ (s.modWing k f).nextLaunch = s.nextLaunch ∧ (s.modWing k f).nextId = s.nextId ∧
    (s.modWing k f).hostOut = s.hostOut ∧ (s.modWing k f).env = s.env ∧ (s.modWing k f).freeCtr = s.freeCtr ∧
    (s.modWing k f).cur = s.cur :=
  ⟨rfl, rfl, rfl, rfl, rfl, rfl, rfl, rfl, rfl, rfl, rfl, rfl, rfl, rfl, rfl, rfl, rfl, rfl, rfl, rfl, rfl, rfl, rfl, rfl, rfl, rfl, rfl, rfl, rfl, rfl, rfl, rfl, rfl, rfl, rfl, rfl, rfl, rfl, rfl, rfl, rfl, rfl, rfl, rfl, rfl, rfl, rfl, rfl, rfl, rfl, rfl, rfl, rfl, rfl, rfl, rfl, rfl, rfl, rfl⟩

@[simp] theorem State.modCore_rest (k : Nat) (f : Core → Core) :
    (s.modCore k f).tick = s.tick ∧ (s.modCore k f).dies = s.dies ∧ (s.modCore k f).coaches = s.coaches ∧
    (s.modCore k f).wings = s.wings ∧ (s.modCore k f).parties = s.parties ∧ (s.modCore k f).launches = s.launches ∧
    (s.modCore k f).jobs = s.jobs ∧ (s.modCore k f).mem = s.mem ∧ (s.modCore k f).host = s.host ∧
    (s.modCore k f).owner = s.owner ∧ (s.modCore k f).ops = s.ops ∧ (s.modCore k f).walks = s.walks ∧
    (s.modCore k f).commits = s.commits ∧ (s.modCore k f).monitors = s.monitors ∧ (s.modCore k f).tcq = s.tcq ∧
    (s.modCore k f).tcqBad = s.tcqBad ∧ (s.modCore k f).ringBad = s.ringBad ∧ (s.modCore k f).kmq = s.kmq ∧
    (s.modCore k f).kmqBad = s.kmqBad ∧ (s.modCore k f).tcqDone = s.tcqDone ∧ (s.modCore k f).pageReqs = s.pageReqs ∧
    (s.modCore k f).nextTag = s.nextTag ∧ (s.modCore k f).hostPages = s.hostPages ∧ (s.modCore k f).keys = s.keys ∧
    (s.modCore k f).seals = s.seals ∧ (s.modCore k f).lineCtr = s.lineCtr ∧ (s.modCore k f).majors = s.majors ∧
    (s.modCore k f).nodes = s.nodes ∧ (s.modCore k f).nodeCache = s.nodeCache ∧ (s.modCore k f).l2 = s.l2 ∧
    (s.modCore k f).dead = s.dead ∧ (s.modCore k f).elided = s.elided ∧ (s.modCore k f).refreshOwed = s.refreshOwed ∧
    (s.modCore k f).refreshAlert = s.refreshAlert ∧ (s.modCore k f).poison = s.poison ∧
    (s.modCore k f).latent = s.latent ∧ (s.modCore k f).granules = s.granules ∧ (s.modCore k f).stalled = s.stalled ∧
    (s.modCore k f).merging = s.merging ∧ (s.modCore k f).linksDown = s.linksDown ∧
    (s.modCore k f).linkOut = s.linkOut ∧ (s.modCore k f).injectors = s.injectors ∧ (s.modCore k f).mbox = s.mbox ∧
    (s.modCore k f).lantern = s.lantern ∧ (s.modCore k f).cfg = s.cfg ∧ (s.modCore k f).bars = s.bars ∧
    (s.modCore k f).leaf = s.leaf ∧ (s.modCore k f).flash = s.flash ∧ (s.modCore k f).seed = s.seed ∧
    (s.modCore k f).limits = s.limits ∧ (s.modCore k f).thermal = s.thermal ∧ (s.modCore k f).cooling = s.cooling ∧
    (s.modCore k f).amps = s.amps ∧ (s.modCore k f).nextLaunch = s.nextLaunch ∧ (s.modCore k f).nextId = s.nextId ∧
    (s.modCore k f).hostOut = s.hostOut ∧ (s.modCore k f).env = s.env ∧ (s.modCore k f).freeCtr = s.freeCtr ∧
    (s.modCore k f).cur = s.cur :=
  ⟨rfl, rfl, rfl, rfl, rfl, rfl, rfl, rfl, rfl, rfl, rfl, rfl, rfl, rfl, rfl, rfl, rfl, rfl, rfl, rfl, rfl, rfl, rfl, rfl, rfl, rfl, rfl, rfl, rfl, rfl, rfl, rfl, rfl, rfl, rfl, rfl, rfl, rfl, rfl, rfl, rfl, rfl, rfl, rfl, rfl, rfl, rfl, rfl, rfl, rfl, rfl, rfl, rfl, rfl, rfl, rfl, rfl, rfl, rfl⟩

@[simp] theorem State.modJob_rest (k : Nat) (f : Job → Job) :
    (s.modJob k f).tick = s.tick ∧ (s.modJob k f).dies = s.dies ∧ (s.modJob k f).coaches = s.coaches ∧
    (s.modJob k f).wings = s.wings ∧ (s.modJob k f).cores = s.cores ∧ (s.modJob k f).parties = s.parties ∧
    (s.modJob k f).launches = s.launches ∧ (s.modJob k f).mem = s.mem ∧ (s.modJob k f).host = s.host ∧
    (s.modJob k f).owner = s.owner ∧ (s.modJob k f).ops = s.ops ∧ (s.modJob k f).walks = s.walks ∧
    (s.modJob k f).commits = s.commits ∧ (s.modJob k f).monitors = s.monitors ∧ (s.modJob k f).tcq = s.tcq ∧
    (s.modJob k f).tcqBad = s.tcqBad ∧ (s.modJob k f).ringBad = s.ringBad ∧ (s.modJob k f).kmq = s.kmq ∧
    (s.modJob k f).kmqBad = s.kmqBad ∧ (s.modJob k f).tcqDone = s.tcqDone ∧ (s.modJob k f).pageReqs = s.pageReqs ∧
    (s.modJob k f).nextTag = s.nextTag ∧ (s.modJob k f).hostPages = s.hostPages ∧ (s.modJob k f).keys = s.keys ∧
    (s.modJob k f).seals = s.seals ∧ (s.modJob k f).lineCtr = s.lineCtr ∧ (s.modJob k f).majors = s.majors ∧
    (s.modJob k f).nodes = s.nodes ∧ (s.modJob k f).nodeCache = s.nodeCache ∧ (s.modJob k f).l2 = s.l2 ∧
    (s.modJob k f).dead = s.dead ∧ (s.modJob k f).elided = s.elided ∧ (s.modJob k f).refreshOwed = s.refreshOwed ∧
    (s.modJob k f).refreshAlert = s.refreshAlert ∧ (s.modJob k f).poison = s.poison ∧ (s.modJob k f).latent = s.latent ∧
    (s.modJob k f).granules = s.granules ∧ (s.modJob k f).stalled = s.stalled ∧ (s.modJob k f).merging = s.merging ∧
    (s.modJob k f).linksDown = s.linksDown ∧ (s.modJob k f).linkOut = s.linkOut ∧
    (s.modJob k f).injectors = s.injectors ∧ (s.modJob k f).mbox = s.mbox ∧ (s.modJob k f).lantern = s.lantern ∧
    (s.modJob k f).cfg = s.cfg ∧ (s.modJob k f).bars = s.bars ∧ (s.modJob k f).leaf = s.leaf ∧
    (s.modJob k f).flash = s.flash ∧ (s.modJob k f).seed = s.seed ∧ (s.modJob k f).limits = s.limits ∧
    (s.modJob k f).thermal = s.thermal ∧ (s.modJob k f).cooling = s.cooling ∧ (s.modJob k f).amps = s.amps ∧
    (s.modJob k f).nextLaunch = s.nextLaunch ∧ (s.modJob k f).nextId = s.nextId ∧ (s.modJob k f).hostOut = s.hostOut ∧
    (s.modJob k f).env = s.env ∧ (s.modJob k f).freeCtr = s.freeCtr ∧ (s.modJob k f).cur = s.cur :=
  ⟨rfl, rfl, rfl, rfl, rfl, rfl, rfl, rfl, rfl, rfl, rfl, rfl, rfl, rfl, rfl, rfl, rfl, rfl, rfl, rfl, rfl, rfl, rfl, rfl, rfl, rfl, rfl, rfl, rfl, rfl, rfl, rfl, rfl, rfl, rfl, rfl, rfl, rfl, rfl, rfl, rfl, rfl, rfl, rfl, rfl, rfl, rfl, rfl, rfl, rfl, rfl, rfl, rfl, rfl, rfl, rfl, rfl, rfl, rfl⟩

@[simp] theorem State.modParty_rest (k : Nat) (f : Party → Party) :
    (s.modParty k f).tick = s.tick ∧ (s.modParty k f).dies = s.dies ∧ (s.modParty k f).coaches = s.coaches ∧
    (s.modParty k f).wings = s.wings ∧ (s.modParty k f).cores = s.cores ∧ (s.modParty k f).launches = s.launches ∧
    (s.modParty k f).jobs = s.jobs ∧ (s.modParty k f).mem = s.mem ∧ (s.modParty k f).host = s.host ∧
    (s.modParty k f).owner = s.owner ∧ (s.modParty k f).ops = s.ops ∧ (s.modParty k f).walks = s.walks ∧
    (s.modParty k f).commits = s.commits ∧ (s.modParty k f).monitors = s.monitors ∧ (s.modParty k f).tcq = s.tcq ∧
    (s.modParty k f).tcqBad = s.tcqBad ∧ (s.modParty k f).ringBad = s.ringBad ∧ (s.modParty k f).kmq = s.kmq ∧
    (s.modParty k f).kmqBad = s.kmqBad ∧ (s.modParty k f).tcqDone = s.tcqDone ∧ (s.modParty k f).pageReqs = s.pageReqs ∧
    (s.modParty k f).nextTag = s.nextTag ∧ (s.modParty k f).hostPages = s.hostPages ∧ (s.modParty k f).keys = s.keys ∧
    (s.modParty k f).seals = s.seals ∧ (s.modParty k f).lineCtr = s.lineCtr ∧ (s.modParty k f).majors = s.majors ∧
    (s.modParty k f).nodes = s.nodes ∧ (s.modParty k f).nodeCache = s.nodeCache ∧ (s.modParty k f).l2 = s.l2 ∧
    (s.modParty k f).dead = s.dead ∧ (s.modParty k f).elided = s.elided ∧ (s.modParty k f).refreshOwed = s.refreshOwed ∧
    (s.modParty k f).refreshAlert = s.refreshAlert ∧ (s.modParty k f).poison = s.poison ∧
    (s.modParty k f).latent = s.latent ∧ (s.modParty k f).granules = s.granules ∧ (s.modParty k f).stalled = s.stalled ∧
    (s.modParty k f).merging = s.merging ∧ (s.modParty k f).linksDown = s.linksDown ∧
    (s.modParty k f).linkOut = s.linkOut ∧ (s.modParty k f).injectors = s.injectors ∧ (s.modParty k f).mbox = s.mbox ∧
    (s.modParty k f).lantern = s.lantern ∧ (s.modParty k f).cfg = s.cfg ∧ (s.modParty k f).bars = s.bars ∧
    (s.modParty k f).leaf = s.leaf ∧ (s.modParty k f).flash = s.flash ∧ (s.modParty k f).seed = s.seed ∧
    (s.modParty k f).limits = s.limits ∧ (s.modParty k f).thermal = s.thermal ∧ (s.modParty k f).cooling = s.cooling ∧
    (s.modParty k f).amps = s.amps ∧ (s.modParty k f).nextLaunch = s.nextLaunch ∧ (s.modParty k f).nextId = s.nextId ∧
    (s.modParty k f).hostOut = s.hostOut ∧ (s.modParty k f).env = s.env ∧ (s.modParty k f).freeCtr = s.freeCtr ∧
    (s.modParty k f).cur = s.cur :=
  ⟨rfl, rfl, rfl, rfl, rfl, rfl, rfl, rfl, rfl, rfl, rfl, rfl, rfl, rfl, rfl, rfl, rfl, rfl, rfl, rfl, rfl, rfl, rfl, rfl, rfl, rfl, rfl, rfl, rfl, rfl, rfl, rfl, rfl, rfl, rfl, rfl, rfl, rfl, rfl, rfl, rfl, rfl, rfl, rfl, rfl, rfl, rfl, rfl, rfl, rfl, rfl, rfl, rfl, rfl, rfl, rfl, rfl, rfl, rfl⟩

@[simp] theorem State.modLaunch_rest (k : Nat) (f : Launch → Launch) :
    (s.modLaunch k f).tick = s.tick ∧ (s.modLaunch k f).dies = s.dies ∧ (s.modLaunch k f).coaches = s.coaches ∧
    (s.modLaunch k f).wings = s.wings ∧ (s.modLaunch k f).cores = s.cores ∧ (s.modLaunch k f).parties = s.parties ∧
    (s.modLaunch k f).jobs = s.jobs ∧ (s.modLaunch k f).mem = s.mem ∧ (s.modLaunch k f).host = s.host ∧
    (s.modLaunch k f).owner = s.owner ∧ (s.modLaunch k f).ops = s.ops ∧ (s.modLaunch k f).walks = s.walks ∧
    (s.modLaunch k f).commits = s.commits ∧ (s.modLaunch k f).monitors = s.monitors ∧ (s.modLaunch k f).tcq = s.tcq ∧
    (s.modLaunch k f).tcqBad = s.tcqBad ∧ (s.modLaunch k f).ringBad = s.ringBad ∧ (s.modLaunch k f).kmq = s.kmq ∧
    (s.modLaunch k f).kmqBad = s.kmqBad ∧ (s.modLaunch k f).tcqDone = s.tcqDone ∧
    (s.modLaunch k f).pageReqs = s.pageReqs ∧ (s.modLaunch k f).nextTag = s.nextTag ∧
    (s.modLaunch k f).hostPages = s.hostPages ∧ (s.modLaunch k f).keys = s.keys ∧ (s.modLaunch k f).seals = s.seals ∧
    (s.modLaunch k f).lineCtr = s.lineCtr ∧ (s.modLaunch k f).majors = s.majors ∧ (s.modLaunch k f).nodes = s.nodes ∧
    (s.modLaunch k f).nodeCache = s.nodeCache ∧ (s.modLaunch k f).l2 = s.l2 ∧ (s.modLaunch k f).dead = s.dead ∧
    (s.modLaunch k f).elided = s.elided ∧ (s.modLaunch k f).refreshOwed = s.refreshOwed ∧
    (s.modLaunch k f).refreshAlert = s.refreshAlert ∧ (s.modLaunch k f).poison = s.poison ∧
    (s.modLaunch k f).latent = s.latent ∧ (s.modLaunch k f).granules = s.granules ∧
    (s.modLaunch k f).stalled = s.stalled ∧ (s.modLaunch k f).merging = s.merging ∧
    (s.modLaunch k f).linksDown = s.linksDown ∧ (s.modLaunch k f).linkOut = s.linkOut ∧
    (s.modLaunch k f).injectors = s.injectors ∧ (s.modLaunch k f).mbox = s.mbox ∧
    (s.modLaunch k f).lantern = s.lantern ∧ (s.modLaunch k f).cfg = s.cfg ∧ (s.modLaunch k f).bars = s.bars ∧
    (s.modLaunch k f).leaf = s.leaf ∧ (s.modLaunch k f).flash = s.flash ∧ (s.modLaunch k f).seed = s.seed ∧
    (s.modLaunch k f).limits = s.limits ∧ (s.modLaunch k f).thermal = s.thermal ∧
    (s.modLaunch k f).cooling = s.cooling ∧ (s.modLaunch k f).amps = s.amps ∧
    (s.modLaunch k f).nextLaunch = s.nextLaunch ∧ (s.modLaunch k f).nextId = s.nextId ∧
    (s.modLaunch k f).hostOut = s.hostOut ∧ (s.modLaunch k f).env = s.env ∧ (s.modLaunch k f).freeCtr = s.freeCtr ∧
    (s.modLaunch k f).cur = s.cur :=
  ⟨rfl, rfl, rfl, rfl, rfl, rfl, rfl, rfl, rfl, rfl, rfl, rfl, rfl, rfl, rfl, rfl, rfl, rfl, rfl, rfl, rfl, rfl, rfl, rfl, rfl, rfl, rfl, rfl, rfl, rfl, rfl, rfl, rfl, rfl, rfl, rfl, rfl, rfl, rfl, rfl, rfl, rfl, rfl, rfl, rfl, rfl, rfl, rfl, rfl, rfl, rfl, rfl, rfl, rfl, rfl, rfl, rfl, rfl, rfl⟩

@[simp] theorem State.setCur_rest (f : Cur → Cur) :
    (s.setCur f).tick = s.tick ∧ (s.setCur f).dies = s.dies ∧ (s.setCur f).coaches = s.coaches ∧
    (s.setCur f).wings = s.wings ∧ (s.setCur f).cores = s.cores ∧ (s.setCur f).parties = s.parties ∧
    (s.setCur f).launches = s.launches ∧ (s.setCur f).jobs = s.jobs ∧ (s.setCur f).mem = s.mem ∧
    (s.setCur f).host = s.host ∧ (s.setCur f).owner = s.owner ∧ (s.setCur f).ops = s.ops ∧
    (s.setCur f).walks = s.walks ∧ (s.setCur f).commits = s.commits ∧ (s.setCur f).monitors = s.monitors ∧
    (s.setCur f).tcq = s.tcq ∧ (s.setCur f).tcqBad = s.tcqBad ∧ (s.setCur f).ringBad = s.ringBad ∧
    (s.setCur f).kmq = s.kmq ∧ (s.setCur f).kmqBad = s.kmqBad ∧ (s.setCur f).tcqDone = s.tcqDone ∧
    (s.setCur f).pageReqs = s.pageReqs ∧ (s.setCur f).nextTag = s.nextTag ∧ (s.setCur f).hostPages = s.hostPages ∧
    (s.setCur f).keys = s.keys ∧ (s.setCur f).seals = s.seals ∧ (s.setCur f).lineCtr = s.lineCtr ∧
    (s.setCur f).majors = s.majors ∧ (s.setCur f).nodes = s.nodes ∧ (s.setCur f).nodeCache = s.nodeCache ∧
    (s.setCur f).l2 = s.l2 ∧ (s.setCur f).dead = s.dead ∧ (s.setCur f).elided = s.elided ∧
    (s.setCur f).refreshOwed = s.refreshOwed ∧ (s.setCur f).refreshAlert = s.refreshAlert ∧
    (s.setCur f).poison = s.poison ∧ (s.setCur f).latent = s.latent ∧ (s.setCur f).granules = s.granules ∧
    (s.setCur f).stalled = s.stalled ∧ (s.setCur f).merging = s.merging ∧ (s.setCur f).linksDown = s.linksDown ∧
    (s.setCur f).linkOut = s.linkOut ∧ (s.setCur f).injectors = s.injectors ∧ (s.setCur f).mbox = s.mbox ∧
    (s.setCur f).lantern = s.lantern ∧ (s.setCur f).cfg = s.cfg ∧ (s.setCur f).bars = s.bars ∧
    (s.setCur f).leaf = s.leaf ∧ (s.setCur f).flash = s.flash ∧ (s.setCur f).seed = s.seed ∧
    (s.setCur f).limits = s.limits ∧ (s.setCur f).thermal = s.thermal ∧ (s.setCur f).cooling = s.cooling ∧
    (s.setCur f).amps = s.amps ∧ (s.setCur f).nextLaunch = s.nextLaunch ∧ (s.setCur f).nextId = s.nextId ∧
    (s.setCur f).hostOut = s.hostOut ∧ (s.setCur f).env = s.env ∧ (s.setCur f).freeCtr = s.freeCtr :=
  ⟨rfl, rfl, rfl, rfl, rfl, rfl, rfl, rfl, rfl, rfl, rfl, rfl, rfl, rfl, rfl, rfl, rfl, rfl, rfl, rfl, rfl, rfl, rfl, rfl, rfl, rfl, rfl, rfl, rfl, rfl, rfl, rfl, rfl, rfl, rfl, rfl, rfl, rfl, rfl, rfl, rfl, rfl, rfl, rfl, rfl, rfl, rfl, rfl, rfl, rfl, rfl, rfl, rfl, rfl, rfl, rfl, rfl, rfl, rfl⟩

@[simp] theorem State.setCfg_rest (f : Cfg → Cfg) :
    (s.setCfg f).tick = s.tick ∧ (s.setCfg f).dies = s.dies ∧ (s.setCfg f).coaches = s.coaches ∧
    (s.setCfg f).wings = s.wings ∧ (s.setCfg f).cores = s.cores ∧ (s.setCfg f).parties = s.parties ∧
    (s.setCfg f).launches = s.launches ∧ (s.setCfg f).jobs = s.jobs ∧ (s.setCfg f).mem = s.mem ∧
    (s.setCfg f).host = s.host ∧ (s.setCfg f).owner = s.owner ∧ (s.setCfg f).ops = s.ops ∧
    (s.setCfg f).walks = s.walks ∧ (s.setCfg f).commits = s.commits ∧ (s.setCfg f).monitors = s.monitors ∧
    (s.setCfg f).tcq = s.tcq ∧ (s.setCfg f).tcqBad = s.tcqBad ∧ (s.setCfg f).ringBad = s.ringBad ∧
    (s.setCfg f).kmq = s.kmq ∧ (s.setCfg f).kmqBad = s.kmqBad ∧ (s.setCfg f).tcqDone = s.tcqDone ∧
    (s.setCfg f).pageReqs = s.pageReqs ∧ (s.setCfg f).nextTag = s.nextTag ∧ (s.setCfg f).hostPages = s.hostPages ∧
    (s.setCfg f).keys = s.keys ∧ (s.setCfg f).seals = s.seals ∧ (s.setCfg f).lineCtr = s.lineCtr ∧
    (s.setCfg f).majors = s.majors ∧ (s.setCfg f).nodes = s.nodes ∧ (s.setCfg f).nodeCache = s.nodeCache ∧
    (s.setCfg f).l2 = s.l2 ∧ (s.setCfg f).dead = s.dead ∧ (s.setCfg f).elided = s.elided ∧
    (s.setCfg f).refreshOwed = s.refreshOwed ∧ (s.setCfg f).refreshAlert = s.refreshAlert ∧
    (s.setCfg f).poison = s.poison ∧ (s.setCfg f).latent = s.latent ∧ (s.setCfg f).granules = s.granules ∧
    (s.setCfg f).stalled = s.stalled ∧ (s.setCfg f).merging = s.merging ∧ (s.setCfg f).linksDown = s.linksDown ∧
    (s.setCfg f).linkOut = s.linkOut ∧ (s.setCfg f).injectors = s.injectors ∧ (s.setCfg f).mbox = s.mbox ∧
    (s.setCfg f).lantern = s.lantern ∧ (s.setCfg f).bars = s.bars ∧ (s.setCfg f).leaf = s.leaf ∧
    (s.setCfg f).flash = s.flash ∧ (s.setCfg f).seed = s.seed ∧ (s.setCfg f).limits = s.limits ∧
    (s.setCfg f).thermal = s.thermal ∧ (s.setCfg f).cooling = s.cooling ∧ (s.setCfg f).amps = s.amps ∧
    (s.setCfg f).nextLaunch = s.nextLaunch ∧ (s.setCfg f).nextId = s.nextId ∧ (s.setCfg f).hostOut = s.hostOut ∧
    (s.setCfg f).env = s.env ∧ (s.setCfg f).freeCtr = s.freeCtr ∧ (s.setCfg f).cur = s.cur :=
  ⟨rfl, rfl, rfl, rfl, rfl, rfl, rfl, rfl, rfl, rfl, rfl, rfl, rfl, rfl, rfl, rfl, rfl, rfl, rfl, rfl, rfl, rfl, rfl, rfl, rfl, rfl, rfl, rfl, rfl, rfl, rfl, rfl, rfl, rfl, rfl, rfl, rfl, rfl, rfl, rfl, rfl, rfl, rfl, rfl, rfl, rfl, rfl, rfl, rfl, rfl, rfl, rfl, rfl, rfl, rfl, rfl, rfl, rfl, rfl⟩

@[simp] theorem State.setMbox_rest (f : Mailbox → Mailbox) :
    (s.setMbox f).tick = s.tick ∧ (s.setMbox f).dies = s.dies ∧ (s.setMbox f).coaches = s.coaches ∧
    (s.setMbox f).wings = s.wings ∧ (s.setMbox f).cores = s.cores ∧ (s.setMbox f).parties = s.parties ∧
    (s.setMbox f).launches = s.launches ∧ (s.setMbox f).jobs = s.jobs ∧ (s.setMbox f).mem = s.mem ∧
    (s.setMbox f).host = s.host ∧ (s.setMbox f).owner = s.owner ∧ (s.setMbox f).ops = s.ops ∧
    (s.setMbox f).walks = s.walks ∧ (s.setMbox f).commits = s.commits ∧ (s.setMbox f).monitors = s.monitors ∧
    (s.setMbox f).tcq = s.tcq ∧ (s.setMbox f).tcqBad = s.tcqBad ∧ (s.setMbox f).ringBad = s.ringBad ∧
    (s.setMbox f).kmq = s.kmq ∧ (s.setMbox f).kmqBad = s.kmqBad ∧ (s.setMbox f).tcqDone = s.tcqDone ∧
    (s.setMbox f).pageReqs = s.pageReqs ∧ (s.setMbox f).nextTag = s.nextTag ∧ (s.setMbox f).hostPages = s.hostPages ∧
    (s.setMbox f).keys = s.keys ∧ (s.setMbox f).seals = s.seals ∧ (s.setMbox f).lineCtr = s.lineCtr ∧
    (s.setMbox f).majors = s.majors ∧ (s.setMbox f).nodes = s.nodes ∧ (s.setMbox f).nodeCache = s.nodeCache ∧
    (s.setMbox f).l2 = s.l2 ∧ (s.setMbox f).dead = s.dead ∧ (s.setMbox f).elided = s.elided ∧
    (s.setMbox f).refreshOwed = s.refreshOwed ∧ (s.setMbox f).refreshAlert = s.refreshAlert ∧
    (s.setMbox f).poison = s.poison ∧ (s.setMbox f).latent = s.latent ∧ (s.setMbox f).granules = s.granules ∧
    (s.setMbox f).stalled = s.stalled ∧ (s.setMbox f).merging = s.merging ∧ (s.setMbox f).linksDown = s.linksDown ∧
    (s.setMbox f).linkOut = s.linkOut ∧ (s.setMbox f).injectors = s.injectors ∧ (s.setMbox f).lantern = s.lantern ∧
    (s.setMbox f).cfg = s.cfg ∧ (s.setMbox f).bars = s.bars ∧ (s.setMbox f).leaf = s.leaf ∧
    (s.setMbox f).flash = s.flash ∧ (s.setMbox f).seed = s.seed ∧ (s.setMbox f).limits = s.limits ∧
    (s.setMbox f).thermal = s.thermal ∧ (s.setMbox f).cooling = s.cooling ∧ (s.setMbox f).amps = s.amps ∧
    (s.setMbox f).nextLaunch = s.nextLaunch ∧ (s.setMbox f).nextId = s.nextId ∧ (s.setMbox f).hostOut = s.hostOut ∧
    (s.setMbox f).env = s.env ∧ (s.setMbox f).freeCtr = s.freeCtr ∧ (s.setMbox f).cur = s.cur :=
  ⟨rfl, rfl, rfl, rfl, rfl, rfl, rfl, rfl, rfl, rfl, rfl, rfl, rfl, rfl, rfl, rfl, rfl, rfl, rfl, rfl, rfl, rfl, rfl, rfl, rfl, rfl, rfl, rfl, rfl, rfl, rfl, rfl, rfl, rfl, rfl, rfl, rfl, rfl, rfl, rfl, rfl, rfl, rfl, rfl, rfl, rfl, rfl, rfl, rfl, rfl, rfl, rfl, rfl, rfl, rfl, rfl, rfl, rfl, rfl⟩

@[simp] theorem State.tickFree_rest :
    (s.tickFree).tick = s.tick ∧ (s.tickFree).dies = s.dies ∧ (s.tickFree).coaches = s.coaches ∧
    (s.tickFree).wings = s.wings ∧ (s.tickFree).cores = s.cores ∧ (s.tickFree).parties = s.parties ∧
    (s.tickFree).launches = s.launches ∧ (s.tickFree).jobs = s.jobs ∧ (s.tickFree).mem = s.mem ∧
    (s.tickFree).host = s.host ∧ (s.tickFree).owner = s.owner ∧ (s.tickFree).ops = s.ops ∧
    (s.tickFree).walks = s.walks ∧ (s.tickFree).commits = s.commits ∧ (s.tickFree).monitors = s.monitors ∧
    (s.tickFree).tcq = s.tcq ∧ (s.tickFree).tcqBad = s.tcqBad ∧ (s.tickFree).ringBad = s.ringBad ∧
    (s.tickFree).kmq = s.kmq ∧ (s.tickFree).kmqBad = s.kmqBad ∧ (s.tickFree).tcqDone = s.tcqDone ∧
    (s.tickFree).pageReqs = s.pageReqs ∧ (s.tickFree).nextTag = s.nextTag ∧ (s.tickFree).hostPages = s.hostPages ∧
    (s.tickFree).keys = s.keys ∧ (s.tickFree).seals = s.seals ∧ (s.tickFree).lineCtr = s.lineCtr ∧
    (s.tickFree).majors = s.majors ∧ (s.tickFree).nodes = s.nodes ∧ (s.tickFree).nodeCache = s.nodeCache ∧
    (s.tickFree).l2 = s.l2 ∧ (s.tickFree).dead = s.dead ∧ (s.tickFree).elided = s.elided ∧
    (s.tickFree).refreshOwed = s.refreshOwed ∧ (s.tickFree).refreshAlert = s.refreshAlert ∧
    (s.tickFree).poison = s.poison ∧ (s.tickFree).latent = s.latent ∧ (s.tickFree).granules = s.granules ∧
    (s.tickFree).stalled = s.stalled ∧ (s.tickFree).merging = s.merging ∧ (s.tickFree).linksDown = s.linksDown ∧
    (s.tickFree).linkOut = s.linkOut ∧ (s.tickFree).injectors = s.injectors ∧ (s.tickFree).mbox = s.mbox ∧
    (s.tickFree).lantern = s.lantern ∧ (s.tickFree).cfg = s.cfg ∧ (s.tickFree).bars = s.bars ∧
    (s.tickFree).leaf = s.leaf ∧ (s.tickFree).flash = s.flash ∧ (s.tickFree).seed = s.seed ∧
    (s.tickFree).limits = s.limits ∧ (s.tickFree).thermal = s.thermal ∧ (s.tickFree).cooling = s.cooling ∧
    (s.tickFree).amps = s.amps ∧ (s.tickFree).nextLaunch = s.nextLaunch ∧ (s.tickFree).nextId = s.nextId ∧
    (s.tickFree).hostOut = s.hostOut ∧ (s.tickFree).env = s.env ∧ (s.tickFree).cur = s.cur :=
  ⟨rfl, rfl, rfl, rfl, rfl, rfl, rfl, rfl, rfl, rfl, rfl, rfl, rfl, rfl, rfl, rfl, rfl, rfl, rfl, rfl, rfl, rfl, rfl, rfl, rfl, rfl, rfl, rfl, rfl, rfl, rfl, rfl, rfl, rfl, rfl, rfl, rfl, rfl, rfl, rfl, rfl, rfl, rfl, rfl, rfl, rfl, rfl, rfl, rfl, rfl, rfl, rfl, rfl, rfl, rfl, rfl, rfl, rfl, rfl⟩

@[simp] theorem State.putOp_rest (o : Op) :
    (s.putOp o).tick = s.tick ∧ (s.putOp o).dies = s.dies ∧ (s.putOp o).coaches = s.coaches ∧
    (s.putOp o).wings = s.wings ∧ (s.putOp o).cores = s.cores ∧ (s.putOp o).parties = s.parties ∧
    (s.putOp o).launches = s.launches ∧ (s.putOp o).jobs = s.jobs ∧ (s.putOp o).mem = s.mem ∧
    (s.putOp o).host = s.host ∧ (s.putOp o).owner = s.owner ∧ (s.putOp o).walks = s.walks ∧
    (s.putOp o).commits = s.commits ∧ (s.putOp o).monitors = s.monitors ∧ (s.putOp o).tcq = s.tcq ∧
    (s.putOp o).tcqBad = s.tcqBad ∧ (s.putOp o).ringBad = s.ringBad ∧ (s.putOp o).kmq = s.kmq ∧
    (s.putOp o).kmqBad = s.kmqBad ∧ (s.putOp o).tcqDone = s.tcqDone ∧ (s.putOp o).pageReqs = s.pageReqs ∧
    (s.putOp o).nextTag = s.nextTag ∧ (s.putOp o).hostPages = s.hostPages ∧ (s.putOp o).keys = s.keys ∧
    (s.putOp o).seals = s.seals ∧ (s.putOp o).lineCtr = s.lineCtr ∧ (s.putOp o).majors = s.majors ∧
    (s.putOp o).nodes = s.nodes ∧ (s.putOp o).nodeCache = s.nodeCache ∧ (s.putOp o).l2 = s.l2 ∧
    (s.putOp o).dead = s.dead ∧ (s.putOp o).elided = s.elided ∧ (s.putOp o).refreshOwed = s.refreshOwed ∧
    (s.putOp o).refreshAlert = s.refreshAlert ∧ (s.putOp o).poison = s.poison ∧ (s.putOp o).latent = s.latent ∧
    (s.putOp o).granules = s.granules ∧ (s.putOp o).stalled = s.stalled ∧ (s.putOp o).merging = s.merging ∧
    (s.putOp o).linksDown = s.linksDown ∧ (s.putOp o).linkOut = s.linkOut ∧ (s.putOp o).injectors = s.injectors ∧
    (s.putOp o).mbox = s.mbox ∧ (s.putOp o).lantern = s.lantern ∧ (s.putOp o).cfg = s.cfg ∧ (s.putOp o).bars = s.bars ∧
    (s.putOp o).leaf = s.leaf ∧ (s.putOp o).flash = s.flash ∧ (s.putOp o).seed = s.seed ∧
    (s.putOp o).limits = s.limits ∧ (s.putOp o).thermal = s.thermal ∧ (s.putOp o).cooling = s.cooling ∧
    (s.putOp o).amps = s.amps ∧ (s.putOp o).nextLaunch = s.nextLaunch ∧ (s.putOp o).nextId = s.nextId ∧
    (s.putOp o).hostOut = s.hostOut ∧ (s.putOp o).env = s.env ∧ (s.putOp o).freeCtr = s.freeCtr ∧
    (s.putOp o).cur = s.cur :=
  ⟨rfl, rfl, rfl, rfl, rfl, rfl, rfl, rfl, rfl, rfl, rfl, rfl, rfl, rfl, rfl, rfl, rfl, rfl, rfl, rfl, rfl, rfl, rfl, rfl, rfl, rfl, rfl, rfl, rfl, rfl, rfl, rfl, rfl, rfl, rfl, rfl, rfl, rfl, rfl, rfl, rfl, rfl, rfl, rfl, rfl, rfl, rfl, rfl, rfl, rfl, rfl, rfl, rfl, rfl, rfl, rfl, rfl, rfl, rfl⟩

@[simp] theorem State.dropOp_rest (i : Nat) :
    (s.dropOp i).tick = s.tick ∧ (s.dropOp i).dies = s.dies ∧ (s.dropOp i).coaches = s.coaches ∧
    (s.dropOp i).wings = s.wings ∧ (s.dropOp i).cores = s.cores ∧ (s.dropOp i).parties = s.parties ∧
    (s.dropOp i).launches = s.launches ∧ (s.dropOp i).jobs = s.jobs ∧ (s.dropOp i).mem = s.mem ∧
    (s.dropOp i).host = s.host ∧ (s.dropOp i).owner = s.owner ∧ (s.dropOp i).walks = s.walks ∧
    (s.dropOp i).commits = s.commits ∧ (s.dropOp i).monitors = s.monitors ∧ (s.dropOp i).tcq = s.tcq ∧
    (s.dropOp i).tcqBad = s.tcqBad ∧ (s.dropOp i).ringBad = s.ringBad ∧ (s.dropOp i).kmq = s.kmq ∧
    (s.dropOp i).kmqBad = s.kmqBad ∧ (s.dropOp i).tcqDone = s.tcqDone ∧ (s.dropOp i).pageReqs = s.pageReqs ∧
    (s.dropOp i).nextTag = s.nextTag ∧ (s.dropOp i).hostPages = s.hostPages ∧ (s.dropOp i).keys = s.keys ∧
    (s.dropOp i).seals = s.seals ∧ (s.dropOp i).lineCtr = s.lineCtr ∧ (s.dropOp i).majors = s.majors ∧
    (s.dropOp i).nodes = s.nodes ∧ (s.dropOp i).nodeCache = s.nodeCache ∧ (s.dropOp i).l2 = s.l2 ∧
    (s.dropOp i).dead = s.dead ∧ (s.dropOp i).elided = s.elided ∧ (s.dropOp i).refreshOwed = s.refreshOwed ∧
    (s.dropOp i).refreshAlert = s.refreshAlert ∧ (s.dropOp i).poison = s.poison ∧ (s.dropOp i).latent = s.latent ∧
    (s.dropOp i).granules = s.granules ∧ (s.dropOp i).stalled = s.stalled ∧ (s.dropOp i).merging = s.merging ∧
    (s.dropOp i).linksDown = s.linksDown ∧ (s.dropOp i).linkOut = s.linkOut ∧ (s.dropOp i).injectors = s.injectors ∧
    (s.dropOp i).mbox = s.mbox ∧ (s.dropOp i).lantern = s.lantern ∧ (s.dropOp i).cfg = s.cfg ∧
    (s.dropOp i).bars = s.bars ∧ (s.dropOp i).leaf = s.leaf ∧ (s.dropOp i).flash = s.flash ∧
    (s.dropOp i).seed = s.seed ∧ (s.dropOp i).limits = s.limits ∧ (s.dropOp i).thermal = s.thermal ∧
    (s.dropOp i).cooling = s.cooling ∧ (s.dropOp i).amps = s.amps ∧ (s.dropOp i).nextLaunch = s.nextLaunch ∧
    (s.dropOp i).nextId = s.nextId ∧ (s.dropOp i).hostOut = s.hostOut ∧ (s.dropOp i).env = s.env ∧
    (s.dropOp i).freeCtr = s.freeCtr ∧ (s.dropOp i).cur = s.cur :=
  ⟨rfl, rfl, rfl, rfl, rfl, rfl, rfl, rfl, rfl, rfl, rfl, rfl, rfl, rfl, rfl, rfl, rfl, rfl, rfl, rfl, rfl, rfl, rfl, rfl, rfl, rfl, rfl, rfl, rfl, rfl, rfl, rfl, rfl, rfl, rfl, rfl, rfl, rfl, rfl, rfl, rfl, rfl, rfl, rfl, rfl, rfl, rfl, rfl, rfl, rfl, rfl, rfl, rfl, rfl, rfl, rfl, rfl, rfl, rfl⟩

/-! `coach` after `putCoach`. -/

@[simp] theorem State.putCoach_coaches (k : Nat) (x : Coach) : (s.putCoach k x).coaches = sset Coach.blank s.coaches k x := rfl
@[simp] theorem State.modCoach_coaches (k : Nat) (g : Coach → Coach) : (s.modCoach k g).coaches = sset Coach.blank s.coaches k (g (s.coach k)) := rfl
theorem State.putCoach_coach_same (k : Nat) (x : Coach) (h : srising 0 s.coaches = true) : (s.putCoach k x).coach k = x :=
  sget_sset_same _ k x h
theorem State.putCoach_coach_other (k j : Nat) (x : Coach) (h : srising 0 s.coaches = true) (hj : j ≠ k) : (s.putCoach k x).coach j = s.coach j :=
  sget_sset_other _ x h hj
@[simp] theorem State.putCoach_wing (k j : Nat) (x : Coach) : (s.putCoach k x).wing j = s.wing j := rfl
@[simp] theorem State.modCoach_wing (k j : Nat) (g : Coach → Coach) : (s.modCoach k g).wing j = s.wing j := rfl
@[simp] theorem State.putCoach_core (k j : Nat) (x : Coach) : (s.putCoach k x).core j = s.core j := rfl
@[simp] theorem State.modCoach_core (k j : Nat) (g : Coach → Coach) : (s.modCoach k g).core j = s.core j := rfl
@[simp] theorem State.putCoach_die (k j : Nat) (x : Coach) : (s.putCoach k x).die j = s.die j := rfl
@[simp] theorem State.modCoach_die (k j : Nat) (g : Coach → Coach) : (s.modCoach k g).die j = s.die j := rfl
@[simp] theorem State.putCoach_job (k j : Nat) (x : Coach) : (s.putCoach k x).job j = s.job j := rfl
@[simp] theorem State.modCoach_job (k j : Nat) (g : Coach → Coach) : (s.modCoach k g).job j = s.job j := rfl
@[simp] theorem State.putCoach_party (k j : Nat) (x : Coach) : (s.putCoach k x).party j = s.party j := rfl
@[simp] theorem State.modCoach_party (k j : Nat) (g : Coach → Coach) : (s.modCoach k g).party j = s.party j := rfl
@[simp] theorem State.putCoach_launch (k j : Nat) (x : Coach) : (s.putCoach k x).launch j = s.launch j := rfl
@[simp] theorem State.modCoach_launch (k j : Nat) (g : Coach → Coach) : (s.modCoach k g).launch j = s.launch j := rfl

/-! `wing` after `putWing`. -/

@[simp] theorem State.putWing_wings (k : Nat) (x : Wing) : (s.putWing k x).wings = sset Wing.blank s.wings k x := rfl
@[simp] theorem State.modWing_wings (k : Nat) (g : Wing → Wing) : (s.modWing k g).wings = sset Wing.blank s.wings k (g (s.wing k)) := rfl
theorem State.putWing_wing_same (k : Nat) (x : Wing) (h : srising 0 s.wings = true) : (s.putWing k x).wing k = x :=
  sget_sset_same _ k x h
theorem State.putWing_wing_other (k j : Nat) (x : Wing) (h : srising 0 s.wings = true) (hj : j ≠ k) : (s.putWing k x).wing j = s.wing j :=
  sget_sset_other _ x h hj
@[simp] theorem State.putWing_coach (k j : Nat) (x : Wing) : (s.putWing k x).coach j = s.coach j := rfl
@[simp] theorem State.modWing_coach (k j : Nat) (g : Wing → Wing) : (s.modWing k g).coach j = s.coach j := rfl
@[simp] theorem State.putWing_core (k j : Nat) (x : Wing) : (s.putWing k x).core j = s.core j := rfl
@[simp] theorem State.modWing_core (k j : Nat) (g : Wing → Wing) : (s.modWing k g).core j = s.core j := rfl
@[simp] theorem State.putWing_die (k j : Nat) (x : Wing) : (s.putWing k x).die j = s.die j := rfl
@[simp] theorem State.modWing_die (k j : Nat) (g : Wing → Wing) : (s.modWing k g).die j = s.die j := rfl
@[simp] theorem State.putWing_job (k j : Nat) (x : Wing) : (s.putWing k x).job j = s.job j := rfl
@[simp] theorem State.modWing_job (k j : Nat) (g : Wing → Wing) : (s.modWing k g).job j = s.job j := rfl
@[simp] theorem State.putWing_party (k j : Nat) (x : Wing) : (s.putWing k x).party j = s.party j := rfl
@[simp] theorem State.modWing_party (k j : Nat) (g : Wing → Wing) : (s.modWing k g).party j = s.party j := rfl
@[simp] theorem State.putWing_launch (k j : Nat) (x : Wing) : (s.putWing k x).launch j = s.launch j := rfl
@[simp] theorem State.modWing_launch (k j : Nat) (g : Wing → Wing) : (s.modWing k g).launch j = s.launch j := rfl

/-! `core` after `putCore`. -/

@[simp] theorem State.putCore_cores (k : Nat) (x : Core) : (s.putCore k x).cores = sset Core.blank s.cores k x := rfl
@[simp] theorem State.modCore_cores (k : Nat) (g : Core → Core) : (s.modCore k g).cores = sset Core.blank s.cores k (g (s.core k)) := rfl
theorem State.putCore_core_same (k : Nat) (x : Core) (h : srising 0 s.cores = true) : (s.putCore k x).core k = x :=
  sget_sset_same _ k x h
theorem State.putCore_core_other (k j : Nat) (x : Core) (h : srising 0 s.cores = true) (hj : j ≠ k) : (s.putCore k x).core j = s.core j :=
  sget_sset_other _ x h hj
@[simp] theorem State.putCore_coach (k j : Nat) (x : Core) : (s.putCore k x).coach j = s.coach j := rfl
@[simp] theorem State.modCore_coach (k j : Nat) (g : Core → Core) : (s.modCore k g).coach j = s.coach j := rfl
@[simp] theorem State.putCore_wing (k j : Nat) (x : Core) : (s.putCore k x).wing j = s.wing j := rfl
@[simp] theorem State.modCore_wing (k j : Nat) (g : Core → Core) : (s.modCore k g).wing j = s.wing j := rfl
@[simp] theorem State.putCore_die (k j : Nat) (x : Core) : (s.putCore k x).die j = s.die j := rfl
@[simp] theorem State.modCore_die (k j : Nat) (g : Core → Core) : (s.modCore k g).die j = s.die j := rfl
@[simp] theorem State.putCore_job (k j : Nat) (x : Core) : (s.putCore k x).job j = s.job j := rfl
@[simp] theorem State.modCore_job (k j : Nat) (g : Core → Core) : (s.modCore k g).job j = s.job j := rfl
@[simp] theorem State.putCore_party (k j : Nat) (x : Core) : (s.putCore k x).party j = s.party j := rfl
@[simp] theorem State.modCore_party (k j : Nat) (g : Core → Core) : (s.modCore k g).party j = s.party j := rfl
@[simp] theorem State.putCore_launch (k j : Nat) (x : Core) : (s.putCore k x).launch j = s.launch j := rfl
@[simp] theorem State.modCore_launch (k j : Nat) (g : Core → Core) : (s.modCore k g).launch j = s.launch j := rfl

/-! `die` after `putDie`. -/

@[simp] theorem State.putDie_dies (k : Nat) (x : Die) : (s.putDie k x).dies = sset Die.reset s.dies k x := rfl
@[simp] theorem State.modDie_dies (k : Nat) (g : Die → Die) : (s.modDie k g).dies = sset Die.reset s.dies k (g (s.die k)) := rfl
theorem State.putDie_die_same (k : Nat) (x : Die) (h : srising 0 s.dies = true) : (s.putDie k x).die k = x :=
  sget_sset_same _ k x h
theorem State.putDie_die_other (k j : Nat) (x : Die) (h : srising 0 s.dies = true) (hj : j ≠ k) : (s.putDie k x).die j = s.die j :=
  sget_sset_other _ x h hj
@[simp] theorem State.putDie_coach (k j : Nat) (x : Die) : (s.putDie k x).coach j = s.coach j := rfl
@[simp] theorem State.modDie_coach (k j : Nat) (g : Die → Die) : (s.modDie k g).coach j = s.coach j := rfl
@[simp] theorem State.putDie_wing (k j : Nat) (x : Die) : (s.putDie k x).wing j = s.wing j := rfl
@[simp] theorem State.modDie_wing (k j : Nat) (g : Die → Die) : (s.modDie k g).wing j = s.wing j := rfl
@[simp] theorem State.putDie_core (k j : Nat) (x : Die) : (s.putDie k x).core j = s.core j := rfl
@[simp] theorem State.modDie_core (k j : Nat) (g : Die → Die) : (s.modDie k g).core j = s.core j := rfl
@[simp] theorem State.putDie_job (k j : Nat) (x : Die) : (s.putDie k x).job j = s.job j := rfl
@[simp] theorem State.modDie_job (k j : Nat) (g : Die → Die) : (s.modDie k g).job j = s.job j := rfl
@[simp] theorem State.putDie_party (k j : Nat) (x : Die) : (s.putDie k x).party j = s.party j := rfl
@[simp] theorem State.modDie_party (k j : Nat) (g : Die → Die) : (s.modDie k g).party j = s.party j := rfl
@[simp] theorem State.putDie_launch (k j : Nat) (x : Die) : (s.putDie k x).launch j = s.launch j := rfl
@[simp] theorem State.modDie_launch (k j : Nat) (g : Die → Die) : (s.modDie k g).launch j = s.launch j := rfl

/-! `job` after `putJob`. -/

@[simp] theorem State.putJob_jobs (k : Nat) (x : Job) : (s.putJob k x).jobs = sset Job.blank s.jobs k x := rfl
@[simp] theorem State.modJob_jobs (k : Nat) (g : Job → Job) : (s.modJob k g).jobs = sset Job.blank s.jobs k (g (s.job k)) := rfl
theorem State.putJob_job_same (k : Nat) (x : Job) (h : srising 0 s.jobs = true) : (s.putJob k x).job k = x :=
  sget_sset_same _ k x h
theorem State.putJob_job_other (k j : Nat) (x : Job) (h : srising 0 s.jobs = true) (hj : j ≠ k) : (s.putJob k x).job j = s.job j :=
  sget_sset_other _ x h hj
@[simp] theorem State.putJob_coach (k j : Nat) (x : Job) : (s.putJob k x).coach j = s.coach j := rfl
@[simp] theorem State.modJob_coach (k j : Nat) (g : Job → Job) : (s.modJob k g).coach j = s.coach j := rfl
@[simp] theorem State.putJob_wing (k j : Nat) (x : Job) : (s.putJob k x).wing j = s.wing j := rfl
@[simp] theorem State.modJob_wing (k j : Nat) (g : Job → Job) : (s.modJob k g).wing j = s.wing j := rfl
@[simp] theorem State.putJob_core (k j : Nat) (x : Job) : (s.putJob k x).core j = s.core j := rfl
@[simp] theorem State.modJob_core (k j : Nat) (g : Job → Job) : (s.modJob k g).core j = s.core j := rfl
@[simp] theorem State.putJob_die (k j : Nat) (x : Job) : (s.putJob k x).die j = s.die j := rfl
@[simp] theorem State.modJob_die (k j : Nat) (g : Job → Job) : (s.modJob k g).die j = s.die j := rfl
@[simp] theorem State.putJob_party (k j : Nat) (x : Job) : (s.putJob k x).party j = s.party j := rfl
@[simp] theorem State.modJob_party (k j : Nat) (g : Job → Job) : (s.modJob k g).party j = s.party j := rfl
@[simp] theorem State.putJob_launch (k j : Nat) (x : Job) : (s.putJob k x).launch j = s.launch j := rfl
@[simp] theorem State.modJob_launch (k j : Nat) (g : Job → Job) : (s.modJob k g).launch j = s.launch j := rfl

/-! `party` after `putParty`. -/

@[simp] theorem State.putParty_parties (k : Nat) (x : Party) : (s.putParty k x).parties = sset Party.blank s.parties k x := rfl
@[simp] theorem State.modParty_parties (k : Nat) (g : Party → Party) : (s.modParty k g).parties = sset Party.blank s.parties k (g (s.party k)) := rfl
theorem State.putParty_party_same (k : Nat) (x : Party) (h : srising 0 s.parties = true) : (s.putParty k x).party k = x :=
  sget_sset_same _ k x h
theorem State.putParty_party_other (k j : Nat) (x : Party) (h : srising 0 s.parties = true) (hj : j ≠ k) : (s.putParty k x).party j = s.party j :=
  sget_sset_other _ x h hj
@[simp] theorem State.putParty_coach (k j : Nat) (x : Party) : (s.putParty k x).coach j = s.coach j := rfl
@[simp] theorem State.modParty_coach (k j : Nat) (g : Party → Party) : (s.modParty k g).coach j = s.coach j := rfl
@[simp] theorem State.putParty_wing (k j : Nat) (x : Party) : (s.putParty k x).wing j = s.wing j := rfl
@[simp] theorem State.modParty_wing (k j : Nat) (g : Party → Party) : (s.modParty k g).wing j = s.wing j := rfl
@[simp] theorem State.putParty_core (k j : Nat) (x : Party) : (s.putParty k x).core j = s.core j := rfl
@[simp] theorem State.modParty_core (k j : Nat) (g : Party → Party) : (s.modParty k g).core j = s.core j := rfl
@[simp] theorem State.putParty_die (k j : Nat) (x : Party) : (s.putParty k x).die j = s.die j := rfl
@[simp] theorem State.modParty_die (k j : Nat) (g : Party → Party) : (s.modParty k g).die j = s.die j := rfl
@[simp] theorem State.putParty_job (k j : Nat) (x : Party) : (s.putParty k x).job j = s.job j := rfl
@[simp] theorem State.modParty_job (k j : Nat) (g : Party → Party) : (s.modParty k g).job j = s.job j := rfl
@[simp] theorem State.putParty_launch (k j : Nat) (x : Party) : (s.putParty k x).launch j = s.launch j := rfl
@[simp] theorem State.modParty_launch (k j : Nat) (g : Party → Party) : (s.modParty k g).launch j = s.launch j := rfl

/-! `launch` after `putLaunch`. -/

@[simp] theorem State.putLaunch_launches (k : Nat) (x : Launch) : (s.putLaunch k x).launches = sset Launch.blank s.launches k x := rfl
@[simp] theorem State.modLaunch_launches (k : Nat) (g : Launch → Launch) : (s.modLaunch k g).launches = sset Launch.blank s.launches k (g (s.launch k)) := rfl
theorem State.putLaunch_launch_same (k : Nat) (x : Launch) (h : srising 0 s.launches = true) : (s.putLaunch k x).launch k = x :=
  sget_sset_same _ k x h
theorem State.putLaunch_launch_other (k j : Nat) (x : Launch) (h : srising 0 s.launches = true) (hj : j ≠ k) : (s.putLaunch k x).launch j = s.launch j :=
  sget_sset_other _ x h hj
@[simp] theorem State.putLaunch_coach (k j : Nat) (x : Launch) : (s.putLaunch k x).coach j = s.coach j := rfl
@[simp] theorem State.modLaunch_coach (k j : Nat) (g : Launch → Launch) : (s.modLaunch k g).coach j = s.coach j := rfl
@[simp] theorem State.putLaunch_wing (k j : Nat) (x : Launch) : (s.putLaunch k x).wing j = s.wing j := rfl
@[simp] theorem State.modLaunch_wing (k j : Nat) (g : Launch → Launch) : (s.modLaunch k g).wing j = s.wing j := rfl
@[simp] theorem State.putLaunch_core (k j : Nat) (x : Launch) : (s.putLaunch k x).core j = s.core j := rfl
@[simp] theorem State.modLaunch_core (k j : Nat) (g : Launch → Launch) : (s.modLaunch k g).core j = s.core j := rfl
@[simp] theorem State.putLaunch_die (k j : Nat) (x : Launch) : (s.putLaunch k x).die j = s.die j := rfl
@[simp] theorem State.modLaunch_die (k j : Nat) (g : Launch → Launch) : (s.modLaunch k g).die j = s.die j := rfl
@[simp] theorem State.putLaunch_job (k j : Nat) (x : Launch) : (s.putLaunch k x).job j = s.job j := rfl
@[simp] theorem State.modLaunch_job (k j : Nat) (g : Launch → Launch) : (s.modLaunch k g).job j = s.job j := rfl
@[simp] theorem State.putLaunch_party (k j : Nat) (x : Launch) : (s.putLaunch k x).party j = s.party j := rfl
@[simp] theorem State.modLaunch_party (k j : Nat) (g : Launch → Launch) : (s.modLaunch k g).party j = s.party j := rfl

@[simp] theorem State.setCur_tables (f : Cur → Cur) (k : Nat) :
    (s.setCur f).coach k = s.coach k ∧
      (s.setCur f).wing k = s.wing k ∧
      (s.setCur f).core k = s.core k ∧
      (s.setCur f).die k = s.die k ∧
      (s.setCur f).job k = s.job k ∧
      (s.setCur f).party k = s.party k ∧
      (s.setCur f).launch k = s.launch k :=
  ⟨rfl, rfl, rfl, rfl, rfl, rfl, rfl⟩

@[simp] theorem State.setCfg_tables (f : Cfg → Cfg) (k : Nat) :
    (s.setCfg f).coach k = s.coach k ∧
      (s.setCfg f).wing k = s.wing k ∧
      (s.setCfg f).core k = s.core k ∧
      (s.setCfg f).die k = s.die k ∧
      (s.setCfg f).job k = s.job k ∧
      (s.setCfg f).party k = s.party k ∧
      (s.setCfg f).launch k = s.launch k :=
  ⟨rfl, rfl, rfl, rfl, rfl, rfl, rfl⟩

@[simp] theorem State.setMbox_tables (f : Mailbox → Mailbox) (k : Nat) :
    (s.setMbox f).coach k = s.coach k ∧
      (s.setMbox f).wing k = s.wing k ∧
      (s.setMbox f).core k = s.core k ∧
      (s.setMbox f).die k = s.die k ∧
      (s.setMbox f).job k = s.job k ∧
      (s.setMbox f).party k = s.party k ∧
      (s.setMbox f).launch k = s.launch k :=
  ⟨rfl, rfl, rfl, rfl, rfl, rfl, rfl⟩

@[simp] theorem State.tickFree_tables(k : Nat) :
    (s.tickFree).coach k = s.coach k ∧
      (s.tickFree).wing k = s.wing k ∧
      (s.tickFree).core k = s.core k ∧
      (s.tickFree).die k = s.die k ∧
      (s.tickFree).job k = s.job k ∧
      (s.tickFree).party k = s.party k ∧
      (s.tickFree).launch k = s.launch k :=
  ⟨rfl, rfl, rfl, rfl, rfl, rfl, rfl⟩

@[simp] theorem State.putOp_tables (o : Op) (k : Nat) :
    (s.putOp o).coach k = s.coach k ∧
      (s.putOp o).wing k = s.wing k ∧
      (s.putOp o).core k = s.core k ∧
      (s.putOp o).die k = s.die k ∧
      (s.putOp o).job k = s.job k ∧
      (s.putOp o).party k = s.party k ∧
      (s.putOp o).launch k = s.launch k :=
  ⟨rfl, rfl, rfl, rfl, rfl, rfl, rfl⟩

@[simp] theorem State.dropOp_tables (i : Nat) (k : Nat) :
    (s.dropOp i).coach k = s.coach k ∧
      (s.dropOp i).wing k = s.wing k ∧
      (s.dropOp i).core k = s.core k ∧
      (s.dropOp i).die k = s.die k ∧
      (s.dropOp i).job k = s.job k ∧
      (s.dropOp i).party k = s.party k ∧
      (s.dropOp i).launch k = s.launch k :=
  ⟨rfl, rfl, rfl, rfl, rfl, rfl, rfl⟩

@[simp] theorem State.setCur_cur (f : Cur → Cur) : (s.setCur f).cur = f s.cur := rfl
@[simp] theorem State.setCfg_cfg (f : Cfg → Cfg) : (s.setCfg f).cfg = f s.cfg := rfl
@[simp] theorem State.setMbox_mbox (f : Mailbox → Mailbox) : (s.setMbox f).mbox = f s.mbox := rfl
@[simp] theorem State.tickFree_freeCtr : s.tickFree.freeCtr = s.freeCtr + 1 := rfl

end Sys2Proof.Machine
end

