-- ==== Sys2Proof/Laws/Party.lean ====
section
/-! SUPPORT. What a cut, a commit point and a commit before a hard access leave as it is. -/

namespace Sys2Proof.Machine

/-- Parts of the state that a cut or a commit does not touch. -/
def State.steady (s t : State) : Prop :=
  t.coaches = s.coaches ∧ t.mem = s.mem ∧ t.host = s.host ∧ t.cur = s.cur ∧ t.bars = s.bars ∧
    t.dies = s.dies ∧ t.tick = s.tick ∧ t.monitors = s.monitors ∧ t.walks = s.walks ∧ t.freeCtr = s.freeCtr

theorem State.steady_refl (s : State) : s.steady s := ⟨rfl, rfl, rfl, rfl, rfl, rfl, rfl, rfl, rfl, rfl⟩

theorem State.steady.trans {s t u : State} (h : s.steady t) (g : t.steady u) : s.steady u := by
  obtain ⟨h1, h2, h3, h4, h5, h6, h7, h8, h9, h10⟩ := h
  obtain ⟨g1, g2, g3, g4, g5, g6, g7, g8, g9, g10⟩ := g
  exact ⟨g1.trans h1, g2.trans h2, g3.trans h3, g4.trans h4, g5.trans h5, g6.trans h6, g7.trans h7, g8.trans h8, g9.trans h9,
    g10.trans h10⟩

theorem State.modParty_steady (s : State) (p : Nat) (f : Party → Party) : s.steady (s.modParty p f) := s.steady_refl
theorem State.modLaunch_steady (s : State) (l : Nat) (f : Launch → Launch) : s.steady (s.modLaunch l f) := s.steady_refl

theorem State.takeCut_steady (s : State) (a d : Nat) : s.steady (s.takeCut a d) := s.steady_refl

theorem State.releaseCut_steady (s : State) (a d : Nat) : s.steady (s.releaseCut a d) := by
  unfold State.releaseCut
  split
  · exact s.takeCut_steady a d
  · exact s.steady_refl

theorem State.commitStores_steady (s : State) (p : Nat) (all : Bool) : s.steady (s.commitStores p all) := by
  unfold State.commitStores
  dsimp only
  split <;> exact s.steady_refl

theorem State.acceptCmds_steady (s : State) (p : Nat) (all : Bool) : s.steady (s.acceptCmds p all) := by
  unfold State.acceptCmds
  dsimp only
  split <;> exact s.steady_refl

theorem State.commitWork_steady (s : State) (p : Nat) (all : Bool) (f : Party → Party) :
    s.steady (s.commitWork p all f) := by
  unfold State.commitWork
  split
  · exact State.modParty_steady s p f
  · exact ((s.commitStores_steady p all).trans (State.acceptCmds_steady _ p all)).trans (State.modParty_steady _ p _)

theorem State.cutFor_steady (s : State) (p : Nat) : s.steady (s.cutFor p) := by
  unfold State.cutFor
  split
  · exact s.steady_refl
  · exact State.releaseCut_steady _ _ _

theorem State.commitThen_steady (s : State) (p : Nat) (f : Party → Party) : s.steady (s.commitThen p f) :=
  (s.commitWork_steady p false f).trans (State.cutFor_steady _ p)

/-- A commit point leaves coaches, memories and the bundle in execution as they are (R328). -/
theorem State.commitPoint_steady (s : State) (p : Nat) : s.steady (s.commitPoint p) := s.commitThen_steady p id

/-- So does the commit before an access that cannot be dropped (R223). -/
theorem State.commitHard_steady (s : State) (p : Nat) : s.steady (s.commitHard p) := by
  unfold State.commitHard
  split
  · exact s.steady_refl
  · exact ((s.commitStores_steady p false).trans (State.acceptCmds_steady _ p false)).trans (State.modParty_steady _ p _)

theorem State.steady.coach {s t : State} (h : s.steady t) (k : Nat) : t.coach k = s.coach k := by
  simp [State.coach, h.1]

theorem State.steady.handlePlace {s t : State} (h : s.steady t) (x : Handle) (off : Nat) :
    t.handlePlace x off = s.handlePlace x off := by
  simp [State.handlePlace, State.placeOf, State.barPa?, h.2.2.2.2.1]

end Sys2Proof.Machine
end

