-- ==== Sys2Proof/Laws/Results.lean ====
section
/-! SUPPORT. What the shared operations of the V and C slots do when they answer: a result enters those under way with its
landing cycle, mask and values, and nothing but latches and the model's numbering changes beside it. -/

namespace Sys2Proof.Machine

open Sys2Proof.Safety

theorem nth_map_upto {α : Type} {n l : Nat} (f : Nat → α) (d : α) (h : l < n) : nth ((upto n).map f) l d = f l := by
  simp [nth, upto, h]

theorem nth_maskVals {m : Lanes} {vs : List Word} {l : Nat} (h : l < vs.length) (hm : m.getLsbD l = true) :
    nth (maskVals m vs) l 0 = nth vs l 0 := by
  simp [maskVals, nth, upto, h, hm]

/-- A later result changes the results under way and the numbering alone. -/
theorem later_only {c d : Coach} (due seq : Nat) (w : Write) (lat : Option (Slot × Nat)) (h : onlyResults c d) :
    onlyResults c (d.later due seq w lat) := by
  unfold onlyResults at *
  rw [h]
  simp [Coach.later]

theorem later_keeps {c d : Coach} (due seq : Nat) (w : Write) (lat : Option (Slot × Nat)) (h : keepsResults c d) :
    keepsResults c (d.later due seq w lat) := by
  obtain ⟨more, hm⟩ := h
  exact ⟨more ++ [_], by simp only [Coach.later]; rw [hm, List.append_assoc]⟩

theorem later_underWay {d : Coach} {due seq : Nat} {w : Write} (due' seq' : Nat) (w' : Write) (lat : Option (Slot × Nat))
    (h : underWay d due seq w) : underWay (d.later due' seq' w' lat) due seq w := by
  obtain ⟨x, hx, hr⟩ := h
  exact ⟨x, List.mem_append_left _ hx, hr⟩

/-- A later result is under way. -/
theorem later_new (d : Coach) (due seq : Nat) (w : Write) (lat : Option (Slot × Nat)) :
    underWay (d.later due seq w lat) due seq w :=
  ⟨_, List.mem_append_right _ (List.mem_singleton_self _), rfl, rfl, rfl, rfl⟩

theorem enter_only (c : Coach) (slot : Slot) (seq : Nat) (landed : Bool) (vals : List Word) (val : Dbl) :
    onlyResults c (c.enter slot seq landed vals val).1 := by
  cases slot <;> simp [onlyResults, Coach.enter]

theorem enter_inflight (c : Coach) (slot : Slot) (seq : Nat) (landed : Bool) (vals : List Word) (val : Dbl) :
    (c.enter slot seq landed vals val).1.inflight = c.inflight := by
  cases slot <;> rfl

theorem onlyResults_trans {a b c : Coach} (h : onlyResults a b) (g : onlyResults b c) : onlyResults a c := by
  unfold onlyResults at *
  rw [g, h]

theorem flagsLater_spec {c d : Coach} {due seq : Nat} {dst : VDst} {m : Lanes} {f : Nat → Word} (b : Flags)
    (h1 : onlyResults c d) (h2 : keepsResults c d) (h3 : vecUnderWay c d due seq dst m f) :
    onlyResults c (d.flagsLater due seq b) ∧ keepsResults c (d.flagsLater due seq b) ∧
      vecUnderWay c (d.flagsLater due seq b) due seq dst m f := by
  unfold Coach.flagsLater
  split
  · exact ⟨h1, h2, h3⟩
  · obtain ⟨vs, hv, hw⟩ := h3
    exact ⟨later_only _ _ _ _ h1, later_keeps _ _ _ _ h2, vs, hv, later_underWay _ _ _ _ hw⟩

/-- Flags that are not empty are under way. -/
theorem flagsLater_new {d : Coach} {due seq : Nat} {b : Flags} (h : b ≠ 0) :
    underWay (d.flagsLater due seq b) due seq (.flags b) := by
  rw [Coach.flagsLater, if_neg h]
  exact later_new _ _ _ _ _

/-- Everything that a V result does (R44, R46). -/
theorem vecResult_spec (c : Coach) (due seq : Nat) (dst : VDst) {m : Lanes} {vs : List Word} (hm : m ≠ 0)
    (hl : vs.length = c.width) :
    onlyResults c (c.vecResult due seq dst m vs) ∧ keepsResults c (c.vecResult due seq dst m vs) ∧
      vecUnderWay c (c.vecResult due seq dst m vs) due seq dst m (fun l => nth vs l 0) := by
  cases dst <;>
  · simp only [Coach.vecResult, if_neg hm, Coach.enter, Coach.later, onlyResults, keepsResults, vecUnderWay, underWay]
    exact ⟨trivial, ⟨_, rfl⟩, maskVals m vs, fun l h1 h2 => nth_maskVals (by omega) h2, _,
      List.mem_append_right _ (List.mem_singleton_self _), rfl, rfl, rfl, rfl⟩

/-- The OR of lane flags holds each flag of each lane in the mask. -/
theorem orFlags_has {m : Lanes} {fs : List Flags} {l i : Nat} (hl : l < fs.length) (hm : m.getLsbD l = true)
    (hi : (nth fs l 0).getLsbD i = true) : (orFlags m fs).getLsbD i = true := by
  have key : ∀ (ls : List Nat) (a : Flags), (a.getLsbD i = true ∨ l ∈ ls) →
      (ls.foldl (fun a l => if m.getLsbD l then a ||| nth fs l 0 else a) a).getLsbD i = true := by
    intro ls
    induction ls with
    | nil => intro a h; simpa using h
    | cons x xs ih =>
      intro a h
      refine ih _ ?_
      rcases h with h | h
      · left; dsimp only; split <;> simp [h]
      · rcases List.mem_cons.1 h with rfl | h
        · left
          have h0 : (nth fs l (0#5)).getLsbD i = true := hi
          simp [hm, h0]
        · exact .inr h
  exact key _ _ (.inr (by simpa [upto] using hl))

/-- Everything that a V syllable with a vector result does when a lane executes it. -/
theorem vResult_spec (s : State) (k : Nat) (op : Coach → Opnds) (dst : VDst) (f : State → Coach → Lanes → Nat → LaneRes)
    (hk : s.cur.coach = some k) (hm : s.active (s.coach k) (op (s.coach k)).guard ≠ 0) :
    ∃ d, vResult s op dst f = .next (s.putCoach k d) ∧ onlyResults (s.coach k) d ∧ keepsResults (s.coach k) d ∧
      vecUnderWay (s.coach k) d (s.vDue (s.coach k) (op (s.coach k))) s.cur.seq dst
        (s.active (s.coach k) (op (s.coach k)).guard)
        (fun l => (f s (s.coach k) (s.active (s.coach k) (op (s.coach k)).guard) l).1) ∧
      ∀ l i, l < (s.coach k).width → (s.active (s.coach k) (op (s.coach k)).guard).getLsbD l = true →
        (f s (s.coach k) (s.active (s.coach k) (op (s.coach k)).guard) l).2.getLsbD i = true →
        ∃ b : Flags, underWay d (s.vDue (s.coach k) (op (s.coach k))) s.cur.seq (.flags b) ∧ b.getLsbD i = true := by
  simp only [vResult, onCoach, hk]
  refine ⟨_, rfl, ?_⟩
  obtain ⟨h1, h2, h3⟩ := vecResult_spec (s.coach k) (s.vDue (s.coach k) (op (s.coach k))) s.cur.seq dst hm
    (vs := (laneRes (s.coach k).width (s.active (s.coach k) (op (s.coach k)).guard)
      (f s (s.coach k) (s.active (s.coach k) (op (s.coach k)).guard))).map (·.1)) (by simp [laneRes, upto])
  obtain ⟨g1, g2, vs, hv, hx⟩ := flagsLater_spec (orFlags (s.active (s.coach k) (op (s.coach k)).guard)
    ((laneRes (s.coach k).width (s.active (s.coach k) (op (s.coach k)).guard)
      (f s (s.coach k) (s.active (s.coach k) (op (s.coach k)).guard))).map (·.2))) h1 h2 h3
  refine ⟨g1, g2, ⟨vs, fun l hl hml => ?_, hx⟩, fun l i hl hml hi => ?_⟩
  · rw [hv l hl hml]
    simp [laneRes, nth, upto, hl, hml]
  · have hb := orFlags_has (m := s.active (s.coach k) (op (s.coach k)).guard) (l := l) (i := i)
      (fs := (laneRes (s.coach k).width (s.active (s.coach k) (op (s.coach k)).guard)
        (f s (s.coach k) (s.active (s.coach k) (op (s.coach k)).guard))).map (·.2))
      (by simpa [laneRes, upto] using hl) hml (by simpa [laneRes, nth, upto, hl, hml] using hi)
    refine ⟨_, flagsLater_new (fun h0 => ?_), hb⟩
    rw [h0] at hb
    simp at hb

/-- Everything that a predicate result does. -/
theorem prdResult_spec (c : Coach) (due seq p : Nat) {m : Lanes} (b : Lanes) (hm : m ≠ 0) :
    onlyResults c (c.prdResult due seq p m b) ∧ keepsResults c (c.prdResult due seq p m b) ∧
      prdUnderWay c (c.prdResult due seq p m b) due seq p m b.getLsbD := by
  simp only [Coach.prdResult, if_neg hm]
  exact ⟨later_only _ _ _ _ rfl, later_keeps _ _ _ _ ⟨[], by simp⟩, b, fun _ _ _ => rfl, later_new _ _ _ _ _⟩

/-- Everything that a C syllable with a scalar result does when it takes effect. -/
theorem cResult_spec (s : State) (k : Nat) (g : Guard) (dst : SDst) (f : State → Coach → Dbl)
    (hk : s.cur.coach = some k) (hm : s.active (s.coach k) g ≠ 0) :
    ∃ d, cResult s g dst f = .next (s.putCoach k d) ∧ onlyResults (s.coach k) d ∧ keepsResults (s.coach k) d ∧
      underWay d (s.cur.cycle + 1) s.cur.seq (scalarWrite (s.coach k) dst (f s (s.coach k))) := by
  simp only [cResult, onCoach, hk, if_neg hm]
  refine ⟨_, rfl, ?_⟩
  cases dst with
  | latch =>
    simp only [Coach.sclResult, Coach.enter]
    exact ⟨by simp [onlyResults, Coach.later], ⟨_, rfl⟩, later_new _ _ _ _ _⟩
  | reg n =>
    simp only [Coach.sclResult, Coach.enter, scalarWrite]
    split
    · exact ⟨by simp [onlyResults, Coach.later], ⟨_, rfl⟩, later_new _ _ _ _ _⟩
    · exact ⟨by simp [onlyResults, Coach.later], ⟨_, rfl⟩, later_new _ _ _ _ _⟩

/-- Everything that a C syllable with a predicate result does when it takes effect. -/
theorem cPred_spec (s : State) (k : Nat) (g : Guard) (p : Nat) (f : State → Coach → Lanes)
    (hk : s.cur.coach = some k) (hm : s.active (s.coach k) g ≠ 0) :
    ∃ d, cPred s g p f = .next (s.putCoach k d) ∧ onlyResults (s.coach k) d ∧ keepsResults (s.coach k) d ∧
      prdUnderWay (s.coach k) d (s.cur.cycle + 1) s.cur.seq p (s.active (s.coach k) g) (f s (s.coach k)).getLsbD := by
  simp only [cPred, onCoach, hk]
  exact ⟨_, rfl, prdResult_spec _ _ _ _ _ hm⟩

end Sys2Proof.Machine
end

