-- ==== Sys2Proof/Tests/Slice0.lean ====
section
/-! SUPPORT. Tests: terms that WellFormed refuses; words of the manual's worked examples decoded; one step each on small states,
with results worked out from the manual; and, for every obligation with hypotheses, states and operands that meet them. -/

namespace Sys2Proof.Tests

set_option Elab.async false

open Sys2Proof.Machine Sys2Proof.Safety

/-! Small states. -/

/-- A coach of 16 lanes on wing 0, every lane live, of ASID 1 and party 1. -/
def tCoach : Coach :=
  { Coach.blank with
    present := true, budget := 24, party := 1, asid := 1, pc := placedPc, launched := lanesBelow 16, live := lanesBelow 16,
    stack := [StackEntry.base (lanesBelow 16)] }

/-- Coach 0 executes a bundle at its pc. -/
def tState (c : Coach) : State :=
  { State.reset with
    cfg := { State.reset.cfg with st := 2 }, coaches := [(0, c)],
    cur := { Cur.blank with coach := some 0, pc := placedPc, seq := 1 } }

/-- v1 is 5 in lane 0; s5 is 3 and s6 is -1; p1 holds in lanes 0 to 3. -/
def tRegs : State := tState { tCoach with v := [(64, 5)], s := [(5, 3), (6, -1)], p := [(1, 0xF)] }

/-- A handle of the first 64 KiB of the device half with every right. -/
def tHandle : Handle :=
  { Handle.blank with
    st := .valid, size := 1, vbase := 0x100000000000000, hi := 0x10000, asid := 1, rights := 0xF }

/-- h1 is tHandle, h2 pending, h3 absent, h4 poisoned; h0 is empty. -/
def tHandles : State :=
  tState { tCoach with
    h := [(1, tHandle), (2, { tHandle with st := .pending, walk := 1 }),
      (3, { tHandle with st := .absent, rights := 0 }), (4, { tHandle with st := .poisoned })] }

/-- The end of what memory holds at least. -/
abbrev tEnd : Nat := 720 * 2 ^ 30

/-- Tables that map the first GiB of the device half to the first of memory: three levels of R190. -/
def tTables : List Host.Cell :=
  msets (msets (msets (msets [] 0x10000 (leBytes (2 ^ 63 + 0x12000) 8)) 0x12000 (leBytes (2 ^ 63 + 0x14000) 8)) 0x14000
    (leBytes (2 ^ 63 + 31 * 2 ^ 56) 8)) 0x14008 (leBytes (2 ^ 62) 8)

/-- Job 1 with those tables. -/
def tJob : Job := { Job.blank with present := true, root := 0x10000, pkgs := 1 }

def tPaged (c : Coach) : State := { tState c with jobs := [(1, tJob)], mem := tTables }

/-- What holds of the default and of every entry of a table holds of what is read at any number. -/
theorem tAll {α : Type} (d : α) (P : Nat → α → Prop) (h0 : ∀ k, P k d) :
    ∀ (l : Sparse α), (∀ e ∈ l, P e.1 e.2) → ∀ k, P k (sget d l k)
  | [], _, k => h0 k
  | (j, v) :: l, h, k => by
    unfold sget
    split
    · next e => subst e; exact h (j, v) (List.mem_cons_self ..)
    · split
      · exact h0 k
      · exact tAll d P h0 l (fun e he => h e (List.mem_cons_of_mem _ he)) k

theorem tNoReserve {s : State} (h : ∀ e ∈ s.jobs, (nth e.2.snap.entry 5 0).toNat = 0) : noReserve s :=
  tAll Job.blank (fun _ j => (nth j.snap.entry 5 0).toNat = 0) (fun _ => rfl) s.jobs h

theorem tQuiet {s : State} {asid pa : Nat} (h : s.isDead pa = false) (hj : ∀ e ∈ s.jobs, (nth e.2.snap.entry 5 0).toNat = 0) :
    quietHome s asid pa := ⟨h, fun a _ => .inr (.inr (tNoReserve hj a))⟩

/-- A lane executes the syllable of coach 0. -/
abbrev acts (s : State) (g : Guard) : Prop := s.cur.coach = some 0 ∧ s.active (s.coach 0) g ≠ 0

/-! Terms that WellFormed refuses. -/

theorem test_wf_vector_register : (Instr.iaddI32 ⟨.always, false, 0, .reg 192, .reg 0, .reg 0, false⟩).wf = false := by decide
theorem test_wf_guard : (Instr.exit ⟨.pred 12 false⟩).wf = false := by decide
theorem test_wf_modifier : (Instr.imulI32 ⟨.always, false, 0, .reg 0, .reg 0, .reg 0, true⟩).wf = false := by decide
theorem test_wf_duplicate : (Instr.shflUp ⟨.always, true, 0, .reg 0, .reg 0, .reg 0, false⟩).wf = false := by decide
theorem test_wf_latch_depth : (Instr.vMov ⟨.always, false, 0, .reg 0, .vb 5, false⟩).wf = false := by decide
theorem test_wf_constant_of_e4m3 : (Instr.cvtF32E4m3 ⟨.always, false, 0, .reg 0, .const 1, false⟩).wf = false := by decide
theorem test_wf_condition : (Instr.icmpI32 ⟨.always, false, 0, 0, 6, .reg 0, .reg 0⟩).wf = false := by decide
theorem test_wf_double_register : (Instr.ldD ⟨.always, .reg 3, .reg 0, 0, 0, false, .dflt⟩).wf = false := by decide
theorem test_wf_residency_flag : (Instr.ldW ⟨.always, .reg 3, .reg 0, 0, 12, true, .dflt⟩).wf = false := by decide
theorem test_wf_store_policy : (Instr.stW ⟨.always, .reg 3, .reg 0, 0, 0, .ro⟩).wf = false := by decide
theorem test_wf_acquire_policy : (Instr.ldaW ⟨.always, .reg 3, .reg 0, 0, 0, false, .nc⟩).wf = false := by decide
theorem test_wf_handle : (Instr.hrel ⟨.always, 16⟩).wf = false := by decide
theorem test_wf_convoy_member : (Instr.ldcW ⟨.always, .reg 0, .reg 0, 4, 0⟩).wf = false := by decide
theorem test_wf_saturation : (Instr.add ⟨.always, false, .reg 1, .reg 0, .reg 0, 3⟩).wf = false := by decide
theorem test_wf_next_tile : (Instr.nexttile ⟨.always, 47, 0⟩).wf = false := by decide
theorem test_wf_next_tile_pair : (Instr.nexttile ⟨.always, 48, 3⟩).wf = false := by decide
theorem test_wf_queue : (Instr.dpop ⟨.always, 0, 2, 0⟩).wf = false := by decide
theorem test_wf_accumulator : (Instr.mzero ⟨.always, 4, 0⟩).wf = false := by decide
theorem test_wf_statistics_double : (Instr.statq ⟨.always, 1, 4, 0, false⟩).wf = false := by decide

/-! The manual's encodings (R65 and the examples of the rules). -/

theorem test_decode_fcmp_gives_p2 :
    decodeTableWord 192 0x267910082800000000 = some (.fcmpF32 { g := .always, dup := false, win := 0, pd := 2, cc := 2, a := .reg 1, b := .reg 5 }) := by
  decide

theorem test_decode_shuffle_down_by_constant :
    decodeTableWord 192 0x5278100E9000000000 = some (.shflDn { g := .always, dup := false, win := 0, d := .reg 2, a := .reg 1, b := .const 2, m := false }) := by
  decide

theorem test_decode_xlate :
    decodeTableWord 192 0x178082698000000000000000000 = some (.xlate { g := .always, hd := 1, a := .reg 4, b := .const 3 }) := by
  decide

theorem test_decode_load_word_residency :
    decodeTableWord 192 0xA78402994000000000000000000 = some (.ldW { g := .always, d := .reg 8, a := .reg 5, h := 2, f := 3, rp := true, pol := .dflt }) := by
  decide

theorem test_decode_store_word :
    decodeTableWord 224 0x4000000000000000000000127897F020000000000002000000 = some (.stW { g := .always, a := .lit 0x40, b := .reg 4, h := 2, f := 1, pol := .dflt }) := by
  decide

theorem test_decode_fence_release :
    decodeTableWord 192 0x2878100180000000000000000000 = some (.fenceRel { g := .always, f := 3 }) := by
  decide

theorem test_decode_arrive :
    decodeTableWord 192 0x4178368908000000000000000000 = some (.arrive { g := .always, d := .reg 6, a := .const 1, k := 1, f := 2 }) := by
  decide

theorem test_decode_bwait :
    decodeTableWord 192 0x4378003008000000000000000000 = some (.bwait { g := .always, a := .reg 6, k := 1 }) := by
  decide

theorem test_decode_shape_descriptor :
    decodeTableWord 224 0x100000000000001781FF0100000000000000000000002000000 = some (.tdesc { g := .always, k := 3, a := .lit 0x100, h := 2 }) := by
  decide

theorem test_decode_copy_load :
    decodeTableWord 224 0x8000000000000027918A7F00000000000000000000002000000 = some (.cpyLd { g := .always, k := 3, f := 2, a := 20, b := .lit 0x800 }) := by
  decide

theorem test_decode_matrix_stream :
    decodeTableWord 192 0x11790800010000000000000000000000000000 = some (.mstream { g := .always, acc := 1, f := 2, fmt := 0, cl := true, z := false }) := by
  decide

theorem test_decode_matrix_lodge :
    decodeTableWord 192 0x10788100000000000000000000000000000000 = some (.mlodge { g := .always, fmt := 0, f := 1, a := 32 }) := by
  decide

theorem test_decode_drover_table :
    decodeTableWord 256 0x9000000070000000000207837FE800000000000000000000004000000 = some (.dtab { g := .always, k := 6, a := .lit64 0x0000000900000007, b := .const 0 }) := by
  decide

theorem test_decode_drover_pop :
    decodeTableWord 192 0x22794300000000000000000000000000000000 = some (.dpop { g := .always, d := 40, q := 0, f := 6 }) := by
  decide

theorem test_decode_trap :
    decodeTableWord 192 0x387806B80000000000000000000000000000000000000000 = some (.trap { g := .always, a := .const 7 }) := by
  decide

theorem test_decode_sysrd :
    decodeTableWord 224 0x3C3A783FF00000000000000000000000000000000002000000 = some (.sysrd { g := .always, d := .reg 7, n := 0x3C }) := by
  decide

theorem test_decode_break_step :
    decodeTableWord 192 0x3C7806880100000000000000000000000000000000000000 = some (.brkStep { g := .always, a := .const 1 }) := by
  decide

theorem test_decode_launch :
    decodeTableWord 192 0x407829083000000000000000000000000000000000000000 = some (.launch { g := .always, d := 5, h := 1, f := 2, b := .reg 6 }) := by
  decide

theorem test_decode_next_tile :
    decodeTableWord 192 0x417980200000000000000000000000000000000000000000 = some (.nexttile { g := .always, d := 48, p := 4 }) := by
  decide

theorem test_decode_commit :
    decodeTableWord 192 0x427800381800000000000000000000000000000000000000 = some (.commit { g := .always, a := .reg 7, f := 3 }) := by
  decide

theorem test_decode_snapshot_full :
    decodeTableWord 192 0x487829083100000000000000000000000000000000000000 = some (.snap { g := .always, d := 5, h := 1, f := 2, b := .reg 6, full := true }) := by
  decide

theorem test_decode_snapshot_query :
    decodeTableWord 192 0x497838001800000000000000000000000000000000000000 = some (.snapq { g := .always, d := 7, f := 3 }) := by
  decide

theorem test_decode_statistics_queue :
    decodeTableWord 192 0x517848002900000000000000000000000000000000000000 = some (.statq { g := .always, d := 9, k := 0, f := 5, pop := true }) := by
  decide

theorem test_decode_loop_setup :
    decodeTableWord 224 0x32C78001FF000000000000000000000000000000002000000 = some (.lsetup { a := .reg 3, b := .lit 3 }) := by
  decide

/-- R65: a bundle with FFMA.F32 v4, v1, v2, v3 in V and ADD s5, s5, 0x12345678 in C. -/
theorem test_decode_two_slots :
    let d := decodeBundle xq1Feat [0x24000000, 0x78200810, 0x00000023, 0, 0xF0000000, 0x0178282F] [3, 0x12345678]
    d.v = .ok (.ffmaF32 ⟨.always, false, 0, .reg 4, .reg 1, .reg 2, .reg 3, false⟩) ∧
      d.c = .ok (.add ⟨.always, false, .reg 5, .reg 5, .lit 0x12345678, 0⟩) ∧ d.gap = 2 ∧ d.litc = 2 := by decide

/-- R64: a word past the literals that a bundle's syllables use, and an opcode that no table has. -/
theorem test_decode_refuses_unused_literal : decodeTableWord 224 0x78200810_02000000 = none := by decide
theorem test_decode_refuses_unassigned_opcode : decodeTableWord 192 (0xFF78000000 * 2 ^ 32) = none := by decide

/-! One step each. -/

/-- The writes under way in coach 0. -/
def writes (o : Host.Outcome State Fault Refusal) : List Write :=
  match o with
  | .next t => (t.coach 0).inflight.map (·.w)
  | _ => []

/-- What a predicate says of the next state. -/
def after (o : Host.Outcome State Fault Refusal) (p : State → Bool) : Bool :=
  match o with
  | .next t => p t
  | _ => false

/-- All lanes of a 16-lane coach hold a value. -/
abbrev all16 (r : Nat) (w : Word) : Write := .vec r (lanesBelow 16) (List.replicate 16 w)

theorem test_iadd_wraps :
    writes (exec (.iaddI32 ⟨.always, false, 0, .reg 2, .lit 0xFFFFFFFF, .const 2, false⟩) tRegs) = [all16 2 1] := by decide +kernel
theorem test_iadd_saturates :
    writes (exec (.iaddI32 ⟨.always, false, 0, .reg 2, .lit 0x7FFFFFFF, .const 1, true⟩) tRegs) = [all16 2 0x7FFFFFFF] := by
  decide +kernel
theorem test_imulh_signed :
    writes (exec (.imulhI32 ⟨.always, false, 0, .reg 2, .lit 0xFFFFFFFF, .const 2, false⟩) tRegs) = [all16 2 0xFFFFFFFF] := by
  decide +kernel
theorem test_imulh_unsigned :
    writes (exec (.imulhN32 ⟨.always, false, 0, .reg 2, .lit 0xFFFFFFFF, .const 2, false⟩) tRegs) = [all16 2 1] := by decide +kernel
theorem test_shift_past_the_width :
    writes (exec (.shrI32 ⟨.always, false, 0, .reg 2, .lit 0x80000000, .lit 33, false⟩) tRegs) = [all16 2 0xFFFFFFFF] := by
  decide +kernel
/-- R167: .SX of a length of 4. -/
theorem test_bfx_sign_extends :
    writes (exec (.vBfx ⟨.always, false, 0, .reg 2, .lit 0x000000C0, .lit 0x00000404, true⟩) tRegs) = [all16 2 0xFFFFFFFC] := by
  decide +kernel
theorem test_clz_of_zero :
    writes (exec (.vClz ⟨.always, false, 0, .reg 2, .const 0, false⟩) tRegs) = [all16 2 32] := by decide +kernel
theorem test_idp4_signed :
    writes (exec (.idp4I8 ⟨.always, false, 0, .reg 2, .lit 0xFF02FF02, .lit 0x01010101, .const 1, false⟩) tRegs) = [all16 2 3] := by
  decide +kernel
/-- R180's example: lanes 14 and 15 have exited, and v1 holds 10 l. -/
theorem test_shuffle_down :
    writes (exec (.shflDn ⟨.always, false, 0, .reg 2, .reg 1, .const 2, false⟩) (tState { tCoach with
      live := lanesBelow 14, v := (List.range 15).map fun l => (64 + (l + 1), BitVec.ofNat 32 (10 * (l + 1))) })) =
      [.vec 2 (lanesBelow 14) [20, 30, 40, 50, 60, 70, 80, 90, 100, 110, 120, 130, 140, 150, 0, 0]] := by decide +kernel
/-- R182's example: 1.0, 2^24, 1.0 and -2^24 in lanes 0 to 3, p0 in those lanes. -/
theorem test_reduction_tree :
    (writes (exec (.redFaddF32 ⟨.pred 0 false, false, 0, .reg 2, .reg 1, false⟩) (tState { tCoach with
      v := [(64, 0x3F800000), (65, 0x4B800000), (66, 0x3F800000), (67, 0xCB800000)], p := [(0, 0xF)] }))).any (fun w =>
      match w with | .vec 2 m vs => m == 0xF && vs.headD 0 == 0x3F800000 | _ => false) = true := by decide +kernel
theorem test_vote_all_ignores_inactive_lanes :
    writes (exec (.voteAll ⟨.pred 1 false, 0, 2, .prd 1⟩) tRegs) = [.prd 2 0xF 0xF] := by decide +kernel
theorem test_fadd_rounds_to_even :
    (writes (exec (.faddF32 ⟨.always, false, 0, .reg 2, .lit 0x4B800000, .lit 0x3F800000, false⟩) tRegs)) =
      [all16 2 0x4B800000, .flags 0x01] := by decide +kernel
theorem test_fmin_of_zeros :
    (writes (exec (.fminF32 ⟨.always, false, 0, .reg 2, .lit 0, .lit 0x80000000, false⟩) tRegs)) = [all16 2 0x80000000] := by
  decide +kernel
theorem test_chk_traps_with_the_lanes :
    after (exec (.chkV ⟨.always, 0, .reg 1, .reg 2⟩) tRegs) (fun t => t.cur.status == .trapped 6) = true := by decide +kernel

theorem test_add_saturates_signed :
    writes (exec (.add ⟨.always, false, .reg 7, .lit64 0x7FFFFFFFFFFFFFFF, .reg 5, 1⟩) tRegs) = [.scl 7 0x7FFFFFFFFFFFFFFF] := by
  decide +kernel
theorem test_sub_saturates_unsigned :
    writes (exec (.sub ⟨.always, false, .reg 7, .reg 5, .const 4, 2⟩) tRegs) = [.scl 7 0] := by decide +kernel
theorem test_mulh_unsigned :
    writes (exec (.mulhN64 ⟨.always, false, .reg 7, .reg 6, .reg 6, 0⟩) tRegs) = [.scl 7 0xFFFFFFFFFFFFFFFE] := by decide +kernel
/-- R45: a write of s0 reaches the latch alone. -/
theorem test_write_of_s0 :
    writes (exec (.cMov ⟨.always, false, .reg 0, .reg 5⟩) tRegs) = [.latC 3] := by decide +kernel
theorem test_scalar_literal_is_sign_extended :
    writes (exec (.cMov ⟨.always, false, .reg 7, .lit 0xFFFFFFFE⟩) tRegs) = [.scl 7 0xFFFFFFFFFFFFFFFE] := by decide +kernel
theorem test_p2s_takes_active_lanes :
    writes (exec (.p2s ⟨.always, .reg 7, 1⟩) tRegs) = [.scl 7 0xF] := by decide +kernel
theorem test_compare_signed :
    writes (exec (.scmpI64 ⟨.always, false, 2, .reg 6, .reg 5, 2⟩) tRegs) = [.prd 2 0xFFFF (-1)] := by decide +kernel
theorem test_compare_unsigned :
    writes (exec (.scmpN64 ⟨.always, false, 2, .reg 6, .reg 5, 2⟩) tRegs) = [.prd 2 0xFFFF 0] := by decide +kernel

/-- R126's example: KILL s5 with s5 = 0xFF00 ends lanes 8 to 15. -/
theorem test_kill_ends_lanes :
    after (exec (.kill ⟨.always, .lit 0xFF00⟩) tRegs) (fun t => (t.coach 0).live == 0xFF && (t.coach 0).top == 0xFF) = true := by
  decide +kernel
theorem test_exit_of_the_last_lanes :
    after (exec (.exit ⟨.always⟩) tRegs) (fun t => (t.coach 0).ended) = true := by decide +kernel
/-- R126's example: SPLIT p1 pushes the else path below the then path. -/
theorem test_split_pushes :
    after (exec (.split ⟨1, false, 48, 96⟩) tRegs) (fun t =>
      (t.coach 0).stack.map (·.mask) == [0xF, 0xFFF0, 0xFFFF] && t.cur.npc == some (placedPc + 24)) = true := by decide +kernel
theorem test_branch_to_a_literal :
    after (exec (.bra ⟨.always, .rel 0xFFFFFFE8, false⟩) tRegs) (fun t => t.cur.pend == some (.target 0x00FFFFFFFFFFFFE8)) = true := by
  decide +kernel
theorem test_loop_of_one_pass :
    after (exec (.lend) (tState { tCoach with ecnt := 0x8000000000000000 })) (fun t => (t.coach 0).ecnt == 0 && t.cur.npc == none) =
      true := by decide +kernel
/-- R153: the number of COACHID read by its literal; BRK's TCAUSE and TINFO (R368). -/
theorem test_break_cause :
    after (exec (.brk ⟨.always, .const 7⟩) (tState { tCoach with tvec := 0x100 })) (fun t =>
      (t.coach 0).tcause == 0x60F && (t.coach 0).tinfo == 0x700 && (t.coach 0).pc == 0x100 && (t.coach 0).trappc == placedPc) =
      true := by decide +kernel
theorem test_syswr_needs_privilege :
    after (exec (.syswr ⟨.always, 7, .reg 5⟩) tRegs) (fun t => t.cur.status == .trapped 6) = true := by decide +kernel
theorem test_atomic_min_is_signed : atomOp 0x32 0xFFFFFFFF 1 0 = 0xFFFFFFFF := by decide +kernel
/-- A load through h1 and one through an empty handle. -/
theorem test_load_issues_sixteen_units :
    after (exec (.ldW ⟨.always, .reg 2, .reg 1, 1, 3, false, .dflt⟩) tHandles) (fun t =>
      (t.coach 0).count 3 == 1 && t.ops.map (·.parts.length) == [16]) = true := by decide +kernel
theorem test_load_through_an_empty_handle :
    after (exec (.ldW ⟨.always, .reg 2, .reg 1, 0, 3, false, .dflt⟩) (tState { tCoach with tvec := 0x100 })) (fun t =>
      (t.coach 0).tcause.toNat % 256 == 0x0D) = true := by decide +kernel
theorem test_walk_of_three_levels :
    ((tPaged tCoach).walk 1 (0x100000000000000 + 0x14008)).st = .valid ∧
      (tPaged tCoach).jobPlace 1 (0x100000000000000 + 0x14008) = .home 0x14008 false := by decide +kernel

/-! States and operands that meet the hypotheses of the obligations. -/

/-- A running party of coach 0: launch 1, an allocation of 1 KiB from byte 256 of core 0. -/
def tPartyRec : Party := { Party.blank with st := .running, launch := 1, core := 0, base := 256, size := 1024, foot := 1536, coaches := [0] }

/-- Coach 0 in that party. -/
def tIn (c : Coach) (x : Party) : State := { tState c with parties := [(1, x)] }

theorem witness_VectorIntegerResults : acts tRegs .always ∧ (Instr.iaddI32, 0x01) ∈ int32Table.map (fun e => (e.1, e.2.1)) :=
  ⟨by decide, by simp [int32Table]⟩
theorem witness_VectorFieldAndThreeOperandResults : acts tRegs (.pred 1 false) := by decide
theorem witness_VectorCompareResults : acts tRegs (.pred 1 true) := by decide
theorem witness_VectorFloatResults : acts tRegs .always ∧ Instr.faddF32 ∈ fp2Table.map (·.1) ∧ Instr.tanhF32 ∈ fp1Table.map (·.1) ∧
    Instr.ffmaB16x2 ∈ fp3Table.map (·.1) := ⟨by decide, by simp [fp2Table], by simp [fp1Table], by simp [fp3Table]⟩
theorem witness_CrossLaneResults :
    acts tRegs .always ∧ ∀ l, (tRegs.active (tRegs.coach 0) .always).getLsbD l = true → l < (tRegs.coach 0).width := by
  refine ⟨by decide, fun l h => ?_⟩
  have e : tRegs.active (tRegs.coach 0) .always = 0xFFFF#64 := by decide
  rcases Nat.lt_or_ge l 64 with h2 | h2
  · have k : ∀ i, i < 64 → (0xFFFF#64).getLsbD i = true → i < 16 := by decide
    exact k l h2 (e ▸ h)
  · rw [BitVec.getLsbD_of_ge _ _ h2] at h
    cases h
theorem witness_ReductionTreeAndBlockResults : acts tRegs (.pred 1 false) := by decide
/-- p0 holds in no lane. -/
theorem witness_IdleAndEmptySyllables :
    tRegs.cur.coach = some 0 ∧ tRegs.active (tRegs.coach 0) (.pred 0 false) = 0 ∧
      (operands tRegs (tRegs.coach 0) (.iaddI32 ⟨.pred 0 false, false, 0, .reg 2, .reg 1, .reg 1, false⟩)).any (fun op =>
        op.slot == 0 && op.guard == .pred 0 false && op.enters == some 4) = true := by decide
/-- v1 and v2 differ in lane 0, s5 and s6 differ, p1 and p2 differ. -/
theorem witness_ChecksPassOrTrap :
    acts tRegs .always ∧ (∃ l, l < 64 ∧ l < (tRegs.coach 0).width ∧ (tRegs.active (tRegs.coach 0) .always).getLsbD l = true ∧
      tRegs.rdV (tRegs.coach 0) 0 intConst l (.reg 1) ≠ tRegs.rdV (tRegs.coach 0) 0 intConst l (.reg 2)) ∧
      tRegs.rdS (tRegs.coach 0) (.reg 5) ≠ tRegs.rdS (tRegs.coach 0) (.reg 6) ∧
      ∃ l, (tRegs.active (tRegs.coach 0) .always).getLsbD l = true ∧
        (tRegs.readP (tRegs.coach 0) 1).getLsbD l ≠ (tRegs.readP (tRegs.coach 0) 2).getLsbD l :=
  ⟨by decide, ⟨0, by decide⟩, by decide, ⟨3, by decide⟩⟩
theorem witness_ChecksPassOrTrap_pass : ∀ l, ¬ (l < (tRegs.coach 0).width ∧ (tRegs.active (tRegs.coach 0) .always).getLsbD l = true ∧
    tRegs.rdV (tRegs.coach 0) 0 intConst l (.reg 1) ≠ tRegs.rdV (tRegs.coach 0) 0 intConst l (.reg 1)) := fun _ h => h.2.2 rfl
theorem witness_ScalarResults : acts tRegs .always := by decide
theorem witness_PredicateResults : acts tRegs (.pred 1 false) ∧ (tRegs.coach 0).width ≤ 64 := by decide
/-- The last aligned target, the first with a bit of [63:57], a misaligned one; a guard that no lane passes; .ALL with one. -/
theorem witness_BranchTaken :
    acts tRegs .always ∧ (0x1FFFFFFFFFFFFFC : Dbl).toNat % 4 = 0 ∧ (0x1FFFFFFFFFFFFFC : Dbl).toNat < 2 ^ 57 ∧
      2 ^ 57 ≤ (0x200000000000000 : Dbl).toNat ∧ (tRegs.cur.pc + (2 : Word).signExtend 64).toNat % 4 ≠ 0 ∧
      tRegs.active (tRegs.coach 0) (.pred 0 false) = 0 ∧
      ¬ ∀ l, l < 64 → (tRegs.coach 0).path.getLsbD l = true → (tRegs.guardLanes (tRegs.coach 0) (.pred 1 false)).getLsbD l = true := by
  decide
/-- The instruction L1 holds the lines of the pc and of the next 128 bytes, all zeros: empty bundles. -/
def tCode : State :=
  { tRegs with cores := [(0, { Core.blank with
      icache := [{ asid := 1, vline := placedPc.toNat / 128, page := 4096, pline := 0, bytes := List.replicate 128 0 }] })] }
theorem witness_CallAndReturn :
    acts tCode .always ∧ (tCode.cur.pc + (64 : Word).signExtend 64).toNat % 4 = 0 ∧
      (tCode.cur.pc + (64 : Word).signExtend 64).toNat < 2 ^ 57 ∧ (tCode.delayBundle 0).isSome = true := by decide +kernel
theorem witness_CallAndReturn_dispatch :
    let s := tState { tCoach with s := [(5, 0x100)], stack := [⟨0xF, false, true, 0, 0, 0x100⟩, StackEntry.base (lanesBelow 16)] }
    acts s .always ∧ (s.coach 0).stack = ⟨0xF, false, true, 0, 0, 0x100⟩ :: [StackEntry.base (lanesBelow 16)] ∧
      (0x100 : BitVec 57).setWidth 64 = s.rdS (s.coach 0) (.reg 5) := by decide
/-- v1 names entry 1 in lane 0 and entry 0 elsewhere; both entries of the table at 0x20000 are 0. -/
def tJump : State :=
  { tPaged { tCoach with v := [(64, 1)], dtbase := 0x100000000020000, dtlen := 2 } with cores := tCode.cores }
theorem witness_DispatchThroughTable :
    tJump.cur.coach = some 0 ∧ (tJump.coach 0).path ≠ 0 ∧ (tJump.coach 0).path.getLsbD 0 = true ∧
      (∀ l, l < 16 → (tJump.rdV (tJump.coach 0) 0 intConst l (.reg 1)).toNat < (tJump.coach 0).dtlen.toNat) ∧
      [0, 1].Pairwise (· < ·) ∧ (tJump.rdV (tJump.coach 0) 0 intConst 0 (.reg 1)).toNat = 1 ∧
      (tJump.rdV (tJump.coach 0) 0 intConst 1 (.reg 1)).toNat = 0 ∧
      (let u := tJump.tableReads (tJump.coach 0) [0, 1]
       u.tablePoison (tJump.coach 0) [0, 1] = none ∧ (u.delayBundle 0).isSome = true ∧
         ∀ i ∈ [0, 1], (u.dtEntry (tJump.coach 0) i).toNat % 4 = 0 ∧ (u.dtEntry (tJump.coach 0) i).toNat < 2 ^ 57) ∧
      (tJump.coach 0).stack.length + 2 ≤ 32 + (tJump.coach 0).spill := by
  decide +kernel
/-- p1 divides the lanes; p0 holds in none, and its negation in all. -/
theorem witness_SplitAndJoin :
    tRegs.cur.coach = some 0 ∧ (tRegs.coach 0).path &&& tRegs.readP (tRegs.coach 0) 1 ≠ 0 ∧
      (tRegs.coach 0).path &&& ~~~tRegs.readP (tRegs.coach 0) 1 ≠ 0 ∧ (tRegs.coach 0).path &&& tRegs.readP (tRegs.coach 0) 0 = 0 ∧
      (tRegs.coach 0).path &&& ~~~(~~~tRegs.readP (tRegs.coach 0) 0) = 0 ∧
      (tRegs.cur.pc + (48 : Word).signExtend 64).toNat % 4 = 0 ∧ (tRegs.cur.pc + (48 : Word).signExtend 64).toNat < 2 ^ 57 ∧
      (tRegs.coach 0).stack.length + 2 ≤ 32 + (tRegs.coach 0).spill := by decide
theorem witness_SplitAndJoin_join :
    let e : StackEntry := { StackEntry.base 0xF with pending := true, pc := 0x200 }
    let s := tState { tCoach with stack := [e, StackEntry.base (lanesBelow 16)] }
    s.cur.coach = some 0 ∧ (s.coach 0).path ≠ 0 ∧ (s.coach 0).stack = e :: StackEntry.base (lanesBelow 16) :: [] ∧
      (StackEntry.base (lanesBelow 16)).mask &&& (s.coach 0).live ≠ 0 := by decide
theorem witness_ExitAndKillEndLanes : acts tRegs (.pred 1 false) ∧ acts tRegs .always := by decide
/-- LSETUP's largest count, and the largest epilogue and rotation sizes. -/
theorem witness_LoopRegisters :
    let s := tState { tCoach with s := [(5, 0x100000000), (6, 0x102003)], lcnt := 1, ecnt := 0x8000000000000001, rotb := 0x10002000 }
    s.cur.coach = some 0 ∧ (s.coach 0).path ≠ 0 ∧ (s.rdS (s.coach 0) (.reg 5)).toNat ≤ 2 ^ 32 ∧
      (let g := (s.rdS (s.coach 0) (.reg 6)).toNat
       g < 2 ^ 21 ∧ g / 2 ^ 14 % 4 = 0 ∧ g / 4 % 64 = 0 ∧ g / 256 % 64 ≤ 32 ∧ g / 2 ^ 16 ≤ 16) ∧
      rotVBase (s.coach 0).rotb < 64 ∧ rotVSize (s.coach 0).rotb ≤ 32 ∧ rotSSize (s.coach 0).rotb ≤ 16 ∧
      s.cur.joined = false ∧ s.cur.npc = none ∧ (s.coach 0).lcnt ≠ 0 ∧ (s.coach 0).width ≤ 64 := by decide
theorem witness_LoopRegisters_ends :
    let s := tState { tCoach with ecnt := 0x8000000000000001 }
    let t := tState { tCoach with ecnt := 0x8000000000000000 }
    (s.coach 0).lcnt = 0 ∧ (s.coach 0).ecnt.toNat % 4 ≠ 0 ∧ (t.coach 0).lcnt = 0 ∧ (t.coach 0).ecnt.toNat % 4 = 0 ∧
      t.cur.joined = false ∧ t.cur.npc = none := by decide
/-- Monitors: none, lost, armed and written, armed; handles that are valid, empty and poisoned; the first offset past a page. -/
theorem witness_StopsAndMonitors :
    acts tHandles .always ∧ tablesOk tHandles = true ∧ (tHandles.readH (tHandles.coach 0) 1).st = .valid ∧
      (tHandles.coach 0).mon = .none ∧ (0xFFFF : Nat) < pageBytes (tHandles.readH (tHandles.coach 0) 1).size ∧
      (tHandles.readH (tHandles.coach 0) 1).lo.toNat ≤ 0xFFFF ∧ 0xFFFF < (tHandles.readH (tHandles.coach 0) 1).hi.toNat ∧
      tHandles.keyOk (tHandles.coach 0) (tHandles.readH (tHandles.coach 0) 1) = true ∧
      (tHandles.readH (tHandles.coach 0) 1).rights.getLsbD 0 = true ∧
      pageBytes (tHandles.readH (tHandles.coach 0) 3).size ≤ 0x10000 ∧ (tHandles.readH (tHandles.coach 0) 3).st = .absent ∧
      (tHandles.readH (tHandles.coach 0) 0).st = .empty ∧ (tHandles.readH (tHandles.coach 0) 4).st = .poisoned := by decide
theorem witness_StopsAndMonitors_mwait :
    ∀ m ∈ [Monitor.lost, .armed 5 1 true, .armed 5 1 false], acts (tState { tCoach with mon := m }) .always := by decide
/-- A scalar result is still under way and a transfer is pending; TVEC is set. -/
theorem witness_TrapEntrySavesState :
    let c := { tCoach with tvec := 0x1000, pend := some (.target 0x200), inflight := [⟨0, 5, 5, 0, .scl 7 3, none, none⟩] }
    let s := tState c
    (s.coach 0).intrap = false ∧ (s.coach 0).tvec ≠ 0 ∧ (mkTrap 0x05 3 0).code ≠ 0x02 ∧ s.cur.cycle < 5 ∧
      (s.coach 0).inflight = [⟨0, 5, 5, 0, .scl 7 3, none, none⟩] ∧ (s.coach 0).pend = some (.target 0x200) := by decide
theorem witness_TrapEntrySavesState_vector : ∀ f ∈ [(⟨0, 5, 5, 0, .scl 7 3, none, none⟩ : Landing)], ∀ v, f.w = .sys 1 v → (0 : Nat) < f.due := by
  intro f hf v h
  simp at hf
  subst hf
  cases h
theorem witness_TrapWithoutHandlerEndsParty :
    let s := tIn { tCoach with intrap := true } tPartyRec
    (s.coach 0).intrap = true ∧ (s.party (s.coach 0).party).launch ≠ 0 ∧ (s.party (s.coach 0).party).st ≠ .ended ∧ tablesOk s = true := by
  decide
theorem witness_TrapWithoutHandlerEndsParty_vector :
    let s := tIn tCoach tPartyRec
    (s.coach 0).tvec = 0 ∧ (mkTrap 0x05 3 0).code ≠ 0x02 ∧ (s.party (s.coach 0).party).launch ≠ 0 ∧
      (s.party (s.coach 0).party).st ≠ .ended ∧ tablesOk s = true := by decide
theorem witness_ReturnFromTrap :
    let s := tState { tCoach with intrap := true, tnext := 0x8000000000000200, trapset := [⟨0, 3, 3, 0, .scl 7 3, none, none⟩] }
    let t := tState { tCoach with intrap := true }
    s.cur.coach = some 0 ∧ (s.coach 0).path ≠ 0 ∧ (s.coach 0).intrap = true ∧ (s.coach 0).tnext.getLsbD 63 = true ∧
      (s.coach 0).tpend = none ∧ (t.coach 0).tnext.getLsbD 63 = false ∧ (tRegs.coach 0).intrap = false := by decide
/-- A privileged and an unprivileged coach; the last assigned number and the first that is not. -/
theorem witness_SystemRegistersAndStatistics :
    acts tRegs .always ∧ tablesOk tRegs = true ∧ (tRegs.coach 0).priv = false ∧ sysValueOk 0x0E (tRegs.rdS (tRegs.coach 0) (.reg 5)) = true ∧
      sysValueOk 7 (tRegs.rdS (tRegs.coach 0) (.const 0)) = true ∧ (tState { tCoach with priv := true }).cur.coach = some 0 ∧
      ((tState { tCoach with priv := true }).coach 0).priv = true ∧ 0x10 < (0x11 : Word).toNat ∧ sysValueOk 0 0x1F00 = true := by decide
/-- Comparators free, and held by the coach's own job; debugging allowed and not. -/
theorem witness_TrapBreakAndComparators :
    let s := { tRegs with jobs := [(1, { tJob with dbgen := true })], wings := [(0, { Wing.blank with bps := [(3, ⟨true, 8, 1⟩)] })] }
    acts s .always ∧ tablesOk s = true ∧ (s.job (s.coach 0).asid.toNat).dbgen = true ∧ (sget Bp.off (s.wing 0).bps 3).asid = (s.coach 0).asid ∧
      (sget Bp.off (s.wing 0).bps 0).on = false ∧ srising 0 (s.wing 0).bps = true ∧ srising 0 (s.wing 0).watches = true ∧
      (sget Watch.off (s.wing 0).watches 3).kind = 0 ∧ (tRegs.job (tRegs.coach 0).asid.toNat).dbgen = false ∧
      (let b : Nat := 0x10000001F
       b / 32 % 2 ^ 27 = 0 ∧ b / 4 % 4 ≠ 0 ∧ b / 2 ^ 32 ≠ 0) := by decide
/-- The largest address and mask, the first of each that is refused; a cached image and none. -/
theorem witness_TranslateReleaseAndRequest :
    let s := { tHandles with cores := [(0, { Core.blank with tcache := [tHandle] })] }
    acts s .always ∧ s.cached? (coreOf 0) (s.coach 0).asid 0x10000000000FFFF = some tHandle ∧
      s.cached? (coreOf 0) (s.coach 0).asid 0x1FFFFFFFFFFFFFF = none ∧ (0x1FFFFFFFFFFFFFF : Nat) < 2 ^ 57 ∧
      (s.readH (s.coach 0) 1).rights.getLsbD 1 = true ∧ (s.readH (s.coach 0) 2).st = .pending ∧ (s.readH (s.coach 0) 3).st = .absent ∧
      (s.readH (s.coach 0) 0).st = .empty ∧ (s.readH (s.coach 0) 4).st = .poisoned ∧ ∀ y ∈ s.pageReqs, y.tag ≠ s.nextTag % 65536 := by
  decide +kernel
/-- A handle without the write right. -/
theorem witness_TranslateReleaseAndRequest_right :
    let s := tState { tCoach with h := [(1, { tHandle with rights := 1 })], mon := .armed 5 1 false }
    acts s .always ∧ (s.readH (s.coach 0) 1).st = .valid ∧ (s.readH (s.coach 0) 1).rights.getLsbD 1 = false ∧
      (s.coach 0).mon = .armed 5 1 false := by decide
/-- The lowest and the highest byte of the window: v1 is 0 in all lanes but lane 0, where it is 0xFFFC. -/
def tAccess : State := { tHandles with coaches := [(0, { tHandles.coach 0 with v := [(64, 0xFFFC)] })] }
theorem witness_LoadsIssueTheirUnits :
    acts tAccess .always ∧ (tAccess.wing (wingOf 0)).watches = [] ∧
      (∀ l, l < 16 → (tAccess.readH (tAccess.coach 0) 1).lo.toNat ≤ (tAccess.rdOff (tAccess.coach 0) l (.reg 1)).toNat ∧
        (tAccess.rdOff (tAccess.coach 0) l (.reg 1)).toNat + 4 ≤ (tAccess.readH (tAccess.coach 0) 1).hi.toNat ∧
        (tAccess.rdOff (tAccess.coach 0) l (.reg 1)).toNat + 4 ≤ pageBytes (tAccess.readH (tAccess.coach 0) 3).size) ∧
      (tAccess.readH (tAccess.coach 0) 1).st = .valid ∧ tAccess.keyOk (tAccess.coach 0) (tAccess.readH (tAccess.coach 0) 1) = true ∧
      1#4 &&& ~~~(tAccess.readH (tAccess.coach 0) 1).rights = 0 ∧ (tAccess.readH (tAccess.coach 0) 3).st = .absent := by decide +kernel
theorem witness_StoresIssueTheirBytes :
    acts tAccess .always ∧ (tAccess.readH (tAccess.coach 0) 1).wb = false ∧ tAccess.holdsHard (tAccess.coach 0).party = false ∧
      2#4 &&& ~~~(tAccess.readH (tAccess.coach 0) 1).rights = 0 := by decide +kernel
theorem witness_AtomicsIssueAndOperate :
    acts tAccess .always ∧ 0xA#4 &&& ~~~(tAccess.readH (tAccess.coach 0) 1).rights = 0 ∧
      ∀ l, l < 16 → tAccess.handlePlace (tAccess.readH (tAccess.coach 0) 1) ((tAccess.rdOff (tAccess.coach 0) l (.reg 1)).toNat / 4 * 4) =
        .home ((tAccess.rdOff (tAccess.coach 0) l (.reg 1)).toNat / 4 * 4) false := by decide +kernel
/-- A handle of each state; a first lane inside and one past the page; a foreign key, no right, WB. -/
theorem witness_HandleChecksInOrder :
    let s := tAccess
    acts s .always ∧ (s.readH (s.coach 0) 2).st = .pending ∧ (s.readH (s.coach 0) 0).st = .empty ∧ (s.readH (s.coach 0) 4).st = .poisoned ∧
      pageBytes (s.readH (s.coach 0) 1).size < (s.rdOff (s.coach 0) 0 (.reg 1)).toNat + 8 ∧
      s.keyOk (s.coach 0) { tHandle with key := 1 } = false ∧ 2#4 &&& ~~~({ tHandle with rights := 1 } : Handle).rights ≠ 0 ∧
      ({ tHandle with wb := true } : Handle).rights.getLsbD 1 = true ∧ (s.readH (s.coach 0) 3).st = .absent := by decide +kernel
/-- v1 is -1 in lane 0: outside the allocation. -/
theorem witness_ScratchpadAccesses :
    let s := tIn { tCoach with v := [(64, 0xFFFFFFFF)] } tPartyRec
    acts s .always ∧ s.spTarget (s.coach 0) (s.party (s.coach 0).party).k = some (0, 256, 1024) ∧ (s.wing 0).watches = [] ∧
      (s.coach 0).spguard = none ∧ (s.rdOff (s.coach 0) 0 (.reg 1)).toInt < 0 ∧ (s.rdOff (s.coach 0) 1 (.reg 1)).toInt = 0 := by
  decide +kernel
/-- Level 0 of the kernel is a C level at SLEV; level 1 is not. -/
theorem witness_FencesAndSupersteps :
    let s := { tIn tCoach tPartyRec with launches := [(1, { Launch.blank with kernel := { Kernel.blank with levels := [.c, .t] } })] }
    acts s .always ∧ s.holdsHard (s.coach 0).party = false ∧
      (let kn := (s.launch (s.party (s.coach 0).party).launch).kernel
       kn.levels[0]? = some .c ∧ kn.slev ≤ 0 ∧ ¬ (kn.levels[1]? = some .d ∨ kn.levels[1]? = some .c)) ∧
      (s.party 1).skip = 0 ∧ (s.party 1).sstep = none := by decide
/-- An armed barrier of two arrivals at object 0; one that strays; one in its other phase; the largest count. -/
def tBar (b : Bar) (c : Coach) : State :=
  { tIn c tPartyRec with cores := [(0, { Core.blank with sram := msets [] 256 b.bytes })] }
def tBarrier : Bar :=
  { armed := true, stray := false, phase := false, fault := 0, expected := 2, arrivals := 2, pending := 0 }
theorem witness_BarrierUnitAndSyllables :
    let s := tBar tBarrier { tCoach with s := [(5, 1)] }
    acts s .always ∧ 16 * 15 + 16 ≤ (s.party (s.coach 0).party).size ∧ s.ops = [] ∧ tablesOk s = true ∧ memoryOk s = true ∧
      s.bar 0 256 = tBarrier ∧ s.quiet 0 = true ∧ 0 < (s.rdS (s.coach 0) (.reg 5)).toNat ∧ (s.rdS (s.coach 0) (.reg 5)).toNat < tBarrier.arrivals ∧
      tBarrier.phase ≠ (s.rdS (s.coach 0) (.reg 5)).getLsbD 0 ∧ tBarrier.phase = (s.rdS (s.coach 0) (.const 0)).getLsbD 0 ∧
      ((tBar { tBarrier with stray := true, fault := 2 } tCoach).bar 0 256).stray = true ∧ (32767 : Nat) ≤ 32767 ∧
      ({ tPartyRec with size := 0 } : Party).size < 16 * 0 + 16 := by decide +kernel
/-- A shape of one dimension: 16 elements of 4 bytes, all in the box, writable. -/
def tDesc : List Dbl :=
  [BitVec.ofNat 64 (2 * 2 ^ 32 + 2 ^ 36 + 2 ^ 43), 0x10, 0, 0, 4, 0, 0, 0x10]
def tShape : Shape := { valid := true, desc := tDesc, h := 1, lo := 0, hi := 64 }
/-- Coach 0 of a party whose allocation begins with that descriptor, with the shape in slots 0 and 1. -/
def tCopy : State :=
  { tHandles with
    parties := [(1, { tPartyRec with shapes := [(0, tShape), (1, tShape)] })],
    cores := [(0, { Core.blank with sram := msets [] 256 (bytesOfDbls tDesc) })] }
theorem witness_ShapesBatchesAndWaits :
    acts tCopy .always ∧ (tCopy.core (coreOf 0)).courier.length < 64 ∧ (0 : Nat) % 64 = 0 ∧ 0 + 64 ≤ (tCopy.party 1).size ∧
      (tCopy.party 1).size < 1024 + 64 ∧ tCopy.ops = [] ∧ tCopy.poison = [] ∧ (Geo.read tDesc).check = 0 ∧
      (Geo.read ((List.range 8).map fun i => BitVec.ofNat 64 (leNat (mgets (tCopy.core 0).sram (256 + 8 * i) 8)))).bounds = (0, 64) ∧
      (tCopy.readH (tCopy.coach 0) 1).st = .valid ∧ (64 : Int) ≤ (tCopy.readH (tCopy.coach 0) 1).hi.toNat ∧
      tCopy.keyOk (tCopy.coach 0) (tCopy.readH (tCopy.coach 0) 1) = true ∧ tablesOk tCopy = true ∧
      srising 0 (tCopy.coach 0).s = true := by decide +kernel
/-- NB is 2, CB is 1: batch 1 is complete; with CB 0 it is awaited; batch 2 has not been sealed. -/
theorem witness_ShapesBatchesAndWaits_waits :
    let upTo (a b : Word) : Prop := (b - a).toNat < 2 ^ 31
    upTo 1 (2 - 1) ∧ upTo 1 1 ∧ ¬ upTo 1 0 ∧ ¬ upTo 2 (2 - 1) ∧ acts (tState { tCoach with nb := 2, cb := 1 }) .always := by decide
theorem witness_CopiesAreAccepted :
    acts tCopy .always ∧ (tCopy.core (coreOf 0)).courier.length < 64 ∧ tCopy.shape (tCopy.coach 0) 0 = tShape ∧
      tCopy.coords (tCopy.coach 0) 0 1 = some [0, 0, 0, 0, 0] ∧ copyOk tCopy (tCopy.coach 0) tShape (tCopy.readH (tCopy.coach 0) 1) [0, 0, 0, 0, 0] false ∧
      copyOk tCopy (tCopy.coach 0) tShape (tCopy.readH (tCopy.coach 0) 1) [0, 0, 0, 0, 0] true ∧
      tCopy.member? 1 (tCopy.party 1).k = some 1 ∧ dwMask 0 = 0 ∧ dwOff 0 + (Geo.read tDesc).bytes ≤ (tCopy.party 1).size ∧
      dwBar 0 = false ∧ dwOff 0 % 16 = 0 ∧ tCopy.holdsHard 1 = false := by decide +kernel
/-- CPYG's coordinates at the highest register; CPYM to member 0; CPYP of a box behind a handle that is absent. -/
theorem witness_CopiesAreAccepted_general :
    tCopy.coords (tCopy.coach 0) 58 1 = some [0, 0, 0, 0, 0] ∧ tCopy.coords (tCopy.coach 0) (58 + 3) 1 = some [0, 0, 0, 0, 0] ∧
      (tCopy.rdS (tCopy.coach 0) (.const 1)).toNat < 16 ∧ dwMask 0x100000000 = 1 ∧ tCopy.member? 1 0 = some 1 ∧
      (∀ K, K < 4 → (dwMask 0x100000000).testBit K = true → K = 0) ∧ (tCopy.readH (tCopy.coach 0) 3).st ≠ .valid := by decide +kernel

/-- Party 1 owns the four arrays of core 0: wing 0's through coach 0, with a lodging of format 0 issued. -/
def tMatrixWing (k : Nat) : Wing :=
  { Wing.blank with owner := some k, issuedFmt := some 0, drover := { Drover.reset with party := some 1 } }
def tMatrix : State :=
  { tIn { tCoach with role := .matrix, s := [(5, 0x100)] } tPartyRec with
    wings := [(0, tMatrixWing 0), (1, tMatrixWing 16), (2, tMatrixWing 32), (3, tMatrixWing 48)] }
theorem witness_MatrixOperationsQueue :
    acts tMatrix .always ∧ (tMatrix.wing (wingOf 0)).mq.length < 16 ∧ 96 + 1536 / (tMatrix.coach 0).width ≤ 192 ∧ fmtOk tMatrix 0 ∧
      (tMatrix.wing 0).owner = some 0 ∧ (tMatrix.wing 0).drover.party = some (tMatrix.coach 0).party ∧
      (∀ i, i < 4 → (tMatrix.wing (4 * coreOf 0 + i)).owner = some (16 * i) ∧
        (tMatrix.wing (4 * coreOf 0 + i)).drover.party = some (tMatrix.coach 0).party) ∧
      (tMatrix.wing 0).issuedFmt = some 0 ∧ fmtPair 0 0 = true ∧ mscaleBad 16 (tMatrix.rdS (tMatrix.coach 0) (.const 0)) = false ∧
      (tMatrix.coach 0).role ≠ .copy ∧ (tMatrix.rdS (tMatrix.coach 0) (.reg 5)).toNat = 0 + 16 * 16 ∧
      128 + 64 * 16 / (tMatrix.coach 0).width ≤ 192 := by decide +kernel

/-- Wing 0's Drover serves party 1; the shadow table reads one beat of SV0 through h1. -/
def tTable : Sparse (Dbl × Dbl) := [(7, (0x11100000000, 0))]
def tDrover (d : Drover) : State :=
  { tHandles with parties := [(1, tPartyRec)], wings := [(0, { Wing.blank with drover := { d with party := some 1 } })] }
theorem witness_DroverSyllables :
    let s := tDrover { Drover.reset with shadow := tTable }
    acts s .always ∧ served s 0 ∧ srising 0 (s.wing (wingOf 0)).drover.shadow = true ∧ (s.wing (wingOf 0)).drover.st ≠ .running ∧
      tableBad tTable = false ∧ streams tTable = [7] ∧ streamMem tTable 7 = true ∧ streamHnd tTable 7 = 1 ∧
      streamBounds tTable 16 7 = (0, 64) ∧ (64 : Int) ≤ pageBytes (s.readH (s.coach 0) 1).size ∧
      (s.readH (s.coach 0) 1).rights.getLsbD 0 = true ∧ s.keyOk (s.coach 0) (s.readH (s.coach 0) 1) = true ∧
      dbits (0xBFFFFFFFFF : Dbl) 39 37 ≤ 5 ∧ (0x7FFFFFFFFFF : Dbl).toNat < 2 ^ 43 := by decide +kernel
/-- A beat that is here, an empty queue of a walk that runs, is suspended, is idle. -/
theorem witness_DroverSyllables_pop :
    let b : Beat := { id := 1, len := 64, here := true, bytes := List.replicate 64 7, place := .nowhere, va := 0, asked := false, cached := false, stamp := 0, left := 0, page := 0, coach := 0, go := 1, line := none }
    let s := tDrover { Drover.reset with q0 := [b] }
    acts s .always ∧ served s 0 ∧ (s.wing (wingOf 0)).drover.q0 = b :: [] ∧ b.bytes.length = 4 * (s.coach 0).width ∧ s.poison = [] ∧
      ∀ st ∈ [DroverState.running, .suspended, .idle], ((tDrover { Drover.reset with st := st }).wing 0).drover.st = st ∧
        ((tDrover { Drover.reset with st := st }).wing 0).drover.q1 = [] := by decide +kernel
/-- Records at 0 and at the last place in the window; one that is misaligned; with and without privilege. -/
theorem witness_JobAndPartySyllables :
    let p := { tHandles with coaches := [(0, { tHandles.coach 0 with priv := true })] }
    acts tHandles .always ∧ (tHandles.rdS (tHandles.coach 0) (.const 0)).toNat % 128 = 0 ∧ (0xFF80 : Nat) % 128 = 0 ∧
      (tHandles.readH (tHandles.coach 0) 1).lo.toNat ≤ 0 ∧ 0xFF80 + 128 ≤ (tHandles.readH (tHandles.coach 0) 1).hi.toNat ∧
      1#4 &&& ~~~(tHandles.readH (tHandles.coach 0) 1).rights = 0 ∧ (tHandles.readH (tHandles.coach 0) 1).wb = false ∧
      tHandles.holdsHard (tHandles.coach 0).party = false ∧ (tHandles.rdS (tHandles.coach 0) (.const 1)).toNat % 128 ≠ 0 ∧
      (tHandles.coach 0).priv = false ∧ acts p .always ∧ (p.coach 0).priv = true := by decide +kernel
/-- A pool with a tile, and none with the tiles of the launch used up or not. -/
def tTiles (next : Nat) (pool : List Nat) : State :=
  { tIn tCoach tPartyRec with
    launches := [(1, { Launch.blank with
      fin := false, doubles := [0, 0, 32, 0, 0, 1], kernel := { Kernel.blank with levels := [.t] }, parties := [1], nextTile := next, pools := [(0, pool)] })] }
def tTilesNow (s : State) : State := s.commitThen 1 fun x => { x with tile := none, token := 0 }
theorem witness_JobAndPartySyllables_tiles :
    acts (tTiles 16 [3]) .always ∧ ((tTilesNow (tTiles 16 [3])).takeTile 1).map (·.1) = some 3 ∧
      (tTilesNow (tTiles 16 [])).takeTile 1 = none ∧ (tTilesNow (tTiles 16 [])).exhausted 1 = false ∧
      (tTilesNow (tTiles 32 [])).takeTile 1 = none ∧ (tTilesNow (tTiles 32 [])).exhausted 1 = true := by decide +kernel
/-- Die 0 is at cycle 5. -/
def tLater (s : State) : State := { s with dies := [(0, { Die.reset with cycle := 5 })] }
theorem witness_LandingsAndStopsEnd :
    let f : Landing := ⟨0, 5, 5, 0, .scl 7 3, none, none⟩
    let s := tLater (tState { tCoach with inflight := [f] })
    tablesOk s = true ∧ (s.coach 0).inflight[0]? = some f ∧ f.fe = none ∧ f.early ≤ s.now 0 ∧ s.lands 0 f = true ∧ unbeaten (s.coach 0) f.seq ∧
      (∀ g ∈ (s.coach 0).inflight, g.fe = none → g.sooner f = false) ∧ srising 0 (s.coach 0).s = true := by decide
/-- The last count of a WAIT, the last cycle of a YIELD, the deadline of an MWAIT, a step count that has reached 0. -/
theorem witness_LandingsAndStopsEnd_stops :
    let w := tState { tCoach with stop := .wait 3 0 }
    let y := tLater (tState { tCoach with stop := .yield 5 })
    let m := tState { tCoach with stop := .mwait (some 0) (.reg 7) none 0, mon := .armed 5 1 false }
    let d := tLater (tState { tCoach with stepDue := true, tvec := 0x1000 })
    w.awake 0 = true ∧ (w.coach 0).count 3 ≤ 0 ∧ y.awake 0 = true ∧ 5 ≤ y.now 0 ∧ m.awake 0 = true ∧ 0 ≤ m.tick ∧
      (d.coach 0).intrap = false ∧ (d.coach 0).soft = none ∧ d.ready 0 = true ∧ (d.die (dieOf 0)).gated = false ∧
      (d.coach 0).tvec ≠ 0 ∧ (d.coach 0).inflight = [] ∧ Site.sys 0 1 ∉ d.poison := by decide
/-- A pending handle and its walk. -/
theorem witness_OutstandingWorkCompletes :
    let w : Walk := { id := 1, coach := 0, h := 2, va := 0x100000000000000, mask := 0xF, asid := 1 }
    let s := { tPaged (tHandles.coach 0) with walks := [w] }
    tablesOk s = true ∧ memoryOk s = true ∧ s.walks.find? (fun x => x.id = 1) = some w ∧ (s.walk w.asid.toNat w.va.toNat).err = 0 ∧
      (s.walk w.asid.toNat w.va.toNat).st = .valid ∧ srising 0 (s.coach 0).h = true ∧
      (sget Handle.blank (s.coach 0).h 2).st = .pending ∧ (sget Handle.blank (s.coach 0).h 2).walk = 1 := by decide +kernel
/-- An operation of coach 0 whose one part has not been performed. -/
def tOp (kind : OpKind) (parts : List Part) : Op :=
  { id := 1, coach := 0, party := 1, asid := 1, seq := 1, addr := 0, cycle := 0, kind := kind, pol := .dflt, lanes := 0xFFFF,
    parts := parts, fe := some 9, held := false, moved := false, stamp := 0, left := 0, die := 0 }
def tPart (p : Place) (st : PartState) : Part :=
  { lane := 0, pos := 0, place := p, va := 0, len := 4, data := [1, 2, 3, 4], ats := [], st := st, got := [1, 2, 3, 4], page := 65536, asked := false }
def tWork (o : Op) : State :=
  { tLater (tState { tCoach with flags := [⟨9, 3, 1, false, [], [], none⟩] }) with ops := [o], jobs := [(1, tJob)] }
/-- A store to scratchpad, and one to the last word of memory. -/
theorem witness_OutstandingWorkCompletes_store :
    let p := tOp (.store 4 false) [tPart (.sram 0 256) .todo]
    let q := tOp (.store 4 false) [tPart (.home (tEnd - 4) false) .todo]
    (tWork p).op? 1 = some p ∧ p.performed = false ∧ (tWork p).mayPerform p 0 (tPart (.sram 0 256) .todo) = true ∧
      (tWork q).mayPerform q 0 (tPart (.home (tEnd - 4) false) .todo) = true ∧ (tWork q).exempts 1 = false := by decide +kernel
theorem witness_OutstandingWorkCompletes_home : plainHome (tWork (tOp (.store 4 false) [])) 1 (tEnd - 4) 0 :=
  ⟨tQuiet (by decide) (by decide), fun _ _ => rfl, rfl, by decide⟩
/-- The last word below 720 GiB, the first bytes of memory, and the first byte past 768 GiB. -/
theorem witness_addressable :
    addressable (tEnd - 4) 4 = true ∧ addressable 0 8 = true ∧ addressable 64 8 = true ∧ addressable memEnd 4 = false :=
  ⟨addressable_below (by decide), addressable_below (by decide), addressable_below (by decide), addressable_above (by decide)⟩
/-- An atomic of coach 0 that has issued through h1, which maps the first granule, and can be performed: lane 0 at the last word of the page,
and the others at its first. -/
theorem witness_OutstandingSyllablesTakeEffect_atomic :
    acts tAccess .always ∧ (tAccess.readH (tAccess.coach 0) 1).st = .valid ∧ (tAccess.readH (tAccess.coach 0) 1).wb = false ∧
      tAccess.holdsHard (tAccess.coach 0).party = false ∧
      after (exec (.aaddI32 ⟨.always, 2, .reg 1, 1, 3⟩) tAccess) (fun t =>
        let u := tLater t
        match u.ops with
        | [x] => tablesOk u && memoryOk u && x.left == x.stamp && decide (x.die < 10) && decide (u.poison = []) && decide (calmL2 u) && decide (u.owner = []) &&
            x.parts.length == 2 && (List.range 2).all fun j => match x.parts[j]? with
              | some p => u.mayPerform x j p && (match p.place with
                | .home pa e => p.ats.all fun b => (match b.place with
                    | .home q f => e == f && q % 4 == 0 && q / 128 == pa / 128
                    | _ => false)
                | _ => false)
              | none => false
        | _ => false) = true := by decide +kernel
/-- Barrier syllables on object 0, and their operations at the unit; COMMIT, SNAPQ and DSTAT; a record of LAUNCH that can be read and one that
has been. -/
theorem witness_OutstandingSyllablesTakeEffect :
    let s := tIn { tCoach with s := [(5, 3)], flags := [⟨9, 3, 1, false, [], [], none⟩], h := [(1, tHandle)] } tPartyRec
    let work (kind : OpKind) (ps : List Part) : State := { tLater s with ops := [tOp kind ps] }
    let ready (kind : OpKind) : Bool := (work kind []).settled (tOp kind []) && (work kind []).barReady (tOp kind [])
    let p : Part := { tPart (.home 0 false) .todo with len := 128 }
    acts s .always ∧ 16 * 0 + 16 ≤ (s.party (s.coach 0).party).size ∧ 1 ≤ (s.rdS (s.coach 0) (.reg 5)).toNat ∧
      (s.rdS (s.coach 0) (.reg 5)).toNat ≤ 32767 ∧ ready (.barinit 0 3) = true ∧ ready (.bexpect 0 3) = true ∧ ready (.arrive 0 3 .latch) = true ∧
      (work .commit []).settled (tOp .commit []) = true ∧ (work .commit []).committed (tOp .commit []) = true ∧
      tablesOk (work .commit []) = true ∧ memoryOk (work .commit []) = true ∧
      (work (.launch 7) [p]).recordReady (tOp (.launch 7) [p]) = true ∧ (tOp (.launch 7) [{ p with st := .fin }]).performed = true ∧
      (work (.launch 7) [{ p with st := .fin }]).recordReady (tOp (.launch 7) [{ p with st := .fin }]) = false ∧
      (work (.launch 7) [p]).isDead 0 = false ∧ (work (.launch 7) [p]).delayers 1 0 = [] := by decide +kernel
/-- A load that has been performed, a fence with nothing before it, a loss notice, and a host page's request. -/
theorem witness_OutstandingWorkCompletes_others :
    let l := tOp (.load [2] 4 none 0 false) [tPart (.sram 0 256) .fin]
    let f := tOp (.fence 3) []
    let n := tOp (.store 4 false) [tPart (.home 0 false) .noticed]
    let r : PageReq := { tick := 0, tag := 7, op := 1, va := 0, wr := false, host := true, asid := 1, posted := true }
    l.performed = true ∧ (tWork l).op? 1 = some l ∧ ((tWork l).coach 0).flags = [⟨9, 3, 1, false, [], [], none⟩] ∧ [2].Nodup ∧ unbeaten ((tWork l).coach 0) 1 ∧
      (tWork f).settled f = true ∧ (tWork f).fenceReady f 3 = true ∧ (tWork n).op? 1 = some n ∧ (∃ p ∈ n.parts, p.st = .noticed) ∧
      [r].find? (fun x => x.tag = 7 && x.host) = some r := by decide +kernel
/-- A commit of one byte. -/
def tCommit : Commit := { id := 1, party := 1, asid := 1, stamp := 0, die := 0, bytes := [⟨64, false, 64, 65536, 5, 1, false, 1⟩], after := [] }
theorem witness_OutstandingWorkCompletes_commit :
    let s := { tWork (tOp (.fence 3) []) with ops := [], commits := [tCommit] }
    s.commits.find? (fun x => x.id = 1) = some tCommit ∧ tCommit.bytes[0]? = some ⟨64, false, 64, 65536, 5, 1, false, 1⟩ ∧
      unitBytes tCommit ⟨64, false, 64, 65536, 5, 1, false, 1⟩ = ⟨64, false, 64, 65536, 5, 1, false, 1⟩ :: [] ∧ tCommit.die < 10 ∧ (s.die tCommit.die).gated = false ∧
      s.firstUnit tCommit ⟨64, false, 64, 65536, 5, 1, false, 1⟩ = true ∧ 64 < tEnd :=
  ⟨rfl, by decide, by simp [unitBytes, tCommit], by decide, by decide, by simp [State.firstUnit, tCommit]; decide, by decide⟩

/-- A party that has waited 4 ms, of a launch of one general coach. -/
def tPlaceable : State :=
  { State.reset with
    cfg := { State.reset.cfg with st := 2 }, tick := 6800000,
    launches := [(1, { Launch.blank with
      doubles := [0, 0, 1, 0, 0, 1], asid := 1, parties := [1],
      kernel := { Kernel.blank with width := 16, levels := [.c], l1 := 64, roles := [⟨.general, 1, 24, placedPc⟩] } })],
    jobs := [(1, tJob)], parties := [(1, { Party.blank with st := .pending, launch := 1 })] }
theorem witness_PartiesComeAndGo :
    tablesOk tPlaceable = true ∧ memoryOk tPlaceable = true ∧ (tPlaceable.party 1).waits = true ∧ (tPlaceable.party 1).promoted = false ∧
      (tPlaceable.die (tPlaceable.party 1).die).gated = false ∧
      (tPlaceable.party 1).pendSince + 6800000 ≤ tPlaceable.tick ∧ (tPlaceable.party 1).st = .pending ∧
      [0].Nodup ∧ [0].length = (tPlaceable.launch 1).kernel.coaches.length ∧ [0][0]? = some 0 := by decide +kernel
/-- It fits, and no other party waits. -/
theorem witness_PartiesComeAndGo_place :
    tPlaceable.placeable 1 = true ∧ (tPlaceable.seatUnit State.bring (tPlaceable.unitOf 1)).isSome = true ∧
      tPlaceable.afterCut 1 = false ∧ lexLt (tPlaceable.rank 1) (tPlaceable.rank 1) = false := by decide +kernel
theorem witness_PartiesComeAndGo_earlier : ∀ q, (tPlaceable.party q).waits = true → q = 1 :=
  tAll Party.blank (fun q x => x.waits = true → q = 1) (fun _ h => absurd h (by decide)) tPlaceable.parties (by decide)
/-- Party 1 holds nearly all of core 0, the one core of die 0 whose wing 0 is in service, and party 2 of priority 3 waits for it and that
wing's Drover. -/
def tVictim : State :=
  let l : Launch := { tPlaceable.launch 1 with
    doubles := [0, 0, 1, 0, 0, 1, 0x100000000020000, 0x100010000], slots := [0],
    kernel := { (tPlaceable.launch 1).kernel with scratch := 524288 } }
  { tState tCoach with
    tick := 170000, wings := (List.range 63).map fun i => (4 * i + 4, { Wing.blank with out := true }),
    launches := [(1, l), (2, { l with doubles := [0x80C, 0, 1, 0, 0, 1], parties := [2] })], jobs := [(1, tJob)],
    parties := [(1, { tPartyRec with size := 524288, foot := 524800 }), (2, { Party.blank with st := .pending, launch := 2 })] }
theorem witness_PartiesComeAndGo_victim :
    (tVictim.victims State.bring (tVictim.party 1).die).contains 1 = true ∧ tVictim.unitOf 1 = [1] ∧ (tVictim.party 1).st = .running ∧
      (∀ k ∈ (tVictim.party 1).coaches, tVictim.replaying (wingOf k) = false) ∧ tablesOk tVictim = true ∧ memoryOk tVictim = true := by decide +kernel
/-- A drained victim, and a coach that has ended. -/
theorem witness_PartiesComeAndGo_end :
    let s := { tVictim with parties := [(1, { tPartyRec with st := .draining, slot := some 0 })] }
    let e := { tVictim with coaches := [(0, { tCoach with ended := true })] }
    (s.party 1).st = .draining ∧ s.drainedParty 1 = true ∧ (e.coach 0).present = true ∧ (e.coach 0).ended = true ∧
      (e.coach 0).party = 1 ∧ (e.party 1).launch ≠ 0 ∧ (e.coach 0).flags = [] ∧ e.ops = [] ∧ e.walks = [] ∧
      (e.core (coreOf 0)).courier = [] ∧ e.matrixStuck 1 = false := by decide +kernel
/-- A mismatch begins; the window of another is over, none or two in the millisecond before it, with a bundle squashed; an ended steward. -/
theorem witness_MismatchesAndRepairs :
    let s := tState tCoach
    let u := tLater { s with wings := [(0, { Wing.blank with squash := some 3, again := [(0, placedPc)] })] }
    let t := { u with wings := [(0, { Wing.blank with squash := some 3, mismatches := [0, 1] })], tick := 1699999 }
    let e := tState { tCoach with ended := true, party := 0, asid := 0 }
    tablesOk s = true ∧ (s.wing 0).out = false ∧ (s.die 0).gated = false ∧ (s.wing 0).squash = none ∧ s.replaying 0 = false ∧
      tablesOk u = true ∧ (u.wing 0).out = false ∧ (u.wing 0).squash = some 3 ∧ 3 + 2 ≤ (u.die (dieOfCore (coreOfWing 0))).cycle ∧
      ((u.wing 0).mismatches.filter fun m => decide (u.tick < m + 1700000)).length < 2 ∧ (u.wing 0).again = (0, placedPc) :: [] ∧
      (u.core (coreOf 0)).statq.length < 256 ∧ sget 0 (u.core (coreOf 0)).lost (u.coach 0).asid.toNat = 0 ∧ u.coachesOfWing 0 = [0] ∧
      tablesOk t = true ∧ (t.wing 0).out = false ∧ 2 ≤ ((t.wing 0).mismatches.filter fun m => decide (t.tick < m + 1700000)).length ∧
      (e.coach 0).present = true ∧ (e.coach 0).ended = true ∧ (e.party (e.coach 0).party).launch = 0 := by decide
/-- Sixteen tiles of 32 are left to die 0, whose pool holds seven; one party of it was told to retry, or none. -/
def tDeal (r : Option Nat) : State :=
  { tTiles 16 [1, 2, 3, 4, 5, 6, 7] with parties := [(1, { tPartyRec with reserve := r })] }
theorem witness_LaunchesProceed :
    let l := (tDeal (some 0)).launch 1
    tablesOk (tDeal (some 0)) = true ∧ memoryOk (tDeal (some 0)) = true ∧ l.nextTile < l.kernel.tiles l.doubles ∧ (sget [] l.pools 0).length < 8 ∧
      (nth l.doubles 5 0).getLsbD 0 = true ∧ l.fin = false ∧ ((tDeal (some 0)).party 1).die = 0 ∧ ((tDeal (some 0)).party 1).st ≠ .ended ∧
      (l.parties.filter fun p => ((tDeal (some 0)).party p).die == 0 && ((tDeal (some 0)).party p).reserve.isSome && ((tDeal (some 0)).party p).st != .ended) = [1] ∧
      (l.parties.filter fun p => ((tDeal none).party p).die == 0 && ((tDeal none).party p).reserve.isSome) = [] := by decide +kernel
/-- No generation runs; and one runs that has cut die 0 and not I/O die 0. -/
theorem witness_LaunchesProceed_cut :
    let s := tDeal none
    let late := { s with jobs := [(0, { Job.blank with
      epoch := [(0, 1)], snap := { Snap.blank with state := 1, cuts := [(0, { DieCut.blank with cut := true })] } })] }
    (s.launch 1).asid.toNat = 0 ∧ stampOf (s.epochOf 0 0) (s.epochOf 0 8) ≠ .new ∧ (s.job 0).snap.running = false ∧
      stampOf (late.epochOf 0 0) (late.epochOf 0 8) ≠ .new ∧ (late.job 0).snap.running = true ∧ (late.cutOf 0 0).cut = true ∧
      (late.cutOf 0 8).cut = false := by decide +kernel
/-- A launch whose one party has ended, with DONE at the device half's byte 0x30000. -/
def tDone : State :=
  { tPaged tCoach with
    parties := [(1, { tPartyRec with st := .ended })],
    launches := [(1, { Launch.blank with fin := false, asid := 1, parties := [1], doubles := List.replicate 11 0 ++ [0x100000000030000] })] }
theorem witness_LaunchesProceed_done :
    tablesOk tDone = true ∧ memoryOk tDone = true ∧ (tDone.launch 1).fin = false ∧ (∀ p ∈ (tDone.launch 1).parties, (tDone.party p).st = .ended) ∧
      tDone.stalled = [] ∧ tDone.ops = [] ∧ tDone.commits = [] ∧ tDone.cores = [] ∧
      tDone.jobPlace (tDone.launch 1).asid.toNat (nth (tDone.launch 1).doubles 11 0).toNat = .home 0x30000 false := by decide +kernel
theorem witness_LaunchesProceed_home : quietHome tDone 1 0x30000 ∧ oneEpoch tDone 1 (tDone.epochOf 1 8) :=
  ⟨tQuiet (by decide) (by decide), by unfold oneEpoch; decide⟩
/-- The one party of a group has arrived at level 0. -/
theorem witness_LaunchesProceed_superstep :
    let s := { tTiles 0 [] with
      launches := [(1, { Launch.blank with parties := [1], kernel := { Kernel.blank with levels := [.c], sstep := true } })],
      parties := [(1, { tPartyRec with ssteps := 1, sstep := some { level := 0, coaches := [0], arrived := true } })] }
    s.groupOf 1 0 0 = [1] ∧ (s.party 1).st = .running ∧ s.arrivedClean 1 = true ∧ (s.party 1).launch = 1 ∧ (s.party 1).die < 8 ∧
      (∀ d, d < 10 → s.epochOf 0 d = s.epochOf 0 8) ∧
      (s.party 1).sstep = some { level := 0, coaches := [0], arrived := true } ∧ (s.party 1).past < (s.party 1).ssteps := by decide +kernel

/-- A command of coach 0 that has moved nothing. -/
def tCmd (kind : CmdKind) (src dst : Side) (sps : List SpDest) (len : Nat) (got : List (Nat × Byte)) : Cmd :=
  { id := 1, coach := 0, party := 1, asid := 1, addr := 0, cycle := 0, kind := kind, batch := 1, src := src, dst := dst, sps := sps,
    len := len, got := got, sent := [], flying := [], fe := none, held := false, stamp := 0, left := 0, die := 0 }
def tCourier (m : Cmd) : State :=
  { tLater (tIn { tCoach with nb := 2 } tPartyRec) with cores := [(0, { Core.blank with courier := [m] })] }
/-- Reads of a byte of scratchpad and of memory; a chunk ready for scratchpad; a byte ready for the first byte of memory; a command that is
done. -/
theorem witness_CourierMoves :
    let r := tCmd .st (.sp 0 256) .nothing [] 64 []
    let g := tCmd .ld (.box tShape [0, 0, 0, 0, 0] tHandle) .nothing [⟨1, 0, 256, none⟩] 64 []
    let d := tCmd .seal .nothing .nothing [] 0 []
    tablesOk (tCourier r) = true ∧ memoryOk (tCourier r) = true ∧ (tCourier r).cmd? 1 = some (0, r, true) ∧ (tCourier r).cmdSettled r = true ∧
      (tCourier r).sidePlace r.src 0 = .sram 0 256 ∧ (tCourier r).cmdClear r (.sram 0 256) = true ∧ (tCourier r).poison = [] ∧
      (tCourier g).sidePlace g.src 0 = .home 0 false ∧ (tCourier g).cmdClear g (.home 0 false) = true ∧ (tCourier g).isDead 0 = false ∧
      (tCourier g).ownBytes 1 = [] ∧ calmL2 (tCourier g) ∧ ((tCourier d).coach 0).more = [] ∧ (tCourier d).cmd? 1 = some (0, d, true) ∧ (tCourier d).cmdSettled d = true ∧ d.done = true := by
  decide +kernel
theorem witness_CourierMoves_stamp : oneEpoch (tCourier (tCmd .seal .nothing .nothing [] 0 [])) 1 0 := fun _ _ => rfl
theorem witness_CourierMoves_writes :
    let bs : List (Nat × Byte) := (List.range 4).map fun i => (i, BitVec.ofNat 8 i)
    let m := tCmd .ld .nothing .nothing [⟨1, 0, 256, none⟩] 4 bs
    let w := tCmd .st (.sp 0 256) (.box { tShape with lo := 0 } [0, 0, 0, 0, 0] tHandle) [] 4 bs
    (0 ∉ m.sent) ∧ m.sps[0 / m.nchunks]? = some ⟨1, 0, 256, none⟩ ∧ m.chunkLen (0 % m.nchunks) = 4 ∧
      (∀ j, j < 4 → m.byte? (1024 * (0 % m.nchunks) + j) = some (BitVec.ofNat 8 j)) ∧
      (∀ x ∈ (tCourier m).earlierCmds 0 m, x.owesSp 0 256 4 = false) ∧ w.byte? 0 = some 0 ∧ (tCourier w).sidePlace w.dst 0 = .home 0 false ∧
      0 < tEnd ∧ (tCourier w).owesMem w 0 (.home 0 false) = false ∧ (tCourier w).cmdClear w (.home 0 false) = true ∧ (tCourier w).commits = [] ∧ (tCourier w).poison = [] := by
  decide +kernel
theorem witness_CourierMoves_home : plainHome { tCourier (tCmd .seal .nothing .nothing [] 0 []) with jobs := [(1, tJob)] } 1 0 0 :=
  ⟨tQuiet (by decide) (by decide), fun _ _ => rfl, by decide⟩
/-- NB is 2 and CB 0: batch 1 has no commands left, and a wait for it ends. -/
theorem witness_CourierMoves_batch :
    let upTo (x y : Word) : Prop := (y - x).toNat < 2 ^ 31
    let s := tState { tCoach with nb := 2, stop := .cwait 1 }
    (s.coach 0).present = true ∧ upTo (0 + 1) (2 - 1) ∧ (s.core (coreOf 0)).courier = [] ∧ (s.coach 0).stop = .cwait 1 ∧ upTo 1 1 := by decide

/-- The head of wing 0's queue: MZERO of a1. -/
def tMop (kind : MKind) : MOp := { id := 1, coach := 0, addr := 0, lanes := 0xFFFF, kind := kind, fe := 9, syl := 0, cycle := 0, was := [] }
def tMatrixRun (x : Wing) : State :=
  { tLater tMatrix with
    coaches := [(0, { tMatrix.coach 0 with flags := [⟨9, 3, 1, false, [], [], none⟩] })],
    wings := [(0, x), (1, { tMatrixWing 16 with mq := [tMop (.lodge 0 [])] }), (2, { tMatrixWing 32 with mq := [tMop (.lodge 0 [])] }),
      (3, { tMatrixWing 48 with mq := [tMop (.lodge 0 [])] })] }
theorem witness_MatrixOperationsRun :
    let x := { tMatrixWing 0 with mq := [tMop (.zero 1)] }
    let s := tMatrixRun x
    tablesOk s = true ∧ s.poison = [] ∧ (s.wing 0).mq = tMop (.zero 1) :: [] ∧ (s.die (dieOfCore (coreOfWing 0))).gated = false ∧
      (s.wing 0).canStart (s.die (dieOfCore (coreOfWing 0))).cycle (tMop (.zero 1)) = true ∧ srising 0 (s.wing 0).acc = true := by decide +kernel
/-- Four lodgings of a party that owns the four arrays. -/
theorem witness_MatrixOperationsRun_rendezvous :
    let s := { tMatrixRun { tMatrixWing 0 with mq := [tMop (.lodge 0 [])] } with
      coaches := [(0, tCoach), (16, tCoach), (32, tCoach), (48, tCoach)] }
    (s.party 1).core = coreOfWing 0 ∧ s.fourOwners (coreOfWing 0) 1 = true ∧ (s.rendezvous? (coreOfWing 0)).isSome = true ∧
      tablesOk s = true := by decide +kernel
/-- Lodgings that met are counted. -/
theorem witness_MatrixOperationsRun_lodged :
    let r : MRun := { op := tMop (.lodge 0 []), start := 0, occ := 40, due := 5, bytes := [], words := [], pairs := [], lodge := [], bscale := [], lfmt := 0, rows := [] }
    let s := { tMatrixRun { tMatrixWing 0 with mrun := [r] } with
      wings := (List.range 4).map fun i => (i, { tMatrixWing (16 * i) with mrun := [r] }) }
    (s.wing 0).mrun.find? (fun q => q.op.id = 1) = some r ∧ r.due ≤ (s.die (dieOfCore (coreOfWing 0))).cycle ∧
      (s.lodgings (coreOfWing 0) r.start).length = 4 ∧ tablesOk s = true ∧ s.poison = [] := by decide +kernel
/-- An operation whose last cycle has come; a stream that has waited 4,096 cycles. -/
theorem witness_MatrixOperationsRun_ends :
    let r : MRun := { op := tMop (.zero 1), start := 0, occ := 2, due := 5, bytes := [], words := [], pairs := [], lodge := [], bscale := [], lfmt := 0, rows := [] }
    let s := tMatrixRun { tMatrixWing 0 with mrun := [r] }
    let w := { tMatrixWing 0 with mq := [tMop (.stream 0 0 false false)], lodged := true, starve := some (0, false) }
    (s.wing 0).mrun.find? (fun q => q.op.id = 1) = some r ∧ r.due ≤ (s.die (dieOfCore (coreOfWing 0))).cycle ∧
      (s.coach r.op.coach).flags = [⟨9, 3, 1, false, [], [], none⟩] ∧ unbeaten (s.coach r.op.coach) 1 ∧ w.starving = some (tMop (.stream 0 0 false false)) ∧
      w.starve = some (0, false) ∧ 0 + 4096 ≤ 4096 := by decide +kernel

/-- A walk of one iteration of SV0 that has not begun, one whose beat has not arrived, and one that is over. -/
def tBeat (p : Place) : Beat :=
  { id := 1, len := 64, here := false, bytes := [], place := p, va := 0, asked := false, cached := false, stamp := 0, left := 0, page := 0, coach := 0, go := 1, line := none }
def tWalk (d : Drover) : State := tLater (tDrover { d with active := tTable, hs := [(7, tHandle)] })
theorem witness_DroverWalks :
    let s := tWalk { Drover.reset with st := .running }
    let b := tWalk { Drover.reset with st := .running, pos := 1, q0 := [tBeat (.sram 0 256)] }
    let h := tWalk { Drover.reset with st := .running, pos := 1, q0 := [tBeat (.home 0 false)] }
    tablesOk s = true ∧ (s.wing 0).drover.st = .running ∧ (s.wing 0).drover.pos < iterations tTable ∧
      (s.wing 0).drover.next ≤ (s.die 0).cycle ∧ (s.wing 0).drover.cycle + 2 ≤ (s.die 0).cycle ∧
      (s.party (s.coach (s.wing 0).drover.coach).party).st = .running ∧
      (∀ st ∈ (s.wing 0).drover.reads (indicesOf tTable 0), ((s.wing 0).drover.queue st).length < queueCap st) ∧
      (b.wing 0).drover.beat? 1 = some (7, tBeat (.sram 0 256)) ∧ b.walkClear (tBeat (.sram 0 256)) (.sram 0 256) 8 = true ∧
      h.walkClear (tBeat (.home 0 false)) (.home 0 false) 8 = true ∧ h.isDead 0 = false ∧ h.ownBytes 1 = [] ∧ calmL2 h ∧
      h.ahead (h.coach 0).asid.toNat (dieOf 0) 0 = false := by decide +kernel
theorem witness_DroverWalks_stamp : oneEpoch (tWalk Drover.reset) 1 0 ∧ dieOf (tBeat .nowhere).coach < 10 ∧
    (tWalk { Drover.reset with st := .running }).walkLives (tWalk { Drover.reset with st := .running } |>.wing 0).drover = true :=
  ⟨fun _ _ => rfl, by decide, by decide⟩
/-- A walk that a later DGO took over, its beats all here. -/
theorem witness_DroverWalks_old :
    let s := { tWalk { Drover.reset with st := .running, old := [(0, 9, 1)] } with
      coaches := [(0, { tCoach with flags := [⟨9, 3, 1, false, [], [], none⟩] })] }
    (s.wing 0).drover.old = [(0, 9, 1)] ∧ (s.wing 0).drover.sa ++ (s.wing 0).drover.q0 ++ (s.wing 0).drover.q1 = [] ∧
      (s.coach 0).flags = [⟨9, 3, 1, false, [], [], none⟩] := by decide
theorem witness_DroverWalks_end :
    let s := { tWalk { Drover.reset with st := .running, pos := 1, fe := some 9 } with
      coaches := [(0, { tCoach with flags := [⟨9, 3, 1, false, [], [], none⟩] })] }
    (s.wing 0).drover.arrived = true ∧ (s.wing 0).drover.fe = some 9 ∧ (s.coach 0).flags = [⟨9, 3, 1, false, [], [], none⟩] ∧
      iterations (s.wing 0).drover.active ≤ (s.wing 0).drover.pos := by decide +kernel

/-- The header of a queue at an address: BASE, CAP 16, PROD 1, CONS 0. -/
def tQueue (q base : Nat) : List Host.Cell :=
  msets (msets (msets [] q (leBytes base 8)) (q + 8) (leBytes 16 8)) (q + 16) (leBytes 1 8)
/-- Job 1 of PASID 7 beside a translation queue at 0x1000; a job table at 0x3000 whose first entry is job 1's. -/
def tTcq (base : Nat) : State :=
  { tState { tCoach with h := [(1, tHandle), (2, { tHandle with st := .pending, walk := 1 })] } with
    cfg := { (tState tCoach).cfg with tcq := 0x1000, jobtab := 0x3000 },
    mem := msets (msets (tQueue 0x1000 base) 0x3000 (leBytes 1 8)) 0x3008 (leBytes 1 8), jobs := [(1, { tJob with pasid := 7 })] }
def tTcqCmd (kind : Nat) (ds : List Dbl) : TcqCmd :=
  { ds := BitVec.ofNat 64 (kind + 65536) :: ds, passed := [], awaitOps := [], refused := false, done := false, host := false }
/-- No queue, a malformed header, a command; a PASID of no job, and job 1's. -/
theorem witness_TranslationCommands :
    let s := tTcq 0x2000
    let z := { s with cfg := { s.cfg with tcq := 0 } }
    let b := { tTcq 1 with tcqBad := some (1, 16) }
    tablesOk s = true ∧ memoryOk s = true ∧ s.tcq = none ∧ 2 ≤ s.cfg.st ∧ quietQueue s s.cfg.tcq ∧ quietQueue z z.cfg.tcq ∧ quietQueue b b.cfg.tcq ∧ s.stalled = [] ∧ z.queueHead z.cfg.tcq = .nothing ∧
      b.queueHead b.cfg.tcq = .malformed 1 16 ∧ s.queueHead s.cfg.tcq = .command 0x2000 0 ∧
      s.sysPlace (s.cfg.tcq + 24) = .home 0x1018 false ∧ s.isDead 0x1018 = false ∧
      s.jobs.find? (fun e => e.2.present && e.2.pasid == 8) = none ∧
      s.jobs.find? (fun e => e.2.present && e.2.pasid == 7) = some (1, { tJob with pasid := 7 }) := by decide +kernel
theorem witness_TranslationCommands_home : quietHome (tTcq 0x2000) 0 0x1018 ∧ quietHome (tTcq 0x2000) 0 0x1020 :=
  ⟨tQuiet (by decide) (by decide), tQuiet (by decide) (by decide)⟩
/-- CONTEXT of a job without and with an entry; PRESP of tag 5; an invalidation of the page that h1 describes. -/
theorem witness_TranslationCommands_each :
    let c := tTcqCmd 1 []
    let s := { tTcq 0x2000 with tcq := some c }
    let p := tTcqCmd 4 [5]
    let r : PageReq := { tick := 0, tag := 5, op := 1, va := 0, wr := false, host := false, asid := 1, posted := true }
    let o := tOp (.preq 5 false false) []
    let q := { tTcq 0x2000 with tcq := some p, pageReqs := [r], ops := [o], coaches := [(0, { tCoach with flags := [⟨9, 3, 1, false, [], [], none⟩] })] }
    let i := tTcqCmd 2 [0x100000000000000, 0x10000]
    let v := { tTcq 0x2000 with tcq := some i }
    { s with cfg := { s.cfg with jobtab := 0 } }.jobEntry? c.asid = none ∧ s.jobEntry? c.asid = some (0, [1, 1, 0, 0]) ∧ s.noteSys s.cfg.jobtab 2048 = s ∧ c.kind = 1 ∧
      c.done = false ∧ p.kind = 4 ∧
      q.pageReqs.find? (fun x => x.tag == dbits (p.arg 1) 15 0 && !x.host && x.asid.toNat == p.asid) = some r ∧ q.op? r.op = some o ∧
      (q.coach o.coach).flags = [⟨9, 3, 1, false, [], [], none⟩] ∧ i.kind = 2 ∧ (0 ∉ i.passed) ∧ (519 ∉ i.passed) ∧
      (v.die (dieOfCore 519)).gated = false ∧ (v.coach 0).present = true ∧ (v.coach 0).asid.toNat = i.asid ∧ srising 0 (v.coach 0).h = true ∧
      (sget Handle.blank (v.coach 0).h 1).hit i.asid i.lo i.hi = true ∧ (sget Handle.blank (v.coach 0).h 2).hit i.asid i.lo i.hi = false := by
  decide +kernel
/-- A release that every core has passed, and a refused command; DONE lies at 0x1020. -/
theorem witness_TranslationCommands_complete :
    let c := { tTcqCmd 5 [] with passed := List.range 520 }
    let d := { tTcqCmd 2 [] with done := true, refused := true }
    let s := { tTcq 0x2000 with tcq := some c }
    tablesOk s = true ∧ memoryOk s = true ∧ c.kind = 5 ∧ c.passed.length = 520 ∧ s.stillWaits c.awaitOps = false ∧ c.asid ≠ 0 ∧ d.asid ≠ 0 ∧
      d.done = true ∧ s.sysPlace (s.cfg.tcq + 32) = .home 0x1020 false ∧ s.isDead 0x1020 = false := by decide +kernel

/-- Functions 0 and 8 at the ends of what they see and reach. -/
theorem witness_HostAndBoot :
    let s := tState tCoach
    let v := { s with bars := [(8, { base := some 0, ranges := [(0x200000, 0x200000)], atomicOp := false })] }
    tablesOk s = true ∧ memoryOk s = true ∧ 2 ≤ s.cfg.st ∧ s.isDead (tEnd - 8) = false ∧
      (v.bars.map fun e => e.2.ranges) = [[(0x200000, 0x200000)]] ∧ s.hostMayPut 64 2 = true ∧ s.cfg.st = 2 ∧ State.reset.cfg.st ≠ 2 ∧ State.reset.cfg.st = 1 := by
  decide +kernel
theorem witness_HostAndBoot_reach :
    let s := tState tCoach
    let v := { s with bars := [(8, { base := some 0, ranges := [(0x200000, 0x200000)], atomicOp := false })] }
    s.bar2Reaches 0 (tEnd - 8) 8 = true ∧ s.bar2Reaches 0 (memEnd - 8) 9 = false ∧ v.bar2Reaches 8 0x3FFFF8 8 = true ∧
      v.bar2Reaches 8 0x3FFFF8 9 = false := by
  refine ⟨?_, ?_, ?_, ?_⟩
  · simp only [State.bar2Reaches, addressable_below (pa := tEnd - 8) (n := 8) (by decide)]; rfl
  · simp only [State.bar2Reaches, addressable_above (pa := memEnd - 8) (n := 9) (by decide)]; rfl
  · simp only [State.bar2Reaches, addressable_below (pa := 0x3FFFF8) (n := 8) (by decide)]; decide
  · simp only [State.bar2Reaches, addressable_below (pa := 0x3FFFF8) (n := 9) (by decide)]; decide
theorem witness_HostAndBoot_write : (∀ i, i < 2 → quietHome (tState tCoach) 0 (64 + i)) ∧ calmL2 (tState tCoach) :=
  ⟨fun i h => tQuiet (by match i, h with | 0, _ => decide | 1, _ => decide) (by decide), by decide⟩
/-- A package in recovery, and the command that brings an image. -/
theorem witness_HostAndBoot_image :
    let s := { State.reset with cfg := { State.reset.cfg with st := 0 }, mbox := { State.reset.mbox with busy := true, cmd := BitVec.ofNat 64 imageCode } }
    s.cfg.st = 0 ∧ s.mbox.busy = true ∧ (tState tCoach).cfg.st ≠ 0 :=
  ⟨rfl, rfl, by decide⟩
/-- A bitmap at 0x3000 that says region 0 is live, which it was not. -/
theorem witness_HostAndBoot_liveness :
    let s := { tState tCoach with
      cfg := { (tState tCoach).cfg with livemap := 0x200000 }, mem := msets [] 0x200000 [1], dead := [(0, 1)] }
    2 ≤ s.cfg.st ∧ s.cfg.livemap ≠ 0 ∧ srising 0 s.dead = true ∧ tablesOk s = true ∧ memoryOk s = true ∧
      (nth (s.plainRead (s.sysPlace (s.cfg.livemap + 0 / 8)) 1) 0 0).getLsbD (0 % 8) = true ∧ sget 0 s.dead 0 ≠ 0 ∧ (s.job 0).present = false ∧ s.isDead (s.cfg.livemap % 2 ^ 40) = false := by decide +kernel

theorem witness_MemoryUpkeepAndLimits :
    let s := { tState tCoach with refreshOwed := [(3, 8)], refreshAlert := [(3, 1)], poison := [.line 64] }
    srising 0 s.refreshOwed = true ∧ srising 0 s.refreshAlert = true ∧ sget 0 s.refreshOwed 3 = 8 ∧ s.cfg.errlog = 0 ∧
      (Site.line 0 ∉ s.poison) ∧ Site.line 64 ∈ s.poison ∧ (Site.line 64 ∉ s.latent) ∧ Site.line 64 ∈ { s with latent := [.line 64] }.latent ∧
      srising 0 s.dies = true ∧ srising 0 s.amps = true ∧ s.limits.current < 2001 ∧ 2000 ≤ s.limits.current ∧
      ((List.range 8).map fun d => if d = 7 then 16001 else sget 0 s.amps d).sum = 16001 ∧ s.limits.power < 8001 ∧
      8000 ≤ s.limits.power ∧ s.limits.junction < 114 ∧ 105 ≤ s.limits.junction ∧ 850 < (s.die 7).mhz := by decide

/-- Job 1 on port 3, its generation 5 begun: die 0 has cut. -/
def tSnapOn (n : Snap) : State :=
  { tState tCoach with
    linksDown := [], launches := [(1, { Launch.blank with fin := false, asid := 1, parties := [1] })],
    parties := [(1, { tPartyRec with die := 7 })],
    jobs := [(1, { tJob with ports := 8, tag := 77, pkgs := 2, snap := n })] }
def tGen : Snap := { Snap.blank with state := 1, gen := 5, cuts := [(0, { DieCut.blank with cut := true })] }
theorem witness_LinksCarryItems_waymark :
    let s := tSnapOn tGen
    let n := (s.job 1).snap
    tablesOk s = true ∧ memoryOk s = true ∧ isDieLink (dieLink 0 1) = true ∧ linkStart (dieLink 0 1) = 0 ∧ linkEnd (dieLink 0 1) = 1 ∧ isDieLink (dieLinkOf 0 8 1) = true ∧
      isDieLink (dieLinkOf 0 1 1) = false ∧ s.linkUp (dieLink 0 1) = true ∧ n.running = true ∧
      (s.cutOf 1 0).cut = true ∧ (dieLink 0 1 ∉ (s.cutOf 1 1).seen) ∧ s.oldOnTheWay 1 1 = false ∧ (s.cutOf 1 1).delayed = none ∧
      s.delayers 1 1 = [] := by decide +kernel
theorem witness_LinksCarryItems_cuts : cutsOk (tSnapOn tGen) 1 := ⟨by decide, by decide⟩
theorem witness_LinksCarryItems_items :
    let s := tSnapOn Snap.blank
    s.linkUp 3 = true ∧ (s.job 1).ports.getLsbD 3 = true ∧ (s.job 1).snap.rollback = false ∧ tEnd - 4 + 4 ≤ memEnd ∧ 0 < 4 ∧
      isLink 3 = true ∧ isLink (dieLink 0 1) = true ∧ srising 0 s.linksDown = true ∧ (∃ l ∈ bothWays (dieLink 0 1), s.linkUp l = true) ∧
      (s.coach 0).present = true ∧ (s.coach 0).asid ≠ 0 ∧ (s.job (s.coach 0).asid.toNat).present = true ∧
      (s.party (s.coach 0).party).launch ≠ 0 ∧ State.reset.linkUp 15 = false ∧ (∀ l ∈ bothWays 15, State.reset.linkUp l = false) := by
  decide +kernel
theorem witness_LinksCarryItems_stamp :
    let s := tSnapOn Snap.blank
    s.stampOk 1 (portDie 3) 0 = (s, true) ∧ s.stampOk 1 (homeDie 64) 0 = (s, true) ∧ plainHome s 1 64 0 :=
  ⟨rfl, rfl, tQuiet (by decide) (by decide), fun _ _ => rfl, by decide⟩
/-- The job table names port 15 for job 1, and no other package has reported. -/
theorem witness_LinksCarryItems_training :
    let s := { tState tCoach with
      cfg := { (tState tCoach).cfg with jobtab := 0x3000 },
      mem := msets (msets (msets [] 0x3000 (leBytes 1 8)) 0x3008 (leBytes 1 8)) 0x3010 (leBytes 0x8000 8) }
    let t := tSnapOn tGen
    s.linkUp 15 = false ∧ 2 ≤ s.cfg.st ∧ s.tick < 2 ^ 64 ∧ s.jobEntryAt? 0 = some [1, 1, 0x8000, 0] ∧ (nth [1, 1, (0x8000 : Dbl), 0] 2 0).getLsbD 15 = true ∧
      srising 0 s.linksDown = true ∧ (t.job 1).present = true ∧ (t.job 1).snap.running = true ∧ (t.job 1).snap.coord = (t.job 1).pkg ∧
      1 < (t.job 1).pkgs ∧ 1 ≠ (t.job 1).pkg ∧ ((1, 1) ∉ (t.job 1).snap.reports) := by decide +kernel

/-- A cut delayed for 2 ms; a report and a verdict for generation 5 of the job of tag 77. -/
theorem witness_GenerationsProceed :
    let s := { tSnapOn { tGen with cuts := [(7, { DieCut.blank with delayed := some 0 })] } with tick := 3400000 }
    let d0 : Dbl := BitVec.ofNat 64 (2 + 65536 + 77 * 2 ^ 32)
    let d1 : Dbl := 5
    let v0 : Dbl := BitVec.ofNat 64 (3 + 65536 + 77 * 2 ^ 32)
    let w := tSnapOn { tGen with coord := 1 }
    tablesOk s = true ∧ (s.cutOf 1 7).delayed = some 0 ∧ (s.job 1).snap.asked = false ∧ 0 + 3400000 ≤ s.tick ∧ (s.job 1).snap.running = true ∧
      s.jobOfTag (dbits d0 63 32) = some 1 ∧ dbits d1 31 0 = (s.job 1).snap.gen % 2 ^ 32 ∧ dbits d0 7 0 = 2 ∧
      (s.job 1).snap.coord = (s.job 1).pkg ∧ dbits v0 7 0 = 3 ∧ w.jobOfTag (dbits v0 63 32) = some 1 ∧
      (w.job 1).snap.coord ≠ (w.job 1).pkg ∧ (w.job 1).snap.running = true := by decide +kernel
theorem witness_GenerationsProceed_cuts : cutsOk (tSnapOn tGen) 1 := ⟨by decide, by decide⟩
/-- Tables that map one 64 KiB page of the device half at its first address: the five levels of R190. -/
def tSmall : List Host.Cell :=
  [(0x12000, 0x14000), (0x14000, 0x16000), (0x16000, 0x18000), (0x10000, 0x12000)].foldl
    (fun (m : List Host.Cell) (e : Nat × Nat) => msets m e.1 (leBytes (2 ^ 63 + e.2) 8))
    (msets (msets [] 0x18000 (leBytes (2 ^ 63 + 31 * 2 ^ 56 + 0x30000) 8)) 0x18008 (leBytes (2 ^ 48) 8))
theorem witness_GenerationsProceed_drain :
    let s := { tSnapOn { tGen with stage := .granules, full := true } with mem := tSmall }
    tablesOk s = true ∧ (s.job 1).snap.running = true ∧ (s.job 1).snap.stage = .granules ∧
      s.drainList 1 = (0x100000000000000, 3, false, 0) :: [] ∧ srising 0 s.granules = true := by decide +kernel
theorem witness_GenerationsProceed_notice :
    let s := tSnapOn { Snap.blank with rollback := true }
    (s.job 1).snap.rollback = true ∧ isDieLink (dieLink 0 1) = true ∧ s.linkUp (dieLink 0 1) = true ∧
      (dieLink 0 1 ∉ (s.cutOf 1 1).notices) ∧ srising 0 (s.job 1).snap.cuts = true ∧
      ∃ d l, d < 10 ∧ l ∈ s.jobLinksIn 1 d ∧ (l ∉ (s.cutOf 1 d).notices) ∧ (d, l) ≠ (1, dieLink 0 1) :=
  ⟨by decide, by decide, by decide, by decide, by decide, 9, dieLink 2 9, by decide⟩

def tMail (code : Nat) (args : List Dbl) (g : Option Grant) : State :=
  { tState tCoach with mbox := { State.reset.mbox with cmd := BitVec.ofNat 64 code, args := args, busy := true, grant := g } }
def tGrant : Option Grant := some { scope := 0xF, expiry := 1 }
/-- A command without its scope; then each command with it. -/
theorem witness_MailboxCommands :
    let n := tMail 2 [0, 0, 0] none
    let s (code : Nat) (a b : Dbl) : State := tMail code [a, b, 0] tGrant
    let g : State := { s 3 0x2000000000000000 97311 with dies := [(0, { Die.reset with gated := true })] }
    let j := s 7 0x20 0
    n.mbox.busy = true ∧ n.mbox.code = 2 ∧ n.granted 0 = false ∧ (s 1 0 0).mbox.code = 1 ∧
      ((s 2 0 0x3FF).mbox.code = 2 ∧ (s 2 0 0x3FF).granted 0 = true ∧ dbits ((s 2 0 0x3FF).mbox.arg 1) 63 10 = 0 ∧ (s 2 0 0x3FF).mbox.arg 1 ≠ 0) ∧
      (g.mbox.code = 3 ∧ g.granted 0 = true ∧ (g.die 0).gated = true ∧ ((s 3 0 0).die 0).gated = false ∧
        bits (g.mbox.arg 0).toNat 63 60 = 2 ∧ (g.mbox.arg 1).toNat < 98304 ∧ (768 - (g.core 0).l1share) * 128 = 90112) ∧
      ((s 4 0 0x3FF).mbox.code = 4 ∧ srising 0 (s 4 0 0x3FF).dies = true) ∧
      ((s 5 1 0).mbox.code = 5 ∧ (s 5 1 0).granted 2 = true ∧ dbits ((s 5 1 0).mbox.arg 0) 63 17 = 0 ∧ srising 0 (s 5 1 0).jobs = true ∧
        ((s 5 1 0).mbox.arg 0).getLsbD 16 = false) ∧
      ((s 6 1 10).mbox.code = 6 ∧ (s 6 1 10).granted 3 = true ∧ dbits ((s 6 1 10).mbox.arg 1) 4 0 = 10 ∧
        dbits ((s 6 1 9).mbox.arg 1) 4 0 < 10 ∧ 24 < dbits ((s 6 1 25).mbox.arg 1) 4 0 ∧ (s 6 0 0).mbox.arg 0 = 0) ∧
      (j.mbox.code = 7 ∧ j.granted 1 = true ∧ dbits (j.mbox.arg 0) 5 4 = 2) ∧
      ((s 8 0 0).mbox.code = 8 ∧ injOk 0 Injector.reset 0 = true ∧ injOk 2 Injector.reset 0 = false) := by decide +kernel
/-- The last double of the scratchpad that is not the L1's. -/
theorem witness_MailboxCommands_scan :
    let s := tMail 3 [0x2000000000000000, 90111] tGrant
    (s.mbox.arg 1).toNat < (768 - (s.core 0).l1share) * 128 ∧ (s.mbox.arg 1).toNat < 98304 := by decide +kernel
/-- The second double of a line that its slice holds, wherever the line is at home. -/
theorem witness_MailboxCommands_slice :
    let s := { tMail 3 [0x3000000000000000, 1] tGrant with dies := [(0, { Die.reset with gated := true })], l2 := [(0, { L2Line.blank with valid := 0xF })] }
    bits (s.mbox.arg 0).toNat 63 60 = 3 ∧ (s.mbox.arg 1).toNat < 393216 ∧ (s.die 0).gated = true ∧ s.sliceDbl (sliceOf 0) 1 = some 0 :=
  ⟨by decide, by decide, by decide, by simp [State.sliceDbl]; decide⟩

theorem witness_DebugEvents :
    let i : Injector := { ctl := 0x8000000000000007, trig := 1, cnt := 7, data := 0 }
    let d : Injector := { ctl := 0x8200000000000000, trig := 1, cnt := 1, data := 1700000 }
    let g : Tagged := { coach := 0, asid := 1, seq := 0, addr := 0, cycle := 0, levels := [], fin := some 3 }
    let s := { tState tCoach with
      mbox := { State.reset.mbox with stops := [(0, 1)], grant := some { scope := 15, expiry := 0 } }, linksDown := [],
      injectors := [(0, i), (1, d)], lantern := some (64, 10),
      wings := [(0, { Wing.blank with tagged := [g] })] }
    (0, 1) ∈ s.mbox.stops ∧ i.cnt = i.last ∧ d.cnt = d.last ∧ 0 ≤ s.tick ∧ (1 : BitVec 10).getLsbD 0 = true ∧ srising 0 s.dies = true ∧
      s.mbox.grant = some { scope := 15, expiry := 0 } ∧ s.cfg.errlog = 0 ∧
      (∀ l ∈ injLinks 0 (dbits i.ctl 55 48), s.linkUp l = true) ∧ s.injector 0 = i ∧ dbits i.ctl 59 56 < 2 ∧ dbits i.ctl 15 0 < 8 ∧
      s.injector 1 = d ∧ 2 ≤ dbits d.ctl 59 56 ∧ dbits d.data 23 0 ≤ 1700000 ∧ i.ctl.getLsbD 63 = true ∧ d.ctl.getLsbD 63 = true ∧
      s.lantern = some (64, 10) ∧ (s.wing 0).lanInt ≠ some ((s.die (dieOfCore (coreOfWing 0))).cycle / 2 ^ 10) ∧
      (s.wing 0).tagged.find? (fun x => x.fin.isSome) = some g ∧ tablesOk s = true := by decide +kernel
/-- Whichever cycle of an interval is picked, the interval has it. -/
theorem witness_DebugEvents_lantern :
    ∃ now : Nat, Config.lanternPick 0 (now / 2 ^ 10) 10 % 2 ^ 10 ≤ now % 2 ^ 10 :=
  ⟨2 ^ 10 - 1, Nat.le_of_lt_succ (Nat.mod_lt _ (by decide))⟩

/-- A key queue at 0x1000 with a command at 0x2000; job 1 of key slot 4. -/
def tKeys (c : Option TcqCmd) (keys : Sparse KeySlot) : State :=
  { tState tCoach with
    cfg := { (tState tCoach).cfg with kmq := 0x1000 }, mem := msets (tQueue 0x1000 0x2000) 0x2000 [4, 0, 1], kmq := c, keys := keys,
    jobs := [(1, { tJob with key := 4 })] }
def tKeyCmd (kind asid : Nat) (ds : List Dbl) : TcqCmd :=
  { ds := BitVec.ofNat 64 (kind + 65536 * asid) :: ds, passed := [0x2000], awaitOps := [], refused := false, done := false, host := false }
theorem witness_KeyManagerCommands :
    let s := tKeys none []
    (s.job 0).present = false ∧ s.kmq = none ∧ quietQueue s s.cfg.kmq ∧ s.stalled = [] ∧ s.cfg.errlog = 0 ∧ 2 ≤ s.cfg.st ∧ s.queueHead s.cfg.kmq = .command 0x2000 0 ∧
      s.sysPlace (s.cfg.kmq + 24) = .home 0x1018 false ∧ s.isDead 0x1018 = false ∧ dbits (s.sysDbl 0x2000) 7 0 = 4 ∧
      dbits (s.sysDbl 0x2000) 15 8 = 0 := by decide +kernel
/-- Commands of a job that does not exist, of one without a key, and of one whose key serves it or another. -/
theorem witness_KeyManagerCommands_each :
    let x : KeySlot := { key := [], asid := 1, meas := [] }
    let s := tKeys (some (tKeyCmd 3 1 [0, 0x100000000000000, 0])) [(4, x)]
    let c := tKeyCmd 3 1 [0, 0x100000000000000, 0]
    let e := { tKeys (some c) [(4, { x with asid := 2 })] with leaf := 2 ^ 20 }
    s.stalled = [] ∧ (s.job (tKeyCmd 1 2 []).asid).present = false ∧
      (s.job c.asid).present = true ∧ ((tKeys none []).keys.find? fun e => e.1 == 4).map (·.2) = none ∧
      (s.keys.find? fun e => e.1 == (s.job c.asid).key.toNat).map (·.2) = some x ∧ x.asid.toNat = c.asid ∧ x.meas = (s.job c.asid).meas ∧
      c.kind = 3 ∧ tbit (c.arg 1).toNat 56 = false ∧ s.encRange c.asid (c.arg 2).toNat (c.arg 3).toNat 4 = true ∧
      tbit ((tKeyCmd 3 1 [0x100000000000000]).arg 1).toNat 56 = true ∧ 2 ^ 20 ≤ e.leaf ∧ s.leaf < 2 ^ 20 ∧
      (e.keys.find? fun e => e.1 == 4).map (·.2.asid.toNat) = some 2 := by decide +kernel
theorem witness_KeyManagerCommands_home :
    let c := tKeyCmd 3 1 [0, 0x100000000000000, 0]
    let s := tKeys (some c) []
    quietHome s 0 0x1018 ∧ quietHome s 0 (keyStatusAt c) ∧ quietHome s 0 (keyDoneAt s) ∧ quietHome s 0 ((c.slotAddr + 48) % 2 ^ 40) ∧ noReserve s :=
  ⟨tQuiet (by decide) (by decide), tQuiet (by decide) (by decide), tQuiet (by decide) (by decide), tQuiet (by decide) (by decide),
    tNoReserve (by decide)⟩

/-- SHFL.DN by 2 in v2 of v1, the one syllable of a placed bundle; the bundle that the machine enters. -/
def tShfl : Instr := .shflDn { g := .always, dup := false, win := 0, d := .reg 2, a := .reg 1, b := .const 2, m := false }
def tPlaced : State := State.reset.withFetchWord 192 0x5278100E9000000000
def tFetched : Option (List Byte × State) := tPlaced.fetchBundle 0 placedPc.toNat []
/-- A booting package; one in which a refresh is nothing, a wait is due; and one with no coach. -/
theorem witness_StepRunsDecodedInstruction :
    let w := tState { tCoach with stop := .wait 3 0 }
    State.reset.cfg.st = 1 ∧ w.cfg.st ≠ 1 ∧ w.cfg.st ≠ 0 ∧ w.dueEvent = some (.waitEnd 0) ∧
      after (exec (.waitEnd 0) w) (fun _ => true) = true ∧
      (let q := { State.reset with cfg := { State.reset.cfg with st := 2 } }
       q.cfg.st ≠ 1 ∧ q.dueEvent = none ∧ q.issuer = none) := by decide +kernel
/-- The bundle runs: every premise of the last clause. -/
theorem witness_StepRunsDecodedInstruction_bundle :
    tPlaced.cfg.st = 2 ∧ tPlaced.dueEvent = none ∧ tPlaced.issuer = some 0 ∧ (tPlaced.coach 0).soft = none ∧
      (tPlaced.coach 0).stepDue = false ∧ tPlaced.squashes (wingOf 0) = false ∧ badTarget (tPlaced.coach 0).pc = false ∧ (tPlaced.coach 0).pend = none ∧
      (match tFetched with
        | none => false
        | some (bs, r) =>
          let b := bundleOf r bs
          let e := entered r 0 b
          let e2 := e.modCoach 0 fun c =>
            { c with delayImg := none, steps := if c.intrap then c.steps else c.steps - 1, stepDue := c.stepDue || (!c.intrap && c.steps == 1) }
          decide (b.d.single? = some tShfl) && decide (bundleTrap e 0 (r.coach 0) b = none) && decide (r.poison = []) &&
            after (exec tShfl e) (fun u => decide (u.cur.status = .done)) &&
            after (exec tShfl e2) (fun t => decide (t.cur.status = .done) && !(t.coach 0).overflows && tablesOk t && (t.coach 0).present && !(t.coach 0).ended &&
              !t.cur.joined) && decide ((r.coach 0).pend = none)) = true := by decide +kernel
/-- A store at the last word of memory and one past it. -/
theorem witness_OnlyAccessesPastMemoryFault :
    let o (pa : Nat) : Op := tOp (.store 4 false) [tPart (.home pa false) .todo]
    let s (pa : Nat) : State := tWork (o pa)
    (s memEnd).ops.find? (fun x => x.id == 1) = some (o memEnd) ∧ (o memEnd).performed = false ∧
      (s memEnd).mayPerform (o memEnd) 0 (tPart (.home memEnd false) .todo) = true ∧
      (s (memEnd - 4)).mayPerform (o (memEnd - 4)) 0 (tPart (.home (memEnd - 4) false) .todo) = true := by decide +kernel
theorem witness_EncodeThenDecode :
    tShfl.wf = true ∧ (encode tShfl).isSome = true ∧ (Instr.nop .v 0).wf = true ∧ (encode (.nop .v 0)).isSome = true := by decide
theorem witness_DecodedIsWellFormed :
    let r : RawOp := { opc := 0x52, grd := 15, dup := false, ext := 0, la := (0, 0), lb := (0, 0), lc := (0, 0), d := 2, a := 1, b := 2, mod := 0 }
    r.opc < 256 ∧ r.grd < 32 ∧ r.d < 256 ∧ r.mod < 8 ∧ (∃ i, decodeSlot .v r = .ok i) := ⟨by decide, by decide, by decide, by decide, _, rfl⟩
/-- The invariants hold where the placed bundle is about to run, and a step follows. -/
theorem witness_MemoryCanonicalInvariant :
    memoryOk tPlaced = true ∧ tablesOk tPlaced = true ∧ innerOk tPlaced = true ∧ after (step tPlaced) (fun _ => true) = true := by
  decide +kernel
/-- And where tables and memory list something. -/
theorem witness_TablesOrderedInvariant :
    let s := tPaged { tCoach with stop := .wait 3 0, v := [(64, 5), (65, 6)] }
    memoryOk s = true ∧ tablesOk s = true ∧ innerOk s = true ∧ after (step s) (fun _ => true) = true := by decide +kernel
/-- R68: 15 is a constant code; -1 takes one literal word, 2^31 two in a 64-bit operand and one in another. -/
theorem test_literal_forms :
    let x : SourceOperand := ⟨true, true, none, false⟩
    let v : SourceOperand := ⟨false, false, none, false⟩
    literalForm x none (.int 15) = some (0xDF, []) ∧ literalForm x none (.int (-1)) = some (0xFE, [0xFFFFFFFF]) ∧
      literalForm x none (.int (2 ^ 31)) = some (0xFF, [0x80000000, 0]) ∧ literalForm v none (.int (2 ^ 31)) = some (0xFE, [0x80000000]) ∧
      literalForm x (some 1) (.int 15) = some (0xFE, [15]) := by
  decide
/-- R71: from 8, five bundles of 24 bytes reach 128; a location of 4 is refused for 16. -/
theorem test_align_fill : alignFill 64 8 = some 5 ∧ alignFill 16 4 = none := by decide

end Sys2Proof.Tests
end

section
/-! PROOFS. The state after reset (R24, R81, R379, R389): it lists no byte, no entry of a table and no work, so that every
invariant holds of it for want of anything to check; the sixteen UALink ports that are down are the one table with entries. -/

namespace Sys2Proof.Machine

open Sys2Proof.Safety

/-- A state that lists no byte and no core keeps every memory in canonical form. -/
theorem memoryOk_of_empty {s : State} (hmem : s.mem = []) (hhost : s.host = []) (hcores : s.cores = []) :
    memoryOk s = true := by
  simp [memoryOk, swf, srising, hmem, hhost, hcores]

/-- Tables without entries are in order. -/
theorem tablesOk_of_empty {s : State} (hcoaches : s.coaches = []) (hwings : s.wings = []) (hcores : s.cores = [])
    (hparties : s.parties = []) (hlaunches : s.launches = []) (hjobs : s.jobs = []) (hdies : s.dies = []) :
    tablesOk s = true := by
  simp [tablesOk, srising, hcoaches, hwings, hcores, hparties, hlaunches, hjobs, hdies]

/-- Where no coach, wing, party or job is listed, only the package's own tables have to be in order. -/
theorem innerOk_of_empty {s : State} (hcoaches : s.coaches = []) (hwings : s.wings = []) (hparties : s.parties = [])
    (hjobs : s.jobs = []) :
    innerOk s = (srising 0 s.dead && srising 0 s.granules && srising 0 s.linksDown && srising 0 s.refreshOwed &&
      srising 0 s.refreshAlert) := by
  simp [innerOk, hcoaches, hwings, hparties, hjobs]

/-- R379, R381: the UALink ports train later, when the job table names them; after reset each of the sixteen is down. -/
theorem linkUp_reset_of_port : ∀ p, p < 16 → State.reset.linkUp p = false := by decide

theorem memoryOk_reset : memoryOk State.reset = true := memoryOk_of_empty rfl rfl rfl

theorem tablesOk_reset : tablesOk State.reset = true := tablesOk_of_empty rfl rfl rfl rfl rfl rfl rfl

/-- The table of links that are down lists the ports 0 to 15 in rising order; the other tables of the package are empty. -/
theorem innerOk_reset : innerOk State.reset = true := by
  have hports : srising 0 State.reset.linksDown = true := by decide
  rw [innerOk_of_empty rfl rfl rfl rfl, hports]
  rfl

/-- Settles O59: the registers and the work are read off the reset state, and each invariant holds by its own lemma. -/
theorem resetState : Obligations.ResetState := by
  have hmask : State.reset.cfg.devmask.toNat = 0x301030F := by decide +kernel
  exact ⟨rfl, rfl, hmask, rfl, linkUp_reset_of_port, rfl, rfl, rfl, rfl, rfl, rfl, rfl, rfl,
    memoryOk_reset, tablesOk_reset, innerOk_reset⟩

end Sys2Proof.Machine
end
